-- ==== Sys2Proof/Word.lean ====
section
/-! DEFINITION. The word types of the machine. -/

namespace Sys2Proof

/-- A 64-bit scalar value (R18). -/
abbrev Word := BitVec 64
/-- One byte of a memory. -/
abbrev Byte := BitVec 8
/-- The 512 bytes of a vector register (R18). -/
abbrev VWord := BitVec 4096
/-- The 1,024 bits of a mask register (R18). -/
abbrev MWord := BitVec 1024
/-- The 28,672 bytes of an accumulator tile (R18, R147). -/
abbrev AccWord := BitVec 229376
/-- The 256 bits of a stream descriptor (R98). -/
abbrev Desc := BitVec 256
/-- A 48-bit code address. -/
abbrev Addr48 := BitVec 48

end Sys2Proof
end

