-- ==== Sys2Proof/Syntax.lean ====
section
/-! DEFINITION. The syntax of the machine's instructions: operand names, the code enumerations of R43 and R44, and the
one inductive of instructions. -/
namespace Sys2Proof

/-- A scalar register number, `s0`..`s63` (R18). -/
abbrev SReg := BitVec 6
/-- A vector register number (R18). -/
abbrev VReg := BitVec 5
/-- A mask register number (R18). -/
abbrev MReg := BitVec 3
/-- A predicate number (R18). -/
abbrev PReg := BitVec 3
/-- An accumulator tile number (R18). -/
abbrev AccReg := BitVec 3
/-- A reduction latch number (R18). -/
abbrev QReg := BitVec 2
/-- A stream descriptor number (R18). -/
abbrev DReg := BitVec 4
/-- A weight latch number (R18). -/
abbrev LReg := BitVec 1
/-- A global tile index (R8): die 7:6, cluster 5:3, tile 2:0. -/
abbrev TileIx := BitVec 8
/-- A global cluster number: die 4:3, cluster 2:0 (R254). -/
abbrev ClusterIx := BitVec 5
/-- A die number (R7). -/
abbrev DieIx := BitVec 2
/-- A context number (R350). -/
abbrev CtxNo := BitVec 7
/-- A gang instance number of a cluster (R254, R299). -/
abbrev GangNo := BitVec 16
/-- A join handle (R257). -/
abbrev Handle := BitVec 32

/-- The element types of R44, codes 0 to 14. -/
inductive ETy where
  | i4 | n4 | i8 | n8 | i16 | n16 | i32 | n32 | f4 | f8e4 | f8e5 | f16 | bf16 | f32 | a56
deriving DecidableEq, Repr

/-- The matrix formats of R44, codes 0 to 6. -/
inductive MFmt where
  | i8 | f8e4 | f8e5 | bf16 | sx8 | sx4 | sx2
deriving DecidableEq, Repr

/-- The three shared-exponent formats as `VCVTSX` names them (R222). -/
inductive SxFmt where
  | sx8 | sx4 | sx2
deriving DecidableEq, Repr

/-- The rounding codes of R44: four static modes, stochastic, and dynamic (from `RMODE`). -/
inductive RM where
  | rne | rtz | rdn | rup | sr | dyn
deriving DecidableEq, Repr

/-- The condition codes of R43. -/
inductive Cond where
  | eq | ne | lt | ge | ltn | gen | le | gt | len | gtn | feq | fne | flt | fle | unord | ord
deriving DecidableEq, Repr

/-- The scopes of R44 and R107. -/
inductive Scope where
  | tile | cluster | die | device | system
deriving DecidableEq, Repr

/-- The address spaces of R86. -/
inductive Space where
  | sp | g | cd
deriving DecidableEq, Repr

/-- The access sizes of R40: 1, 2, 4 or 8 bytes. -/
inductive Size where
  | b | h | w | d
deriving DecidableEq, Repr

/-- The order codes of R40 and R138. -/
inductive Order where
  | relaxed | acq | rel | acqrel
deriving DecidableEq, Repr

/-- The group sizes of the repeatable vector forms (R191). -/
inductive Grp where
  | g1 | g2 | g4
deriving DecidableEq, Repr

/-- The factor of a pack or unpack (R209). -/
inductive XFac where
  | x2 | x4
deriving DecidableEq, Repr

/-- The integer operations of `AMO` (R139). -/
inductive AmoOp where
  | add | and | or | xor | swap | min | max | minn | maxn
deriving DecidableEq, Repr

/-- The floating operations of `AMOF` with their NaN option and the choice of BF16 at size 1 (R140). -/
inductive FAmo where
  | add (bf : Bool) | min (prop bf : Bool) | max (prop bf : Bool)
deriving DecidableEq, Repr

/-- The operations of `VAMO` (R142): the integer ones of `AMO`, and the two floating additions. -/
inductive VamoOp where
  | int (f : AmoOp) | addF32 | addBf16
deriving DecidableEq, Repr

/-- The sign operations of `VFSGN` (R199). -/
inductive SgnOp where
  | cpy | neg | xor
deriving DecidableEq, Repr

/-- The collective operations of R168. -/
inductive CollOp where
  | bcast | gather | sum | max | sumscat
deriving DecidableEq, Repr

/-- The values `REDCLR` writes (R219). -/
inductive ClrVal where
  | zero | ninf | pinf
deriving DecidableEq, Repr

/-- The four engine queues of a tile (R149). -/
inductive QueueId where
  | cpy | gath | coll | strm
deriving DecidableEq, Repr

/-- The operating points of a cluster (R12). -/
inductive OpPoint where
  | minimum | nominal | boostStep | boost
deriving DecidableEq, Repr

/-- A rail that steps toward a target: a cluster's own rail, the fabric rail or the memory-port rail of a die, or band rail b
of a die (R12, R312, R313). -/
inductive RailId where
  | cluster (cl : ClusterIx) | fabric (die : DieIx) | port (die : DieIx) | band (die : DieIx) (b : BitVec 2)
deriving DecidableEq, Repr

/-- The slots of a bundle, in the order of the presence bits (R32). -/
inductive Slot where
  | s0 | s1 | c | m | v0 | v1 | x | e
deriving DecidableEq, Repr

/-- The six opcode spaces (R32). -/
inductive Lane where
  | scalar | control | memory | vector | matrix | engine
deriving DecidableEq, Repr

/-- The instructions of the machine: one constructor for each row of the opcode table. The first two are the
slotless bundle headers (R35), then the slot instructions of the six opcode spaces (R45), then the steps the device
and its surroundings take of themselves. -/
inductive Instr where
  /-- NO_OP_BUNDLE (R35). -/
  | noOpBundle (stall : BitVec 5)
  /-- PADDING_HEADER (R35). -/
  | paddingHeader (stall : BitVec 5)
  /-- ADD (R64). -/
  | add (d a b : SReg)
  /-- ADDI (R64). -/
  | addi (d a : SReg) (i : BitVec 13)
  /-- SUB (R64). -/
  | sub (d a b : SReg)
  /-- AND (R64). -/
  | and (d a b : SReg)
  /-- ANDI (R64). -/
  | andi (d a : SReg) (i : BitVec 13)
  /-- OR (R64). -/
  | or (d a b : SReg)
  /-- ORI (R64). -/
  | ori (d a : SReg) (i : BitVec 13)
  /-- XOR (R64). -/
  | xor (d a b : SReg)
  /-- XORI (R64). -/
  | xori (d a : SReg) (i : BitVec 13)
  /-- SHL (R64). -/
  | shl (d a b : SReg)
  /-- SHLI (R64). -/
  | shli (d a : SReg) (n : BitVec 6)
  /-- SHR (R64). -/
  | shr (d a b : SReg)
  /-- SHRI (R64). -/
  | shri (d a : SReg) (n : BitVec 6)
  /-- SRA (R64). -/
  | sra (d a b : SReg)
  /-- SRAI (R64). -/
  | srai (d a : SReg) (n : BitVec 6)
  /-- MIN (R64). -/
  | min (d a b : SReg)
  /-- MAX (R64). -/
  | max (d a b : SReg)
  /-- MINN (R64). -/
  | minn (d a b : SReg)
  /-- MAXN (R64). -/
  | maxn (d a b : SReg)
  /-- ADDX (R64). -/
  | addx (d a b : SReg) (h : BitVec 3)
  /-- MOVI (R65). -/
  | movi (d : SReg) (i : BitVec 19)
  /-- MOVHI (R65). -/
  | movhi (d : SReg) (i : BitVec 16)
  /-- BFX (R66). -/
  | bfx (d a : SReg) (pos len1 : BitVec 6)
  /-- BFXS (R66). -/
  | bfxs (d a : SReg) (pos len1 : BitVec 6)
  /-- BFI (R66). -/
  | bfi (d a : SReg) (pos len1 : BitVec 6)
  /-- CLZ (R67). -/
  | clz (d a : SReg)
  /-- CTZ (R67). -/
  | ctz (d a : SReg)
  /-- POPC (R67). -/
  | popc (d a : SReg)
  /-- CMP (R68). -/
  | cmp (pd : PReg) (c : Cond) (a b : SReg)
  /-- CMPI (R68). -/
  | cmpi (pd : PReg) (c : Cond) (a : SReg) (i : BitVec 12)
  /-- SEL (R69). -/
  | sel (d a b : SReg) (neg : Bool) (q : PReg)
  /-- PLOG (R70). -/
  | plog (pd pa pb : PReg) (tb : BitVec 4)
  /-- MOVP (R71). -/
  | movp (d : SReg)
  /-- MOVP_SET (R71). -/
  | movpSet (a : SReg)
  /-- MUL (R72). -/
  | mul (d a b : SReg)
  /-- MULH (R72). -/
  | mulh (d a b : SReg)
  /-- MULHN (R72). -/
  | mulhn (d a b : SReg)
  /-- DIV (R73). -/
  | div (d a b : SReg)
  /-- DIVN (R73). -/
  | divn (d a b : SReg)
  /-- REM (R73). -/
  | rem (d a b : SReg)
  /-- REMN (R73). -/
  | remn (d a b : SReg)
  /-- SFADD (R74). -/
  | sfadd (d a b : SReg) (t : ETy) (r : RM)
  /-- SFSUB (R74). -/
  | sfsub (d a b : SReg) (t : ETy) (r : RM)
  /-- SFMUL (R74). -/
  | sfmul (d a b : SReg) (t : ETy) (r : RM)
  /-- SFMA (R74). -/
  | sfma (d a b : SReg) (t : ETy) (r : RM)
  /-- SFMIN (R75). -/
  | sfmin (d a b : SReg) (t : ETy)
  /-- SFMAX (R75). -/
  | sfmax (d a b : SReg) (t : ETy)
  /-- SFCMP (R76). -/
  | sfcmp (pd : PReg) (c : Cond) (a b : SReg) (t : ETy)
  /-- SFCVT (R77). -/
  | sfcvt (d a : SReg) (dty sty : ETy) (r : RM)
  /-- BR (R78). -/
  | br (q : PReg) (neg : Bool) (o : BitVec 21)
  /-- BRP (R78). -/
  | brp (q : PReg) (neg : Bool) (o : BitVec 21)
  /-- JR (R79). -/
  | jr (a : SReg) (neg : Bool) (q : PReg)
  /-- CALL (R79). -/
  | call (q : PReg) (neg : Bool) (o : BitVec 21)
  /-- CALLR (R79). -/
  | callr (a : SReg) (neg : Bool) (q : PReg)
  /-- RET (R79). -/
  | ret (a : SReg) (neg : Bool) (q : PReg)
  /-- LOOP (R81). -/
  | loop (l : Bool) (a : SReg) (e : BitVec 18)
  /-- LOOPI (R81). -/
  | loopi (l : Bool) (n e : BitVec 12)
  /-- BRK (R83). -/
  | brk (i : BitVec 19)
  /-- MOVC (R84). -/
  | movc (d : SReg) (cr : BitVec 10)
  /-- MOVCW (R84). -/
  | movcw (a : SReg) (cr : BitVec 10)
  /-- SPAWN (R295). -/
  | spawn (a : SReg)
  /-- SPAWNG (R299). -/
  | spawng (a b : SReg)
  /-- JINIT (R300). -/
  | jinit (d a : SReg)
  /-- QINIT (R301). -/
  | qinit (a b : SReg)
  /-- JWAIT (R303). -/
  | jwait (a : SReg)
  /-- JWAIT_HERE (R303). -/
  | jwaitHere (a : SReg)
  /-- YIELD (R304). -/
  | yield
  /-- END (R305). -/
  | endTask
  /-- HOLD (R307). -/
  | hold
  /-- UNHOLD (R307). -/
  | unhold
  /-- WAITT (R156). -/
  | waitt (a : SReg) (q : QueueId)
  /-- BARG (R308). -/
  | barg
  /-- SYSC (R385). -/
  | sysc (i : BitVec 19)
  /-- TRAP (R384). -/
  | trap (i : BitVec 19)
  /-- RETT (R382). -/
  | rett (a b : SReg)
  /-- RETT_SKIP (R382). -/
  | rettSkip (a b : SReg)
  /-- SLEEP_CG (R318). -/
  | sleepCg
  /-- SLEEP_RETAIN (R318). -/
  | sleepRetain
  /-- SLEEP_OFF (R318). -/
  | sleepOff
  /-- WAKE (R319). -/
  | wake (a : SReg)
  /-- CKPT (R403). -/
  | ckpt (d : SReg)
  /-- SAVEX (R388). -/
  | savex (d : SReg)
  /-- RESTX (R389). -/
  | restx (a : SReg)
  /-- RESTX_KEEP (R389). -/
  | restxKeep (a : SReg)
  /-- RESTX_DROP (R389). -/
  | restxDrop (a : SReg)
  /-- TLBINV_PAGE (R359). -/
  | tlbinvPage (a b : SReg) (sc : Scope)
  /-- TLBINV_ASID (R359). -/
  | tlbinvAsid (b : SReg) (sc : Scope)
  /-- TLBINV_ALL (R359). -/
  | tlbinvAll (sc : Scope)
  /-- ICINV (R360). -/
  | icinv (sc : Scope)
  /-- ABORT (R306). -/
  | abort
  /-- LD (R131). -/
  | ld (spc : Space) (d b : SReg) (z : Size) (x : Bool) (o : BitVec 8)
  /-- ST (R131). -/
  | st (spc : Space) (d b : SReg) (z : Size) (o : BitVec 8)
  /-- LDX (R131). -/
  | ldx (spc : Space) (d b i : SReg) (z : Size) (x scl : Bool)
  /-- STX (R131). -/
  | stx (spc : Space) (d b i : SReg) (z : Size) (scl : Bool)
  /-- VLD (R132). -/
  | vld (spc : Space) (d : VReg) (b : SReg) (o : BitVec 11)
  /-- VST (R132). -/
  | vst (spc : Space) (d : VReg) (b : SReg) (o : BitVec 11)
  /-- VLDS (R133). -/
  | vlds (spc : Space) (d : VReg) (b i : SReg) (z : Size) (mk : BitVec 2)
  /-- VSTS (R133). -/
  | vsts (spc : Space) (d : VReg) (b i : SReg) (z : Size) (mk : BitVec 2)
  /-- VLDX (R133). -/
  | vldx (spc : Space) (d : VReg) (b : SReg) (i : VReg) (z : Size) (scl : Bool) (mk : BitVec 2)
  /-- VSTX (R133). -/
  | vstx (spc : Space) (d : VReg) (b : SReg) (i : VReg) (z : Size) (scl : Bool) (mk : BitVec 2)
  /-- VLDD (R134). -/
  | vldd (d : VReg) (k : DReg) (i : SReg) (mk : MReg)
  /-- VSTD (R134). -/
  | vstd (d : VReg) (k : DReg) (i : SReg) (mk : MReg)
  /-- LDFE (R135). -/
  | ldfe (spc : Space) (d b : SReg) (z : Size) (o : BitVec 8)
  /-- LDFE_V (R135). -/
  | ldfeV (spc : Space) (d : VReg) (b : SReg) (z : Size) (o : BitVec 8)
  /-- LDFEC (R135). -/
  | ldfec (spc : Space) (d b : SReg) (z : Size) (o : BitVec 8)
  /-- LDFEC_V (R135). -/
  | ldfecV (spc : Space) (d : VReg) (b : SReg) (z : Size) (o : BitVec 8)
  /-- STFE (R135). -/
  | stfe (spc : Space) (d b : SReg) (z : Size) (o : BitVec 8)
  /-- STFE_V (R135). -/
  | stfeV (spc : Space) (d : VReg) (b : SReg) (z : Size) (o : BitVec 8)
  /-- FESET (R136). -/
  | feset (spc : Space) (b i : SReg)
  /-- FECLR (R136). -/
  | feclr (spc : Space) (b i : SReg)
  /-- AMO (R139). -/
  | amo (spc : Space) (d b : SReg) (f : AmoOp) (sc : Scope) (z : Size) (o : Order)
  /-- AMOF (R140). -/
  | amof (spc : Space) (d b : SReg) (f : FAmo) (sc : Scope) (z : Size) (o : Order)
  /-- CAS (R141). -/
  | cas (spc : Space) (d b : SReg) (sc : Scope) (z : Size) (o : Order)
  /-- VAMO (R142). -/
  | vamo (spc : Space) (d : VReg) (b : SReg) (f : VamoOp) (sc : Scope) (z : Size) (o : Order)
  /-- FENCE (R143). -/
  | fence (sc : Scope) (o : Order)
  /-- STP (R144). -/
  | stp (spc : Space) (d b : SReg) (z : Size) (o : BitVec 8)
  /-- VSTP (R144). -/
  | vstp (spc : Space) (d : VReg) (b : SReg) (o : BitVec 11)
  /-- CONTRIB (R309). -/
  | contrib (d : VReg) (i : SReg) (n : BitVec 7)
  /-- PIPEP (R145). -/
  | pipep (d : VReg) (n : BitVec 4)
  /-- PIPEG (R145). -/
  | pipeg (d : VReg) (n : BitVec 4)
  /-- PREF (R146). -/
  | pref (spc : Space) (dc : Bool) (b : SReg) (o : BitVec 11)
  /-- VPARK (R147). -/
  | vpark (d : VReg) (j : BitVec 6) (c : AccReg)
  /-- VUNPARK (R147). -/
  | vunpark (d : VReg) (rel : Bool) (j : BitVec 6) (c : AccReg)
  /-- DSET (R148). -/
  | dset (d : SReg) (k : DReg) (f : BitVec 6)
  /-- DSET_IMG (R148). -/
  | dsetImg (spc : Space) (d : SReg) (k : DReg)
  /-- DGET (R148). -/
  | dget (d : SReg) (k : DReg) (f : BitVec 6)
  /-- DGET_IMG (R148). -/
  | dgetImg (spc : Space) (d : SReg) (k : DReg)
  /-- VADD (R196). -/
  | vadd (d a b : VReg) (t : ETy) (mk : MReg) (g : Grp) (bc : Bool)
  /-- VSUB (R196). -/
  | vsub (d a b : VReg) (t : ETy) (mk : MReg) (g : Grp) (bc : Bool)
  /-- VADDS (R196). -/
  | vadds (d a b : VReg) (t : ETy) (mk : MReg) (g : Grp) (bc : Bool)
  /-- VSUBS (R196). -/
  | vsubs (d a b : VReg) (t : ETy) (mk : MReg) (g : Grp) (bc : Bool)
  /-- VMUL (R196). -/
  | vmul (d a b : VReg) (t : ETy) (mk : MReg) (g : Grp) (bc : Bool)
  /-- VMULH (R196). -/
  | vmulh (d a b : VReg) (t : ETy) (mk : MReg) (g : Grp) (bc : Bool)
  /-- VMULW (R197). -/
  | vmulw (d a b : VReg) (t : ETy) (mk : MReg) (bc : Bool)
  /-- VMAC (R196). -/
  | vmac (d a b : VReg) (t : ETy) (mk : MReg) (g : Grp) (bc : Bool)
  /-- VMACW (R197). -/
  | vmacw (d a b : VReg) (t : ETy) (mk : MReg) (bc : Bool)
  /-- VABSD (R196). -/
  | vabsd (d a b : VReg) (t : ETy) (mk : MReg) (g : Grp) (bc : Bool)
  /-- VAVG (R196). -/
  | vavg (d a b : VReg) (t : ETy) (mk : MReg) (g : Grp) (bc : Bool)
  /-- VMIN (R196). -/
  | vmin (d a b : VReg) (t : ETy) (mk : MReg) (g : Grp) (bc : Bool)
  /-- VMAX (R196). -/
  | vmax (d a b : VReg) (t : ETy) (mk : MReg) (g : Grp) (bc : Bool)
  /-- VAND (R196). -/
  | vand (d a b : VReg) (t : ETy) (mk : MReg) (g : Grp) (bc : Bool)
  /-- VOR (R196). -/
  | vor (d a b : VReg) (t : ETy) (mk : MReg) (g : Grp) (bc : Bool)
  /-- VXOR (R196). -/
  | vxor (d a b : VReg) (t : ETy) (mk : MReg) (g : Grp) (bc : Bool)
  /-- VANDN (R196). -/
  | vandn (d a b : VReg) (t : ETy) (mk : MReg) (g : Grp) (bc : Bool)
  /-- VSHL (R196). -/
  | vshl (d a b : VReg) (t : ETy) (mk : MReg) (g : Grp) (bc : Bool)
  /-- VSHR (R196). -/
  | vshr (d a b : VReg) (t : ETy) (mk : MReg) (g : Grp) (bc : Bool)
  /-- VSRA (R196). -/
  | vsra (d a b : VReg) (t : ETy) (mk : MReg) (g : Grp) (bc : Bool)
  /-- VCLZ (R196). -/
  | vclz (d a : VReg) (t : ETy) (mk : MReg) (g : Grp)
  /-- VPOPC (R196). -/
  | vpopc (d a : VReg) (t : ETy) (mk : MReg) (g : Grp)
  /-- VCMP (R201). -/
  | vcmp (c : Cond) (d : MReg) (a b : VReg) (t : ETy) (mk : MReg)
  /-- VSEL (R202). -/
  | vsel (d a b : VReg) (t : ETy) (mk : MReg) (g : Grp) (bc : Bool)
  /-- VFADD (R198). -/
  | vfadd (d a b : VReg) (t : ETy) (mk : MReg) (r : RM)
  /-- VFSUB (R198). -/
  | vfsub (d a b : VReg) (t : ETy) (mk : MReg) (r : RM)
  /-- VFMUL (R198). -/
  | vfmul (d a b : VReg) (t : ETy) (mk : MReg) (r : RM)
  /-- VFMA (R198). -/
  | vfma (d a b : VReg) (t : ETy) (mk : MReg) (r : RM)
  /-- VFMIN (R199). -/
  | vfmin (d a b : VReg) (t : ETy) (mk : MReg)
  /-- VFMAX (R199). -/
  | vfmax (d a b : VReg) (t : ETy) (mk : MReg)
  /-- VFSGN (R199). -/
  | vfsgn (d a b : VReg) (t : ETy) (mk : MReg) (f : SgnOp)
  /-- VFCMP (R201). -/
  | vfcmp (c : Cond) (d : MReg) (a b : VReg) (t : ETy) (mk : MReg)
  /-- VFCLASS (R200). -/
  | vfclass (d a : VReg) (t : ETy) (mk : MReg)
  /-- VCVT (R221). -/
  | vcvt (d a : VReg) (sty t : ETy) (mk : MReg) (r : RM)
  /-- VCVT_RES (R221). -/
  | vcvtRes (d a : VReg) (sty t : ETy) (q : QReg) (r : RM)
  /-- VPACK (R209). -/
  | vpack (d a : VReg) (t : ETy) (mk : MReg) (sat : Bool) (x : XFac)
  /-- VUNPACK (R209). -/
  | vunpack (d a : VReg) (t : ETy) (mk : MReg) (x : XFac)
  /-- VPERM (R205). -/
  | vperm (d a b : VReg) (t : ETy) (mk : MReg)
  /-- VPERM2 (R205). -/
  | vperm2 (d a b : VReg) (t : ETy) (mk : MReg)
  /-- VSLIDE (R206). -/
  | vslide (d a : VReg) (s : SReg) (t : ETy) (mk : MReg) (up : Bool)
  /-- VROT (R206). -/
  | vrot (d a : VReg) (s : SReg) (t : ETy) (mk : MReg) (up : Bool)
  /-- VBCAST (R203). -/
  | vbcast (d : VReg) (s : SReg) (t : ETy) (mk : MReg)
  /-- VBCAST_EL (R203). -/
  | vbcastEl (d a : VReg) (s : SReg) (t : ETy) (mk : MReg)
  /-- VEXTR (R204). -/
  | vextr (k : BitVec 10) (a : VReg) (s : SReg) (t : ETy)
  /-- VINS (R204). -/
  | vins (d : VReg) (k : BitVec 10) (s : SReg) (t : ETy)
  /-- VIOTA (R207). -/
  | viota (d : VReg) (t : ETy) (mk : MReg)
  /-- VIOTA_IDX (R207). -/
  | viotaIdx (d : VReg) (t : ETy)
  /-- VCOMPRESS (R207). -/
  | vcompress (d a : VReg) (t : ETy) (mk : MReg)
  /-- VEXPAND (R207). -/
  | vexpand (d a : VReg) (t : ETy) (mk : MReg)
  /-- VMOV (R203). -/
  | vmov (d a : VReg) (t : ETy) (mk : MReg) (g : Grp) (bc : Bool)
  /-- VZIP (R208). -/
  | vzip (d a b : VReg) (t : ETy)
  /-- VUNZIP (R208). -/
  | vunzip (d a : VReg) (t : ETy)
  /-- MLOG (R210). -/
  | mlog (d a b : MReg) (tb : BitVec 4)
  /-- MPOPC (R211). -/
  | mpopc (a : MReg) (s : SReg) (t : ETy) (mk : MReg)
  /-- MFIRST (R211). -/
  | mfirst (a : MReg) (s : SReg) (t : ETy) (mk : MReg) (last : Bool)
  /-- MFROM_NZ (R211). -/
  | mfromNz (d : MReg) (a : VReg) (t : ETy) (mk : MReg)
  /-- MFROM_PRE (R211). -/
  | mfromPre (d : MReg) (s : SReg) (t : ETy) (mk : MReg)
  /-- MFROM_SUF (R211). -/
  | mfromSuf (d : MReg) (s : SReg) (t : ETy) (mk : MReg)
  /-- VEXP2 (R212). -/
  | vexp2 (d a : VReg) (t : ETy) (mk : MReg)
  /-- VLOG2 (R212). -/
  | vlog2 (d a : VReg) (t : ETy) (mk : MReg)
  /-- VRCP (R212). -/
  | vrcp (d a : VReg) (t : ETy) (mk : MReg)
  /-- VRSQRT (R212). -/
  | vrsqrt (d a : VReg) (t : ETy) (mk : MReg)
  /-- VSQRT (R212). -/
  | vsqrt (d a : VReg) (t : ETy) (mk : MReg)
  /-- VSINCOS (R212). -/
  | vsincos (d a : VReg) (t : ETy) (mk : MReg) (cs : Bool)
  /-- VTANH (R212). -/
  | vtanh (d a : VReg) (t : ETy) (mk : MReg)
  /-- RED_SUM (R217). -/
  | redSum (q : QReg) (a : VReg) (t : ETy) (mk : MReg) (sq : Bool)
  /-- RED_MAX (R217). -/
  | redMax (q : QReg) (a b : VReg) (t : ETy) (mk : MReg) (mn : Bool)
  /-- REDMV_GET (R218). -/
  | redmvGet (q : QReg) (s : SReg) (t : ETy)
  /-- REDMV_IDX (R218). -/
  | redmvIdx (q : QReg) (s : SReg)
  /-- REDMV_ADD (R218). -/
  | redmvAdd (q qa : QReg)
  /-- REDMV_SET (R218). -/
  | redmvSet (q : QReg) (s : SReg)
  /-- REDCLR (R219). -/
  | redclr (l : BitVec 4) (v : ClrVal)
  /-- VCVTSX_TO (R223). -/
  | vcvtsxTo (d a : VReg) (t : ETy) (mk : MReg) (f : SxFmt)
  /-- VCVTSX_FROM (R222). -/
  | vcvtsxFrom (d a : VReg) (h : Bool) (t : ETy) (mk : MReg) (f : SxFmt)
  /-- VMATCH (R224). -/
  | vmatch (d : MReg) (a b : VReg) (t : ETy) (mk : MReg) (part : Bool)
  /-- MSHAPE (R237). -/
  | mshape (bands : BitVec 4)
  /-- MLDW (R238). -/
  | mldw (l : LReg) (k : DReg) (s : SReg)
  /-- MLDW_EXPAND (R233). -/
  | mldwExpand (l : LReg) (k : DReg) (j : BitVec 2) (s : SReg) (g n : BitVec 2)
  /-- MMA (R239). -/
  | mma (c : AccReg) (l : LReg) (k : DReg) (s : SReg) (acc : Bool)
  /-- MMA_ABSORB (R234). -/
  | mmaAbsorb (c : AccReg) (l : LReg) (k : DReg) (j : BitVec 2) (s : SReg) (n : BitVec 2) (acc : Bool)
  /-- MZERO (R242). -/
  | mzero (c : AccReg)
  /-- MDRAIN (R241). -/
  | mdrain (c : AccReg) (k : DReg) (s : SReg) (relu sat : Bool) (r : RM)
  /-- MSYNC (R243). -/
  | msync
  /-- CPY (R159). -/
  | cpy (tk : SReg) (da db : DReg)
  /-- CPY_PEER (R159). -/
  | cpyPeer (tk : SReg) (da db : DReg) (s : SReg)
  /-- CPYM (R160). -/
  | cpym (tk : SReg) (da db : DReg) (s : SReg)
  /-- GATH (R162). -/
  | gath (tk : SReg) (da : DReg) (s : SReg) (dat flt : Bool)
  /-- GATH_LIST (R162). -/
  | gathList (tk : SReg) (da db : DReg) (s : SReg) (dat flt : Bool)
  /-- KVPUT (R163). -/
  | kvput (tk : SReg) (db : DReg) (s : SReg)
  /-- KVALLOC (R164). -/
  | kvalloc (tk s : SReg)
  /-- KVGROW (R165). -/
  | kvgrow (tk s : SReg)
  /-- KVFREE (R166). -/
  | kvfree (tk s : SReg)
  /-- COLL (R168). -/
  | coll (tk : SReg) (da db : DReg) (s : SReg) (o : CollOp)
  /-- STRM (R161). -/
  | strm (tk : SReg) (da db : DReg)
  /-- STRM_TAG (R161). -/
  | strmTag (tk : SReg) (da db : DReg)
  /-- STEEPLD (R244). -/
  | steepld (f : MFmt) (s : SReg) (ms : BitVec 4)
  /-- MUPD_BEGIN (R404). -/
  | mupdBegin (tk s : SReg)
  /-- MUPD_WRITE (R406). -/
  | mupdWrite (tk : SReg) (db : DReg) (s : SReg)
  /-- MUPD_COMMIT (R407). -/
  | mupdCommit (tk s : SReg)
  /-- MUPD_ABORT (R404). -/
  | mupdAbort (tk s : SReg)
  /-- ENGQ_STAT (R157). -/
  | engqStat (d s : SReg) (q : QueueId)
  /-- ENGQ_VMASK (R157). -/
  | engqVmask (d s : SReg) (q : QueueId)
  /-- ENGQ_DEPTH (R157). -/
  | engqDepth (d : SReg) (q : QueueId)
  /-- ENGQ_LAST (R157). -/
  | engqLast (d : SReg) (q : QueueId)
  /-- RESULT_WRITEBACK (R22). -/
  | resultWriteback (t : TileIx)
  /-- ASYNC_CAUSE_TAKEN (R375). -/
  | asyncCauseTaken (t : TileIx)
  /-- FE_TAG_OPERATION (R92). -/
  | feTagOperation (t : TileIx)
  /-- FE_TIMEOUT (R92). -/
  | feTimeout (t : TileIx)
  /-- PIPE_WAIT_COMPLETE (R145). -/
  | pipeWaitComplete (t : TileIx)
  /-- PIPE_TIMEOUT (R145). -/
  | pipeTimeout (t : TileIx)
  /-- BARRIER_EPISODE_COMPLETE (R308). -/
  | barrierEpisodeComplete (cl : ClusterIx) (g : GangNo)
  /-- GANG_YIELD_RENDEZVOUS (R264). -/
  | gangYieldRendezvous (cl : ClusterIx) (g : GangNo)
  /-- HOLD_OVERRUN (R265). -/
  | holdOverrun (t : TileIx)
  /-- ENGINE_COMMAND_START (R149). -/
  | engineCommandStart (t : TileIx) (q : QueueId)
  /-- ENGINE_COMMAND_COMPLETE (R150). -/
  | engineCommandComplete (t : TileIx) (q : QueueId)
  /-- KV_MAP_COMMAND (R167). -/
  | kvMapCommand (t : TileIx) (q : QueueId)
  /-- KVGROW_CHUNK_MOVE (R105). -/
  | kvgrowChunkMove (t : TileIx)
  /-- STRM_TAG_TIMEOUT (R161). -/
  | strmTagTimeout (t : TileIx)
  /-- COLLECTIVE_ALL_ARRIVED (R168). -/
  | collectiveAllArrived (t : TileIx)
  /-- COLLECTIVE_TIMEOUT (R170). -/
  | collectiveTimeout (t : TileIx)
  /-- MMA_ROW_COMMIT (R239). -/
  | mmaRowCommit (t : TileIx)
  /-- MLDW_LATCH_LOADED (R238). -/
  | mldwLatchLoaded (t : TileIx) (l : LReg)
  /-- MDRAIN_COMPLETE (R241). -/
  | mdrainComplete (t : TileIx)
  /-- STEEPLD_SLOT_LOADED (R244). -/
  | steepldSlotLoaded (t : TileIx)
  /-- BAND_IDLE_GATE (R228). -/
  | bandIdleGate (t : TileIx) (b : BitVec 2)
  /-- BAND_WAKE_COMPLETE (R228). -/
  | bandWakeComplete (t : TileIx) (b : BitVec 2)
  /-- PARKNEXT_READ (R357). -/
  | parknextRead (die : DieIx)
  /-- PARKANS_RETRY (R357). -/
  | parkansRetry (die : DieIx) (id : BitVec 12)
  /-- PARKANS_FAIL (R357). -/
  | parkansFail (die : DieIx) (id : BitVec 12)
  /-- PARK_TIMEOUT (R357). -/
  | parkTimeout (die : DieIx) (id : BitVec 12)
  /-- SPAWN_JOIN_CHECK (R258). -/
  | spawnJoinCheck (n : Nat)
  /-- SPAWN_CHECK_RETURN (R296). -/
  | spawnCheckReturn (n : Nat)
  /-- SPAWN_RECORD_ENQUEUE (R298). -/
  | spawnRecordEnqueue (n : Nat)
  /-- JOIN_END_ARRIVAL (R259). -/
  | joinEndArrival (n : Nat)
  /-- GRACE_EXPIRY (R285). -/
  | graceExpiry (h : Handle)
  /-- KILL_NOTICE (R286). -/
  | killNotice (n : Nat)
  /-- KILL_TAKEN (R275). -/
  | killTaken (t : TileIx)
  /-- AGING_STEP (R271). -/
  | agingStep (cl : ClusterIx) (n : Nat)
  /-- STEAL (R272). -/
  | steal (t : TileIx)
  /-- GANG_RESERVATION (R273). -/
  | gangReservation (cl : ClusterIx)
  /-- QUANTUM_EXPIRY (R269). -/
  | quantumExpiry (t : TileIx)
  /-- DEEP_PREEMPTION (R269). -/
  | deepPreemption (t : TileIx)
  /-- QUOTA_STOP_TIMEOUT (R322). -/
  | quotaStopTimeout (x : CtxNo)
  /-- QUOTA_CHARGE (R320). -/
  | quotaCharge (x : CtxNo) (uj : Nat)
  /-- QUOTA_REFILL (R321). -/
  | quotaRefill (x : CtxNo)
  /-- BOOST_EDGE (R323). -/
  | boostEdge (die : DieIx)
  /-- FREQUENCY_REQUEST (R315). -/
  | frequencyRequest (cl : ClusterIx) (p : OpPoint)
  /-- RAIL_STEP (R315). -/
  | railStep (rail : RailId)
  /-- THERMAL_CAP_STEP (R329). -/
  | thermalCapStep (cl : ClusterIx) (up : Bool)
  /-- OVER_CURRENT (R326). -/
  | overCurrent (die : DieIx)
  /-- IDLE_TARGET_REACHED (R317). -/
  | idleTargetReached (t : TileIx)
  /-- TILE_WAKE_COMPLETE (R317). -/
  | tileWakeComplete (t : TileIx)
  /-- NOTIFY (R366). -/
  | notify (x : CtxNo) (n : BitVec 16)
  /-- LAUNCH_RECORD_FETCH (R366). -/
  | launchRecordFetch (x : CtxNo)
  /-- STAMP_REFETCH (R366). -/
  | stampRefetch (x : CtxNo)
  /-- CQHEAD (R365). -/
  | cqhead (x : CtxNo) (n : BitVec 16)
  /-- CONTEXT_ACTIVATE (R354). -/
  | contextActivate (x : CtxNo)
  /-- CONTEXT_END (R352). -/
  | contextEnd (x : CtxNo)
  /-- CONTEXT_END_COMPLETE (R352). -/
  | contextEndComplete (x : CtxNo)
  /-- SEGMENT_OWNER_WRITE (R361). -/
  | segmentOwnerWrite (t : TileIx) (g : BitVec 5) (o : BitVec 8)
  /-- SEGMENT_ZERO_COMPLETE (R89). -/
  | segmentZeroComplete (t : TileIx) (g : BitVec 5)
  /-- CADDY_REGION_WRITE (R362). -/
  | caddyRegionWrite (t : TileIx) (i : BitVec 4) (hi : Bool) (w : BitVec 64)
  /-- CONTROL_REGION_WRITE (R353): an aligned word at an offset of the control region or, with bit 20 set, at the offset
  of BAR0 in bits 19:0. -/
  | controlRegionWrite (off : BitVec 21) (w : BitVec 64)
  /-- HOST_APERTURE_ACCESS (R365). -/
  | hostApertureAccess (off : BitVec 36) (w : Option (BitVec 64))
  /-- PEER_WRITE_INBOUND (R369). -/
  | peerWriteInbound (x : CtxNo) (va w : BitVec 64)
  /-- ATTESTATION_GO (R372). -/
  | attestationGo
  /-- PWRCMD_WARM_OFF (R409). -/
  | pwrcmdWarmOff
  /-- PWRCMD_COLD_OFF (R409). -/
  | pwrcmdColdOff
  /-- POWER_FAIL_WARNING (R395). -/
  | powerFailWarning
  /-- PEAT_SAVE (R396). -/
  | peatSave (t : TileIx)
  /-- MODULE_POWER_DOWN (R398). -/
  | modulePowerDown (retained : Bool)
  /-- POWER_RESTORE (R399). -/
  | powerRestore
  /-- CHANNEL_TRAINED (R411). -/
  | channelTrained (ch : BitVec 5)
  /-- CLUSTER_READY (R410). -/
  | clusterReady (cl : ClusterIx)
  /-- CDWR_READY (R413). -/
  | cdwrReady (die : DieIx)
  /-- TILE_RESUME (R400). -/
  | tileResume (t : TileIx)
  /-- MUPD_COMPLETE (R404). -/
  | mupdComplete (t : TileIx)
  /-- RETRAIN_WINDOW_START (R415). -/
  | retrainWindowStart (ch : BitVec 5)
  /-- RETRAIN_WINDOW_END (R415). -/
  | retrainWindowEnd (ch : BitVec 5) (temp : BitVec 16)
  /-- AGEING_REPLAN (R416). -/
  | ageingReplan (dom : BitVec 6) (ps : BitVec 16) (low : Bool)
  /-- TIMING_STRETCH (R414). -/
  | timingStretch (cl : ClusterIx)
  /-- MARGIN_VOLTAGE_RAISE (R414). -/
  | marginVoltageRaise (cl : ClusterIx)
  /-- CADDY_PATROL (R417). -/
  | caddyPatrol (t : TileIx) (line : BitVec 19) (lost : Bool)
  /-- WRITE_REACHES_HOME (R116). -/
  | writeReachesHome (t : TileIx) (n : Nat)
  /-- YALTAN_LINK_FAILURE (R170). -/
  | yaltanLinkFailure (l : BitVec 3)
  /-- YALTAN_LINK_READY (R410). -/
  | yaltanLinkReady (l : BitVec 3)
deriving DecidableEq, Repr

end Sys2Proof
end

