-- ==== Sys2Proof/WellFormed.lean ====
section
/-! DEFINITION. Well-formedness: the conditions an instruction's operands meet beyond their types. -/

namespace Sys2Proof

/-- The integer types, codes 0 to 7 (R189). -/
def ETy.isInt : ETy → Bool
  | .i4 | .n4 | .i8 | .n8 | .i16 | .n16 | .i32 | .n32 => true
  | _ => false

/-- The widening integer types, codes 0 to 5 (R189). -/
def ETy.isWidenInt : ETy → Bool
  | .i4 | .n4 | .i8 | .n8 | .i16 | .n16 => true
  | _ => false

/-- The floating types of the vector arithmetic, codes 11 to 13 (R189). -/
def ETy.isVecFloat : ETy → Bool
  | .f16 | .bf16 | .f32 => true
  | _ => false

/-- The floating types of the scalar arithmetic and of `VFCLASS`, codes 11 to 14 (R74, R200). -/
def ETy.isScalarFloat : ETy → Bool
  | .f16 | .bf16 | .f32 | .a56 => true
  | _ => false

/-- The floating types of `VFSGN`, codes 8 to 14 (R199). -/
def ETy.isAnyFloat : ETy → Bool
  | .f4 | .f8e4 | .f8e5 | .f16 | .bf16 | .f32 | .a56 => true
  | _ => false

/-- The types `RED.MAX` and `RED.MIN` accept (R217). -/
def ETy.isRedMax : ETy → Bool
  | .i16 | .n16 | .i32 | .n32 | .f16 | .bf16 | .f32 => true
  | _ => false

/-- The types `VMATCH` accepts, codes 2 to 5 (R224). -/
def ETy.isMatch : ETy → Bool
  | .i8 | .n8 | .i16 | .n16 => true
  | _ => false

/-- The width in bits of an element of a type in a vector register; A56 has its 64-bit container (R189). -/
def ETy.width : ETy → Nat
  | .i4 | .n4 | .f4 => 4
  | .i8 | .n8 | .f8e4 | .f8e5 => 8
  | .i16 | .n16 | .f16 | .bf16 => 16
  | .i32 | .n32 | .f32 => 32
  | .a56 => 64

/-- The number of elements of a type in one vector register (R189). -/
def ETy.count : ETy → Nat
  | .i4 | .n4 | .f4 => 1024
  | .i8 | .n8 | .f8e4 | .f8e5 => 512
  | .i16 | .n16 | .f16 | .bf16 => 256
  | .i32 | .n32 | .f32 => 128
  | .a56 => 64

/-- An element index of `VEXTR` and `VINS` lies below the element count (R204). -/
def ETy.indexOk (t : ETy) (k : BitVec 10) : Bool := decide (k.toNat < t.count)

/-- The integer conditions, codes 0 to 9 (R43). -/
def Cond.isInt : Cond → Bool
  | .eq | .ne | .lt | .ge | .ltn | .gen | .le | .gt | .len | .gtn => true
  | _ => false

/-- The floating conditions, codes 10 to 15 (R43). -/
def Cond.isFloat (c : Cond) : Bool := !c.isInt

/-- The rounding codes that arithmetic accepts: the static modes and dynamic, not SR (R44, R181). -/
def RM.isArith : RM → Bool
  | .sr => false
  | _ => true

/-- The number of registers in a group (R191). -/
def Grp.size : Grp → Nat
  | .g1 => 1
  | .g2 => 2
  | .g4 => 4

/-- A group begins at a multiple of its size (R192). -/
def Grp.aligned (g : Grp) (v : VReg) : Bool := v.toNat % g.size == 0

/-- The register group a pack or unpack factor spans (R192). -/
def XFac.grp : XFac → Grp
  | .x2 => .g2
  | .x4 => .g4

/-- The narrow types a pack or unpack factor accepts (R209). -/
def XFac.okTy : XFac → ETy → Bool
  | .x2, t => t.isWidenInt
  | .x4, .i4 => true
  | .x4, .n4 => true
  | .x4, .i8 => true
  | .x4, .n8 => true
  | .x4, _ => false

/-- The larger of the two widths of `VCVT` is at most four times the smaller (R220). -/
def cvtRatioOk (st dt : ETy) : Bool :=
  decide (st.width ≤ 4 * dt.width) && decide (dt.width ≤ 4 * st.width)

/-- Every space but the Caddy, which is read-only to ordinary accesses (R44). -/
def Space.notCd : Space → Bool
  | .cd => false
  | _ => true

/-- The scratchpad space, the only one with full/empty tags (R86). -/
def Space.isSp : Space → Bool
  | .sp => true
  | _ => false

/-- The global space, the only one `PREF` accepts (R146). -/
def Space.isG : Space → Bool
  | .g => true
  | _ => false

/-- The eight-byte size, the only one the vector full/empty forms accept (R135). -/
def Size.isD : Size → Bool
  | .d => true
  | _ => false

/-- The sizes `VLDX` and `VSTX` accept (R134). -/
def Size.isWordOrD : Size → Bool
  | .w | .d => true
  | _ => false

/-- The sizes of `AMOF`: every size but one byte (R140). -/
def FAmo.okSize : FAmo → Size → Bool
  | _, .b => false
  | _, _ => true

/-- The choice of BF16 is made at size 1 alone; the bit is reserved at the other sizes (R140). -/
def FAmo.fmtBitOk : FAmo → Size → Bool
  | _, .h => true
  | .add bf, _ => !bf
  | .min _ bf, _ => !bf
  | .max _ bf, _ => !bf

/-- The sizes of `VAMO`: any for the integer operations, 4 bytes for F32 and 2 for BF16 (R142). -/
def VamoOp.okSize : VamoOp → Size → Bool
  | .int _, _ => true
  | .addF32, .w => true
  | .addBf16, .h => true
  | _, _ => false

/-- The orders `FENCE` accepts (R143). -/
def Order.isFence : Order → Bool
  | .relaxed => false
  | _ => true

/-- The base of a group of eight scalar registers: a multiple of 8 other than `s0` (R295). -/
def isGroup8 (a : SReg) : Bool := (a != 0) && a.toNat % 8 == 0

/-- The control registers of the map (R26). -/
def crListed (cr : BitVec 10) : Bool :=
  let n := cr.toNat
  n ≤ 0x04 || (0x08 ≤ n && n ≤ 0x0B) || n == 0x10 || n == 0x11 || (0x18 ≤ n && n ≤ 0x1E) || (0x20 ≤ n && n ≤ 0x23) ||
  (0x28 ≤ n && n ≤ 0x2A) || n == 0x30 || n == 0x31 || n == 0x38 || n == 0x39 || (0x40 ≤ n && n ≤ 0x45) ||
  (0x48 ≤ n && n ≤ 0x4B) || (0x50 ≤ n && n ≤ 0x52) || (0x58 ≤ n && n ≤ 0x5B)

/-- The control registers whose Write column names a mode (R26). -/
def crWritable (cr : BitVec 10) : Bool :=
  let n := cr.toNat
  (0x08 ≤ n && n ≤ 0x0B) || n == 0x11 || n == 0x1E || n == 0x20 || (0x28 ≤ n && n ≤ 0x2A) || n == 0x30 ||
  (0x40 ≤ n && n ≤ 0x45) || (0x58 ≤ n && n ≤ 0x5B)

/-- The control registers only system mode may write (R26). -/
def crSystemWrite (cr : BitVec 10) : Bool :=
  let n := cr.toNat
  n == 0x30 || (0x58 ≤ n && n ≤ 0x5B)

/-- The conditions on the operands of an instruction beyond their types: the codes, register groups and indices that
its entry accepts (R42, R43, R44, R192). A word that breaks one raises ILLEGAL_OP (R46). -/
def Instr.wf : Instr → Bool
  | .noOpBundle stall => stall != 0
  | .paddingHeader _ => true
  | .add _ _ _ => true
  | .addi _ _ _ => true
  | .sub _ _ _ => true
  | .and _ _ _ => true
  | .andi _ _ _ => true
  | .or _ _ _ => true
  | .ori _ _ _ => true
  | .xor _ _ _ => true
  | .xori _ _ _ => true
  | .shl _ _ _ => true
  | .shli _ _ _ => true
  | .shr _ _ _ => true
  | .shri _ _ _ => true
  | .sra _ _ _ => true
  | .srai _ _ _ => true
  | .min _ _ _ => true
  | .max _ _ _ => true
  | .minn _ _ _ => true
  | .maxn _ _ _ => true
  | .addx _ _ _ _ => true
  | .movi _ _ => true
  | .movhi _ _ => true
  | .bfx _ _ pos len1 => decide (pos.toNat + len1.toNat < 64)
  | .bfxs _ _ pos len1 => decide (pos.toNat + len1.toNat < 64)
  | .bfi _ _ pos len1 => decide (pos.toNat + len1.toNat < 64)
  | .clz _ _ => true
  | .ctz _ _ => true
  | .popc _ _ => true
  | .cmp _ c _ _ => c.isInt
  | .cmpi _ c _ _ => c.isInt
  | .sel _ _ _ _ _ => true
  | .plog _ _ _ _ => true
  | .movp _ => true
  | .movpSet _ => true
  | .mul _ _ _ => true
  | .mulh _ _ _ => true
  | .mulhn _ _ _ => true
  | .div _ _ _ => true
  | .divn _ _ _ => true
  | .rem _ _ _ => true
  | .remn _ _ _ => true
  | .sfadd _ _ _ t r => t.isScalarFloat && r.isArith
  | .sfsub _ _ _ t r => t.isScalarFloat && r.isArith
  | .sfmul _ _ _ t r => t.isScalarFloat && r.isArith
  | .sfma _ _ _ t r => t.isScalarFloat && r.isArith
  | .sfmin _ _ _ t => t.isScalarFloat
  | .sfmax _ _ _ t => t.isScalarFloat
  | .sfcmp _ c _ _ t => c.isFloat && t.isScalarFloat
  | .sfcvt _ _ _ _ _ => true
  | .br _ _ _ => true
  | .brp _ _ _ => true
  | .jr _ _ _ => true
  | .call _ _ _ => true
  | .callr _ _ _ => true
  | .ret _ _ _ => true
  | .loop _ _ _ => true
  | .loopi _ _ _ => true
  | .brk _ => true
  | .movc _ cr => crListed cr
  | .movcw _ cr => crWritable cr
  | .spawn a => isGroup8 a
  | .spawng _ _ => true
  | .jinit _ a => (a == 0 || isGroup8 a)
  | .qinit _ _ => true
  | .jwait _ => true
  | .jwaitHere _ => true
  | .yield => true
  | .endTask => true
  | .hold => true
  | .unhold => true
  | .waitt _ _ => true
  | .barg => true
  | .sysc _ => true
  | .trap _ => true
  | .rett _ _ => true
  | .rettSkip _ _ => true
  | .sleepCg => true
  | .sleepRetain => true
  | .sleepOff => true
  | .wake _ => true
  | .ckpt _ => true
  | .savex _ => true
  | .restx _ => true
  | .restxKeep _ => true
  | .restxDrop _ => true
  | .tlbinvPage _ _ _ => true
  | .tlbinvAsid _ _ => true
  | .tlbinvAll _ => true
  | .icinv _ => true
  | .abort => true
  | .ld _ _ _ _ _ _ => true
  | .st spc _ _ _ _ => spc.notCd
  | .ldx _ _ _ _ _ _ _ => true
  | .stx spc _ _ _ _ _ => spc.notCd
  | .vld _ _ _ _ => true
  | .vst spc _ _ _ => spc.notCd
  | .vlds _ _ _ _ _ _ => true
  | .vsts spc _ _ _ _ _ => spc.notCd
  | .vldx _ _ _ _ z _ _ => z.isWordOrD
  | .vstx spc _ _ _ z _ _ => spc.notCd && z.isWordOrD
  | .vldd _ _ _ _ => true
  | .vstd _ _ _ _ => true
  | .ldfe spc _ _ _ _ => spc.isSp
  | .ldfeV spc _ _ z _ => spc.isSp && z.isD
  | .ldfec spc _ _ _ _ => spc.isSp
  | .ldfecV spc _ _ z _ => spc.isSp && z.isD
  | .stfe spc _ _ _ _ => spc.isSp
  | .stfeV spc _ _ z _ => spc.isSp && z.isD
  | .feset spc _ _ => spc.isSp
  | .feclr spc _ _ => spc.isSp
  | .amo spc _ _ _ _ _ _ => spc.notCd
  | .amof spc _ _ f _ z _ => spc.notCd && f.okSize z && f.fmtBitOk z
  | .cas spc d _ _ _ _ => spc.notCd && !(d.getLsbD 0)
  | .vamo spc _ _ f _ z _ => spc.notCd && f.okSize z
  | .fence _ o => o.isFence
  | .stp spc _ _ _ _ => spc.notCd
  | .vstp spc _ _ _ => spc.notCd
  | .contrib _ _ _ => true
  | .pipep _ _ => true
  | .pipeg _ _ => true
  | .pref spc _ _ _ => spc.isG
  | .vpark _ j _ => decide (j.toNat < 56)
  | .vunpark _ _ j _ => decide (j.toNat < 56)
  | .dset _ _ f => decide (f.toNat < 14)
  | .dsetImg _ _ _ => true
  | .dget _ _ f => decide (f.toNat < 14)
  | .dgetImg spc _ _ => spc.notCd
  | .vadd d a b t _ g bc => t.isInt && g.aligned d && g.aligned a && (bc || g.aligned b)
  | .vsub d a b t _ g bc => t.isInt && g.aligned d && g.aligned a && (bc || g.aligned b)
  | .vadds d a b t _ g bc => t.isInt && g.aligned d && g.aligned a && (bc || g.aligned b)
  | .vsubs d a b t _ g bc => t.isInt && g.aligned d && g.aligned a && (bc || g.aligned b)
  | .vmul d a b t _ g bc => t.isInt && g.aligned d && g.aligned a && (bc || g.aligned b)
  | .vmulh d a b t _ g bc => t.isInt && g.aligned d && g.aligned a && (bc || g.aligned b)
  | .vmulw d _ _ t _ _ => t.isWidenInt && Grp.g2.aligned d
  | .vmac d a b t _ g bc => t.isInt && g.aligned d && g.aligned a && (bc || g.aligned b)
  | .vmacw d _ _ t _ _ => t.isWidenInt && Grp.g2.aligned d
  | .vabsd d a b t _ g bc => t.isInt && g.aligned d && g.aligned a && (bc || g.aligned b)
  | .vavg d a b t _ g bc => t.isInt && g.aligned d && g.aligned a && (bc || g.aligned b)
  | .vmin d a b t _ g bc => t.isInt && g.aligned d && g.aligned a && (bc || g.aligned b)
  | .vmax d a b t _ g bc => t.isInt && g.aligned d && g.aligned a && (bc || g.aligned b)
  | .vand d a b _ _ g bc => true && g.aligned d && g.aligned a && (bc || g.aligned b)
  | .vor d a b _ _ g bc => true && g.aligned d && g.aligned a && (bc || g.aligned b)
  | .vxor d a b _ _ g bc => true && g.aligned d && g.aligned a && (bc || g.aligned b)
  | .vandn d a b _ _ g bc => true && g.aligned d && g.aligned a && (bc || g.aligned b)
  | .vshl d a b t _ g bc => t.isInt && g.aligned d && g.aligned a && (bc || g.aligned b)
  | .vshr d a b t _ g bc => t.isInt && g.aligned d && g.aligned a && (bc || g.aligned b)
  | .vsra d a b t _ g bc => t.isInt && g.aligned d && g.aligned a && (bc || g.aligned b)
  | .vclz d a t _ g => t.isInt && g.aligned d && g.aligned a
  | .vpopc d a t _ g => t.isInt && g.aligned d && g.aligned a
  | .vcmp c d _ _ t _ => c.isInt && t.isInt && d != 0
  | .vsel d a b _ _ g bc => g.aligned d && g.aligned a && (bc || g.aligned b)
  | .vfadd _ _ _ t _ r => t.isVecFloat && r.isArith
  | .vfsub _ _ _ t _ r => t.isVecFloat && r.isArith
  | .vfmul _ _ _ t _ r => t.isVecFloat && r.isArith
  | .vfma _ _ _ t _ r => t.isVecFloat && r.isArith
  | .vfmin _ _ _ t _ => t.isVecFloat
  | .vfmax _ _ _ t _ => t.isVecFloat
  | .vfsgn _ _ _ t _ _ => t.isAnyFloat
  | .vfcmp c d _ _ t _ => c.isFloat && t.isVecFloat && d != 0
  | .vfclass _ _ t _ => t.isScalarFloat
  | .vcvt _ _ sty t _ _ => cvtRatioOk sty t
  | .vcvtRes _ _ sty t _ _ => cvtRatioOk sty t
  | .vpack _ a t _ _ x => x.okTy t && x.grp.aligned a
  | .vunpack d _ t _ x => x.okTy t && x.grp.aligned d
  | .vperm _ _ _ _ _ => true
  | .vperm2 _ a _ _ _ => Grp.g2.aligned a
  | .vslide _ _ _ _ _ _ => true
  | .vrot _ _ _ _ _ _ => true
  | .vbcast _ _ _ _ => true
  | .vbcastEl _ _ _ _ _ => true
  | .vextr k _ _ t => t.indexOk k
  | .vins _ k _ t => t.indexOk k
  | .viota _ t _ => t.isInt
  | .viotaIdx _ t => t.isInt
  | .vcompress _ _ _ _ => true
  | .vexpand _ _ _ _ => true
  | .vmov d a _ _ g bc => g.aligned d && (bc || g.aligned a)
  | .vzip d _ _ _ => Grp.g2.aligned d
  | .vunzip d a _ => Grp.g2.aligned d && Grp.g2.aligned a
  | .mlog d _ _ _ => d != 0
  | .mpopc _ _ _ _ => true
  | .mfirst _ _ _ _ _ => true
  | .mfromNz d _ _ _ => d != 0
  | .mfromPre d _ _ _ => d != 0
  | .mfromSuf d _ _ _ => d != 0
  | .vexp2 _ _ t _ => t.isVecFloat
  | .vlog2 _ _ t _ => t.isVecFloat
  | .vrcp _ _ t _ => t.isVecFloat
  | .vrsqrt _ _ t _ => t.isVecFloat
  | .vsqrt _ _ t _ => t.isVecFloat
  | .vsincos _ _ t _ _ => t.isVecFloat
  | .vtanh _ _ t _ => t.isVecFloat
  | .redSum _ _ _ _ _ => true
  | .redMax _ _ _ t _ _ => t.isRedMax
  | .redmvGet _ _ t => (t == .a56 || t == .f32)
  | .redmvIdx _ _ => true
  | .redmvAdd _ _ => true
  | .redmvSet _ _ => true
  | .redclr l _ => l != 0
  | .vcvtsxTo _ _ t _ _ => t.isVecFloat
  | .vcvtsxFrom _ _ _ t _ _ => t == .f32
  | .vmatch d _ _ t _ _ => t.isMatch && d != 0
  | .mshape bands => bands != 0
  | .mldw _ _ _ => true
  | .mldwExpand _ _ _ _ _ _ => true
  | .mma _ _ _ _ _ => true
  | .mmaAbsorb _ _ _ _ _ _ _ => true
  | .mzero _ => true
  | .mdrain _ _ _ _ _ _ => true
  | .msync => true
  | .cpy _ _ _ => true
  | .cpyPeer _ _ _ _ => true
  | .cpym _ _ _ _ => true
  | .gath _ _ s _ _ => !(s.getLsbD 0)
  | .gathList _ _ _ s _ _ => !(s.getLsbD 0)
  | .kvput _ _ s => !(s.getLsbD 0)
  | .kvalloc _ _ => true
  | .kvgrow _ _ => true
  | .kvfree _ _ => true
  | .coll _ _ _ _ _ => true
  | .strm _ _ _ => true
  | .strmTag _ _ _ => true
  | .steepld _ _ ms => ms != 0
  | .mupdBegin tk _ => tk != 0
  | .mupdWrite tk _ _ => tk != 0
  | .mupdCommit tk _ => tk != 0
  | .mupdAbort tk _ => tk != 0
  | .engqStat _ _ _ => true
  | .engqVmask _ _ _ => true
  | .engqDepth _ _ => true
  | .engqLast _ _ => true
  | .resultWriteback _ => true
  | .asyncCauseTaken _ => true
  | .feTagOperation _ => true
  | .feTimeout _ => true
  | .pipeWaitComplete _ => true
  | .pipeTimeout _ => true
  | .barrierEpisodeComplete _ _ => true
  | .gangYieldRendezvous _ _ => true
  | .holdOverrun _ => true
  | .engineCommandStart _ _ => true
  | .engineCommandComplete _ _ => true
  | .kvMapCommand _ _ => true
  | .kvgrowChunkMove _ => true
  | .strmTagTimeout _ => true
  | .collectiveAllArrived _ => true
  | .collectiveTimeout _ => true
  | .mmaRowCommit _ => true
  | .mldwLatchLoaded _ _ => true
  | .mdrainComplete _ => true
  | .steepldSlotLoaded _ => true
  | .bandIdleGate _ _ => true
  | .bandWakeComplete _ _ => true
  | .parknextRead _ => true
  | .parkansRetry _ _ => true
  | .parkansFail _ _ => true
  | .parkTimeout _ _ => true
  | .spawnJoinCheck _ => true
  | .spawnCheckReturn _ => true
  | .spawnRecordEnqueue _ => true
  | .joinEndArrival _ => true
  | .graceExpiry _ => true
  | .killNotice _ => true
  | .killTaken _ => true
  | .agingStep _ _ => true
  | .steal _ => true
  | .gangReservation _ => true
  | .quantumExpiry _ => true
  | .deepPreemption _ => true
  | .quotaStopTimeout _ => true
  | .quotaCharge _ _ => true
  | .quotaRefill _ => true
  | .boostEdge _ => true
  | .frequencyRequest _ _ => true
  | .railStep _ => true
  | .thermalCapStep _ _ => true
  | .overCurrent _ => true
  | .idleTargetReached _ => true
  | .tileWakeComplete _ => true
  | .notify _ _ => true
  | .launchRecordFetch _ => true
  | .stampRefetch _ => true
  | .cqhead _ _ => true
  | .contextActivate _ => true
  | .contextEnd _ => true
  | .contextEndComplete _ => true
  | .segmentOwnerWrite _ _ _ => true
  | .segmentZeroComplete _ _ => true
  | .caddyRegionWrite _ _ _ _ => true
  | .controlRegionWrite _ _ => true
  | .hostApertureAccess _ _ => true
  | .peerWriteInbound _ _ _ => true
  | .attestationGo => true
  | .pwrcmdWarmOff => true
  | .pwrcmdColdOff => true
  | .powerFailWarning => true
  | .peatSave _ => true
  | .modulePowerDown _ => true
  | .powerRestore => true
  | .channelTrained _ => true
  | .clusterReady _ => true
  | .cdwrReady _ => true
  | .tileResume _ => true
  | .mupdComplete _ => true
  | .retrainWindowStart _ => true
  | .retrainWindowEnd _ _ => true
  | .ageingReplan _ _ _ => true
  | .timingStretch _ => true
  | .marginVoltageRaise _ => true
  | .caddyPatrol _ _ _ => true
  | .writeReachesHome _ _ => true
  | .yaltanLinkFailure _ => true
  | .yaltanLinkReady _ => true

end Sys2Proof
end

