-- ==== Sys2Proof/Machine/Numbers.lean ====
section
/-! DEFINITION. The number formats: exact values, rounding, conversion and the floating-point flags (R171 to R188). -/

namespace Sys2Proof.Machine

/-- The value a pattern denotes (R172): a NaN, quiet or signalling, an infinity, or the exact real
(-1)^neg * m * 2^e, in which a zero keeps its sign. -/
inductive Num where
  | nan (sig : Bool)
  | inf (neg : Bool)
  | fin (neg : Bool) (m : Nat) (e : Int)
deriving DecidableEq, Repr

/-- A rounding mode resolved at issue (R181); stochastic rounding carries the state of `SRSEED` after its step (R183). -/
inductive Mode where
  | rne | rtz | rdn | rup | sr (seed : BitVec 32)
deriving DecidableEq, Repr

/-- How a binary format encodes its special values (R176): infinities and NaNs, NaNs only (F8E4), or none (F4). -/
inductive FmtKind where
  | ieee | nanOnly | finite
deriving DecidableEq, Repr

/-- A binary floating format (R174): its fraction bits, exponent bits and bias. -/
structure BinFmt where
  p : Nat
  eb : Nat
  bias : Nat
  kind : FmtKind
deriving DecidableEq, Repr

def fmtF4 : BinFmt := ⟨1, 2, 1, .finite⟩
def fmtF8E4 : BinFmt := ⟨3, 4, 7, .nanOnly⟩
def fmtF8E5 : BinFmt := ⟨2, 5, 15, .ieee⟩
def fmtF16 : BinFmt := ⟨10, 5, 15, .ieee⟩
def fmtBF16 : BinFmt := ⟨7, 8, 127, .ieee⟩
def fmtF32 : BinFmt := ⟨23, 8, 127, .ieee⟩
def fmtA56 : BinFmt := ⟨45, 10, 511, .ieee⟩

/-- The flags of `FPFLAGS` (R29): NV 0, DZ 1, OF 2, UF 3, NX 4, SAT 5. -/
abbrev Flags := BitVec 6
def flNV : Flags := 1
def flDZ : Flags := 2
def flOF : Flags := 4
def flUF : Flags := 8
def flNX : Flags := 16
def flSAT : Flags := 32
def flNone : Flags := 0

/-- A flag that is set when a condition holds. -/
def flIf (b : Bool) (f : Flags) : Flags := if b then f else 0

/-- The width of the sign, exponent and fraction. -/
def BinFmt.width (f : BinFmt) : Nat := 1 + f.eb + f.p
/-- The exponent of the unit of the subnormals: 1 - bias - p (R175). -/
def BinFmt.umin (f : BinFmt) : Int := 1 - (f.bias : Int) - (f.p : Int)
/-- The pattern of the largest finite magnitude (R175, R176). -/
def BinFmt.maxPat (f : BinFmt) : Nat :=
  match f.kind with
  | .ieee => ((2 ^ f.eb - 1) <<< f.p) - 1
  | .nanOnly => 2 ^ (f.eb + f.p) - 2
  | .finite => 2 ^ (f.eb + f.p) - 1
/-- The pattern of +infinity, where the format has one (R176). -/
def BinFmt.infPat (f : BinFmt) : Nat := (2 ^ f.eb - 1) <<< f.p
/-- The canonical quiet NaN; +0 for F4, which has none (R176, R185). -/
def BinFmt.nanPat (f : BinFmt) : Nat :=
  match f.kind with
  | .ieee => f.infPat + 2 ^ (f.p - 1)
  | .nanOnly => 2 ^ (f.eb + f.p) - 1
  | .finite => 0
/-- The sign bit of a negative value at its place. -/
def BinFmt.signed (f : BinFmt) (neg : Bool) (mag : Nat) : Nat := if neg then 2 ^ (f.eb + f.p) + mag else mag

/-- The value of a pattern (R175, R176). -/
def BinFmt.read (f : BinFmt) (x : Nat) : Num :=
  let mag := x % 2 ^ (f.eb + f.p)
  let neg := x.testBit (f.eb + f.p)
  let e := mag >>> f.p
  let fr := mag % 2 ^ f.p
  let normal : Num := if e = 0 then .fin neg fr f.umin else .fin neg (2 ^ f.p + fr) (f.umin + e - 1)
  match f.kind with
  | .ieee => if e = 2 ^ f.eb - 1 then (if fr = 0 then .inf neg else .nan (decide (fr < 2 ^ (f.p - 1)))) else normal
  | .nanOnly => if mag = 2 ^ (f.eb + f.p) - 1 then .nan false else normal
  | .finite => normal

/-- The higher of two neighbours is chosen for a remainder `r` of `k` dropped bits above the lower one `lo`, at a value
that is negative or not (R182, R183). `tieUp` marks the tie above the largest finite magnitude, which goes up. -/
def roundsUp (mode : Mode) (neg tieUp : Bool) (lo r k : Nat) : Bool :=
  match mode with
  | .rne => decide (2 ^ k < 2 * r) || (decide (2 * r = 2 ^ k) && (lo % 2 == 1 || tieUp))
  | .rtz => false
  | .rdn => neg
  | .rup => !neg
  | .sr seed => decide (seed.toNat * 2 ^ k < r * 2 ^ 32)

/-- The magnitude pattern a non-zero value m * 2^e rounds to, unlimited above, and whether it is inexact (R182). The
pattern of magnitude q units of exponent u is ((u - umin) << p) + q, for subnormal and normal numbers alike. -/
def BinFmt.roundMag (f : BinFmt) (mode : Mode) (neg : Bool) (m : Nat) (e : Int) : Nat × Bool :=
  let u := max f.umin (e + (Nat.log2 m : Int) - f.p)
  let base := (u - f.umin).toNat <<< f.p
  if u ≤ e then (base + m <<< (e - u).toNat, false)
  else
    let k := (u - e).toNat
    let lo := base + m >>> k
    let r := m % 2 ^ k
    if r = 0 then (lo, false)
    else (if roundsUp mode neg (decide (lo = f.maxPat)) (m >>> k) r k then lo + 1 else lo, true)

/-- A magnitude below the smallest normal one (R186). -/
def BinFmt.tiny (f : BinFmt) (m : Nat) (e : Int) : Bool :=
  decide (e + (Nat.log2 m : Int) < 1 - (f.bias : Int))

/-- What an overflow of a finite value writes, and its flags (R185). -/
def BinFmt.overflow (f : BinFmt) (mode : Mode) (sat neg : Bool) : Nat × Flags :=
  if sat || f.kind == .finite then (f.signed neg f.maxPat, flSAT ||| flNX)
  else
    let toInf : Bool := match mode with
      | .rne => true
      | .sr _ => true
      | .rtz => false
      | .rup => !neg
      | .rdn => neg
    if !toInf then (f.signed neg f.maxPat, flOF ||| flNX)
    else if f.kind == .nanOnly then (f.nanPat, flOF ||| flNX)
    else (f.signed neg f.infPat, flOF ||| flNX)

/-- A value rounded once into a format, with the flags it sets (R182 to R186). `sat` selects the saturating option. -/
def BinFmt.round (f : BinFmt) (mode : Mode) (sat : Bool) (x : Num) : Nat × Flags :=
  match x with
  | .nan sig => (f.nanPat, flIf (sig || f.kind == .finite) flNV)
  | .inf neg =>
    match f.kind with
    | .ieee => if sat then (f.signed neg f.maxPat, flSAT) else (f.signed neg f.infPat, 0)
    | .nanOnly => if sat then (f.signed neg f.maxPat, flSAT) else (f.nanPat, flNV)
    | .finite => (f.signed neg f.maxPat, flSAT)
  | .fin neg 0 _ => (f.signed neg 0, 0)
  | .fin neg m e =>
    let r := f.roundMag mode neg m e
    if f.maxPat < r.1 then f.overflow mode sat neg
    else (f.signed neg r.1, flIf r.2 (flNX ||| flIf (f.tiny m e) flUF))

/-- The binary format of a floating type (R174). -/
def binFmt : ETy → Option BinFmt
  | .f4 => some fmtF4
  | .f8e4 => some fmtF8E4
  | .f8e5 => some fmtF8E5
  | .f16 => some fmtF16
  | .bf16 => some fmtBF16
  | .f32 => some fmtF32
  | .a56 => some fmtA56
  | _ => none

/-- The signed integer types (R173). -/
def isSigned : ETy → Bool
  | .i4 | .i8 | .i16 | .i32 => true
  | _ => false

/-- The width of a value of a type: that of its element, but 56 for A56 (R20, R174). -/
def valWidth : ETy → Nat
  | .a56 => 56
  | t => t.width

/-- The real number an integer is. -/
def numOfInt (i : Int) : Num := .fin (decide (i < 0)) i.natAbs 0

/-- A w-bit pattern read as two's complement. -/
def toSigned (w x : Nat) : Int := if x.testBit (w - 1) then (x : Int) - 2 ^ w else x

/-- A pattern of an integer type as an integer (R173). -/
def readInt (t : ETy) (x : Nat) : Int :=
  let y := x % 2 ^ t.width
  if isSigned t then toSigned t.width y else y

/-- The value of a pattern of any type; the bits above its width are ignored (R63, R173, R175). -/
def readNum (t : ETy) (x : Nat) : Num :=
  match binFmt t with
  | some f => f.read (x % 2 ^ valWidth t)
  | none => numOfInt (readInt t x)

/-- The low w bits of an integer. -/
def intBits (w : Nat) (i : Int) : Nat := (i % 2 ^ w).toNat

/-- The smallest and largest value of an integer type (R173). -/
def intMin (t : ETy) : Int := if isSigned t then -(2 ^ (t.width - 1)) else 0
def intMax (t : ETy) : Int := if isSigned t then 2 ^ (t.width - 1) - 1 else 2 ^ t.width - 1

/-- An integer saturated to an integer type, and whether it was clamped (R6). -/
def saturate (t : ETy) (i : Int) : Int × Bool :=
  if i < intMin t then (intMin t, true) else if intMax t < i then (intMax t, true) else (i, false)

/-- The integer a real rounds to, and whether it is inexact (R182, R187). -/
def roundToInt (mode : Mode) (neg : Bool) (m : Nat) (e : Int) : Int × Bool :=
  if 0 ≤ e then (let q : Int := (m <<< e.toNat : Nat); (if neg then -q else q, false))
  else
    let k := (-e).toNat
    let lo := m >>> k
    let r := m % 2 ^ k
    let q : Int := ((if r ≠ 0 && roundsUp mode neg false lo r k then lo + 1 else lo : Nat) : Int)
    (if neg then -q else q, decide (r ≠ 0))

/-- A value converted to an integer type, with the flags it sets (R77, R187). -/
def convertInt (t : ETy) (mode : Mode) (x : Num) : Nat × Flags :=
  match x with
  | .nan _ => (0, flNV)
  | .inf neg => (intBits t.width (if neg then intMin t else intMax t), flSAT)
  | .fin neg m e =>
    let r := roundToInt mode neg m e
    let s := saturate t r.1
    (intBits t.width s.1, flIf (r.2 || s.2) flNX ||| flIf s.2 flSAT)

/-- A value converted to any type (R77, R182 to R187). -/
def convert (t : ETy) (mode : Mode) (sat : Bool) (x : Num) : Nat × Flags :=
  match binFmt t with
  | some f => f.round mode sat x
  | none => convertInt t mode x

/-- A NaN, quiet or signalling. -/
def Num.isNan : Num → Bool
  | .nan _ => true
  | _ => false

/-- A signalling NaN (R176). -/
def Num.isSnan : Num → Bool
  | .nan true => true
  | _ => false

/-- The sign of a number; a NaN counts as positive. -/
def Num.neg : Num → Bool
  | .nan _ => false
  | .inf n => n
  | .fin n _ _ => n

/-- A value with the opposite sign; a NaN stands. -/
def Num.negate : Num → Num
  | .nan s => .nan s
  | .inf n => .inf (!n)
  | .fin n m e => .fin (!n) m e

/-- The signed numerator of a finite value over the unit 2^u, for u at most its exponent. -/
def scaled (neg : Bool) (m : Nat) (e u : Int) : Int :=
  let q : Int := (m <<< (e - u).toNat : Nat)
  if neg then -q else q

/-- The exact sum (R74): infinity minus infinity is invalid; an exact zero sum of unlike signs is +0, or -0 under RDN, and
two operands of one sign keep it. -/
def Num.add (mode : Mode) (a b : Num) : Num × Flags :=
  match a, b with
  | .nan s, y => (.nan false, flIf (s || y.isSnan) flNV)
  | _, .nan s => (.nan false, flIf s flNV)
  | .inf n, .inf k => if n == k then (.inf n, 0) else (.nan false, flNV)
  | .inf n, .fin _ _ _ => (.inf n, 0)
  | .fin _ _ _, .inf k => (.inf k, 0)
  | .fin n m e, .fin n' m' e' =>
    let u := min e e'
    let t := scaled n m e u + scaled n' m' e' u
    if t = 0 then (.fin (if n == n' then n else mode == .rdn) 0 u, 0)
    else (.fin (decide (t < 0)) t.natAbs u, 0)

/-- The exact product (R74): zero times infinity is invalid. -/
def Num.mul (a b : Num) : Num × Flags :=
  match a, b with
  | .nan s, y => (.nan false, flIf (s || y.isSnan) flNV)
  | _, .nan s => (.nan false, flIf s flNV)
  | .inf n, .inf k => (.inf (n ^^ k), 0)
  | .inf n, .fin k m _ => if m = 0 then (.nan false, flNV) else (.inf (n ^^ k), 0)
  | .fin n m _, .inf k => if m = 0 then (.nan false, flNV) else (.inf (n ^^ k), 0)
  | .fin n m e, .fin k m' e' => (.fin (n ^^ k) (m * m') (e + e'), 0)

/-- The exact a * b + c; the product is not rounded and raises no flag of its own but for an invalid operation (R74, R198). -/
def Num.fma (mode : Mode) (a b c : Num) : Num × Flags :=
  let p := a.mul b
  let r := p.1.add mode c
  (r.1, p.2 ||| r.2)

/-- Whether a number lies below another as reals; a NaN is below nothing. -/
def Num.lt (a b : Num) : Bool :=
  match a, b with
  | .nan _, _ => false
  | _, .nan _ => false
  | .inf n, .inf k => n && !k
  | .inf n, .fin _ _ _ => n
  | .fin _ _ _, .inf k => !k
  | .fin n m e, .fin n' m' e' => decide (scaled n m e (min e e') < scaled n' m' e' (min e e'))

/-- Equality as reals; the two zeros are equal and a NaN equals nothing (R43). -/
def Num.eq (a b : Num) : Bool := !a.isNan && !b.isNan && !a.lt b && !b.lt a

/-- The order of the minimum and maximum forms, with -0 below +0 (R75). -/
def Num.below (a b : Num) : Bool := a.lt b || (a.eq b && a.neg && !b.neg)

/-- A floating condition and the flags it sets (R43). -/
def floatCond (c : Cond) (a b : Num) : Bool × Flags :=
  let un := a.isNan || b.isNan
  let nv := flIf (a.isSnan || b.isSnan || (un && (c == .flt || c == .fle))) flNV
  let r : Bool := match c with
    | .feq => a.eq b
    | .fne => !a.eq b
    | .flt => a.lt b
    | .fle => a.lt b || a.eq b
    | .unord => un
    | _ => !un
  (r, nv)

/-- An integer condition on two words of w bits (R43): EQ and NE by pattern, the others by code. -/
def intCond (c : Cond) (w a b : Nat) : Bool :=
  let sa := toSigned w a
  let sb := toSigned w b
  match c with
  | .eq => a == b
  | .ne => a != b
  | .lt => decide (sa < sb)
  | .ge => decide (sb ≤ sa)
  | .ltn => decide (a < b)
  | .gen => decide (b ≤ a)
  | .le => decide (sa ≤ sb)
  | .gt => decide (sb < sa)
  | .len => decide (a ≤ b)
  | .gtn => decide (b < a)
  | _ => false

/-- The smaller or larger of two floating patterns, returned bit for bit (R75): a NaN against a number gives the number,
two NaNs the canonical quiet NaN, and a signalling NaN sets NV. -/
def floatMinMax (t : ETy) (isMax : Bool) (x y : Nat) : Nat × Flags :=
  let a := readNum t x
  let b := readNum t y
  let nv := flIf (a.isSnan || b.isSnan) flNV
  let qn := match binFmt t with
    | some f => f.nanPat
    | none => 0
  let r := if a.isNan && b.isNan then qn
    else if a.isNan then y
    else if b.isNan then x
    else if isMax then (if a.below b then y else x)
    else (if b.below a then y else x)
  (r, nv)

/-- One step of the 32-bit Galois register of stochastic rounding (R183). -/
def srStep (sd : BitVec 32) : BitVec 32 :=
  if sd.getLsbD 0 then (sd >>> 1) ^^^ 0x80200003#32 else sd >>> 1

/-- The four operations of the scalar and vector floating arithmetic. -/
inductive FOp where
  | add | sub | mul | fma
deriving DecidableEq, Repr

/-- The exact result of a floating operation (R74, R198). -/
def FOp.exact (op : FOp) (mode : Mode) (a b c : Num) : Num × Flags :=
  match op with
  | .add => a.add mode b
  | .sub => a.add mode b.negate
  | .mul => a.mul b
  | .fma => a.fma mode b c

/-- A floating operation on three patterns of a type, rounded once under the special option (R74, R198). -/
def floatOp (op : FOp) (t : ETy) (mode : Mode) (x y z : Nat) : Nat × Flags :=
  let e := op.exact mode (readNum t x) (readNum t y) (readNum t z)
  let r := convert t mode false e.1
  (r.1, e.2 ||| r.2)

/-- The bits of a value of a type as a scalar register holds them: I types sign-extended to 64 bits, the others with the
upper bits clear (R63). -/
def scalarOf (t : ETy) (x : Nat) : BitVec 64 :=
  if isSigned t then BitVec.ofInt 64 (toSigned t.width (x % 2 ^ t.width)) else BitVec.ofNat 64 (x % 2 ^ valWidth t)

end Sys2Proof.Machine
end

