-- ==== Sys2Proof/Decode.lean ====
section
/-! DEFINITION. Decoding of headers, slot words and bundles, total on any bytes and rejecting by name, and the encoder. -/

namespace Sys2Proof

/-- Why a pattern is not an instruction: the two causes of R46. -/
inductive Reject where
  | illegalOp | reservedField
deriving DecidableEq, Repr

/-- Bits `lo + n - 1 : lo` of a slot word (R40). -/
def fld (w : BitVec 32) (lo n : Nat) : BitVec n := w.extractLsb' lo n

/-- A code value: one the field does not list raises ILLEGAL_OP (R42, R44). -/
def withCode {α β : Type} (c : Option α) (k : α → Except Reject β) : Except Reject β :=
  match c with
  | some x => k x
  | none => .error .illegalOp

/-- A condition on code values whose breach raises ILLEGAL_OP (R46). -/
def gate {β : Type} (ok : Bool) (k : Except Reject β) : Except Reject β :=
  if ok then k else .error .illegalOp

/-- Reserved bits: one that is not zero raises RESERVED_FIELD (R46). -/
def rsv {β : Type} (ok : Bool) (k : Except Reject β) : Except Reject β :=
  if ok then k else .error .reservedField

/-- The type codes of R44. -/
def ETy.code : ETy → BitVec 4
  | .i4 => 0 | .n4 => 1 | .i8 => 2 | .n8 => 3 | .i16 => 4 | .n16 => 5 | .i32 => 6 | .n32 => 7
  | .f4 => 8 | .f8e4 => 9 | .f8e5 => 10 | .f16 => 11 | .bf16 => 12 | .f32 => 13 | .a56 => 14

/-- The type of a code; code 15 is reserved (R44). -/
def ETy.ofCode (c : BitVec 4) : Option ETy :=
  match c.toNat with
  | 0 => some .i4 | 1 => some .n4 | 2 => some .i8 | 3 => some .n8 | 4 => some .i16 | 5 => some .n16
  | 6 => some .i32 | 7 => some .n32 | 8 => some .f4 | 9 => some .f8e4 | 10 => some .f8e5 | 11 => some .f16
  | 12 => some .bf16 | 13 => some .f32 | 14 => some .a56 | _ => none

/-- The matrix format codes of R44. -/
def MFmt.code : MFmt → BitVec 4
  | .i8 => 0 | .f8e4 => 1 | .f8e5 => 2 | .bf16 => 3 | .sx8 => 4 | .sx4 => 5 | .sx2 => 6

/-- The matrix format of a code; 7 to 15 are reserved (R44). -/
def MFmt.ofCode (c : BitVec 4) : Option MFmt :=
  match c.toNat with
  | 0 => some .i8 | 1 => some .f8e4 | 2 => some .f8e5 | 3 => some .bf16 | 4 => some .sx8 | 5 => some .sx4
  | 6 => some .sx2 | _ => none

/-- The SX format codes of `VCVTSX` (R222). -/
def SxFmt.code : SxFmt → BitVec 2
  | .sx8 => 0 | .sx4 => 1 | .sx2 => 2

/-- The SX format of a code (R222). -/
def SxFmt.ofCode (c : BitVec 2) : Option SxFmt :=
  match c.toNat with
  | 0 => some .sx8 | 1 => some .sx4 | 2 => some .sx2 | _ => none

/-- The rounding codes of R44. -/
def RM.code : RM → BitVec 3
  | .rne => 0 | .rtz => 1 | .rdn => 2 | .rup => 3 | .sr => 4 | .dyn => 7

/-- The rounding of a code; 5 and 6 are reserved (R44). -/
def RM.ofCode (c : BitVec 3) : Option RM :=
  match c.toNat with
  | 0 => some .rne | 1 => some .rtz | 2 => some .rdn | 3 => some .rup | 4 => some .sr | 7 => some .dyn | _ => none

/-- The condition codes of R43. -/
def Cond.code : Cond → BitVec 4
  | .eq => 0 | .ne => 1 | .lt => 2 | .ge => 3 | .ltn => 4 | .gen => 5 | .le => 6 | .gt => 7 | .len => 8 | .gtn => 9
  | .feq => 10 | .fne => 11 | .flt => 12 | .fle => 13 | .unord => 14 | .ord => 15

/-- The condition of a code (R43). -/
def Cond.ofCode (c : BitVec 4) : Option Cond :=
  match c.toNat with
  | 0 => some .eq | 1 => some .ne | 2 => some .lt | 3 => some .ge | 4 => some .ltn | 5 => some .gen | 6 => some .le
  | 7 => some .gt | 8 => some .len | 9 => some .gtn | 10 => some .feq | 11 => some .fne | 12 => some .flt
  | 13 => some .fle | 14 => some .unord | _ => some .ord

/-- The scope codes of R44. -/
def Scope.code : Scope → BitVec 3
  | .tile => 0 | .cluster => 1 | .die => 2 | .device => 3 | .system => 4

/-- The scope of a code; 5 to 7 are reserved (R44). -/
def Scope.ofCode (c : BitVec 3) : Option Scope :=
  match c.toNat with
  | 0 => some .tile | 1 => some .cluster | 2 => some .die | 3 => some .device | 4 => some .system | _ => none

/-- The space codes of R44. -/
def Space.code : Space → BitVec 2
  | .sp => 0 | .g => 1 | .cd => 2

/-- The space of a code; 3 is reserved (R44). -/
def Space.ofCode (c : BitVec 2) : Option Space :=
  match c.toNat with
  | 0 => some .sp | 1 => some .g | 2 => some .cd | _ => none

/-- The size codes of R40. -/
def Size.code : Size → BitVec 2
  | .b => 0 | .h => 1 | .w => 2 | .d => 3

/-- The size of a code (R40). -/
def Size.ofCode (c : BitVec 2) : Option Size :=
  match c.toNat with
  | 0 => some .b | 1 => some .h | 2 => some .w | _ => some .d

/-- The order codes of R40. -/
def Order.code : Order → BitVec 2
  | .relaxed => 0 | .acq => 1 | .rel => 2 | .acqrel => 3

/-- The order of a code (R40). -/
def Order.ofCode (c : BitVec 2) : Option Order :=
  match c.toNat with
  | 0 => some .relaxed | 1 => some .acq | 2 => some .rel | _ => some .acqrel

/-- The group codes of R191. -/
def Grp.code : Grp → BitVec 2
  | .g1 => 0 | .g2 => 1 | .g4 => 2

/-- The group of a code; 3 raises ILLEGAL_OP (R191). -/
def Grp.ofCode (c : BitVec 2) : Option Grp :=
  match c.toNat with
  | 0 => some .g1 | 1 => some .g2 | 2 => some .g4 | _ => none

/-- The factor codes of R209. -/
def XFac.code : XFac → BitVec 2
  | .x2 => 0 | .x4 => 1

/-- The factor of a code; 2 and 3 raise ILLEGAL_OP (R209). -/
def XFac.ofCode (c : BitVec 2) : Option XFac :=
  match c.toNat with
  | 0 => some .x2 | 1 => some .x4 | _ => none

/-- The operation codes of `AMO` (R139). -/
def AmoOp.code : AmoOp → BitVec 4
  | .add => 0 | .and => 1 | .or => 2 | .xor => 3 | .swap => 4 | .min => 5 | .max => 6 | .minn => 7 | .maxn => 8

/-- The operation of an `AMO` code; 9 to 15 raise ILLEGAL_OP (R139). -/
def AmoOp.ofCode (c : BitVec 4) : Option AmoOp :=
  match c.toNat with
  | 0 => some .add | 1 => some .and | 2 => some .or | 3 => some .xor | 4 => some .swap | 5 => some .min
  | 6 => some .max | 7 => some .minn | 8 => some .maxn | _ => none

/-- The fn field of `AMOF`: operation 1:0, NaN option 2, BF16 choice 3 (R140). -/
def FAmo.code : FAmo → BitVec 4
  | .add bf => BitVec.ofBool bf ++ 0#3
  | .min p bf => BitVec.ofBool bf ++ BitVec.ofBool p ++ 1#2
  | .max p bf => BitVec.ofBool bf ++ BitVec.ofBool p ++ 2#2

/-- The operation of an `AMOF` fn field; operation 3, and ADD with the NaN option set, raise ILLEGAL_OP (R140). -/
def FAmo.ofCode (c : BitVec 4) : Option FAmo :=
  let bf := c.getLsbD 3
  let p := c.getLsbD 2
  match (c.extractLsb' 0 2).toNat with
  | 0 => if p then none else some (.add bf)
  | 1 => some (.min p bf)
  | 2 => some (.max p bf)
  | _ => none

/-- The fn field of `VAMO` (R142). -/
def VamoOp.code : VamoOp → BitVec 4
  | .int f => f.code
  | .addF32 => 12
  | .addBf16 => 13

/-- The operation of a `VAMO` fn field: 0 to 8, 12 and 13 (R142). -/
def VamoOp.ofCode (c : BitVec 4) : Option VamoOp :=
  match c.toNat with
  | 12 => some .addF32
  | 13 => some .addBf16
  | _ => (AmoOp.ofCode c).map .int

/-- The operation codes of `VFSGN` (R199). -/
def SgnOp.code : SgnOp → BitVec 2
  | .cpy => 0 | .neg => 1 | .xor => 2

/-- The operation of a `VFSGN` code; 3 raises ILLEGAL_OP (R199). -/
def SgnOp.ofCode (c : BitVec 2) : Option SgnOp :=
  match c.toNat with
  | 0 => some .cpy | 1 => some .neg | 2 => some .xor | _ => none

/-- The operation codes of `COLL` (R168). -/
def CollOp.code : CollOp → BitVec 3
  | .bcast => 0 | .gather => 1 | .sum => 2 | .max => 3 | .sumscat => 4

/-- The operation of a `COLL` code (R168). -/
def CollOp.ofCode (c : BitVec 3) : Option CollOp :=
  match c.toNat with
  | 0 => some .bcast | 1 => some .gather | 2 => some .sum | 3 => some .max | 4 => some .sumscat | _ => none

/-- The value codes of `REDCLR` (R219). -/
def ClrVal.code : ClrVal → BitVec 2
  | .zero => 0 | .ninf => 1 | .pinf => 2

/-- The value of a `REDCLR` code; 3 raises ILLEGAL_OP (R219). -/
def ClrVal.ofCode (c : BitVec 2) : Option ClrVal :=
  match c.toNat with
  | 0 => some .zero | 1 => some .ninf | 2 => some .pinf | _ => none

/-- The queue codes of R149. -/
def QueueId.code : QueueId → BitVec 2
  | .cpy => 0 | .gath => 1 | .coll => 2 | .strm => 3

/-- The queue of a code (R149). -/
def QueueId.ofCode (c : BitVec 2) : Option QueueId :=
  match c.toNat with
  | 0 => some .cpy | 1 => some .gath | 2 => some .coll | _ => some .strm

/-- The instruction of a word of the scalar space with opcode `op` (R45): opcode legality first, then code values, then
reserved bits (R47). -/
def scalarWord (s1 : Bool) (w : BitVec 32) (op : Nat) : Except Reject Instr :=
  match op with
  | 0x01 =>
    let d : SReg := fld w 19 6
    let a : SReg := fld w 13 6
    let b : SReg := fld w 7 6
    rsv (fld w 0 7 == 0) <|
    .ok (.add d a b)
  | 0x02 =>
    let d : SReg := fld w 19 6
    let a : SReg := fld w 13 6
    let i : BitVec 13 := fld w 0 13
    .ok (.addi d a i)
  | 0x03 =>
    let d : SReg := fld w 19 6
    let a : SReg := fld w 13 6
    let b : SReg := fld w 7 6
    rsv (fld w 0 7 == 0) <|
    .ok (.sub d a b)
  | 0x04 =>
    let d : SReg := fld w 19 6
    let a : SReg := fld w 13 6
    let b : SReg := fld w 7 6
    rsv (fld w 0 7 == 0) <|
    .ok (.and d a b)
  | 0x05 =>
    let d : SReg := fld w 19 6
    let a : SReg := fld w 13 6
    let i : BitVec 13 := fld w 0 13
    .ok (.andi d a i)
  | 0x06 =>
    let d : SReg := fld w 19 6
    let a : SReg := fld w 13 6
    let b : SReg := fld w 7 6
    rsv (fld w 0 7 == 0) <|
    .ok (.or d a b)
  | 0x07 =>
    let d : SReg := fld w 19 6
    let a : SReg := fld w 13 6
    let i : BitVec 13 := fld w 0 13
    .ok (.ori d a i)
  | 0x08 =>
    let d : SReg := fld w 19 6
    let a : SReg := fld w 13 6
    let b : SReg := fld w 7 6
    rsv (fld w 0 7 == 0) <|
    .ok (.xor d a b)
  | 0x09 =>
    let d : SReg := fld w 19 6
    let a : SReg := fld w 13 6
    let i : BitVec 13 := fld w 0 13
    .ok (.xori d a i)
  | 0x0A =>
    let d : SReg := fld w 19 6
    let a : SReg := fld w 13 6
    let b : SReg := fld w 7 6
    rsv (fld w 0 7 == 0) <|
    .ok (.shl d a b)
  | 0x0B =>
    let d : SReg := fld w 19 6
    let a : SReg := fld w 13 6
    let n : BitVec 6 := fld w 0 6
    rsv (fld w 6 7 == 0) <|
    .ok (.shli d a n)
  | 0x0C =>
    let d : SReg := fld w 19 6
    let a : SReg := fld w 13 6
    let b : SReg := fld w 7 6
    rsv (fld w 0 7 == 0) <|
    .ok (.shr d a b)
  | 0x0D =>
    let d : SReg := fld w 19 6
    let a : SReg := fld w 13 6
    let n : BitVec 6 := fld w 0 6
    rsv (fld w 6 7 == 0) <|
    .ok (.shri d a n)
  | 0x0E =>
    let d : SReg := fld w 19 6
    let a : SReg := fld w 13 6
    let b : SReg := fld w 7 6
    rsv (fld w 0 7 == 0) <|
    .ok (.sra d a b)
  | 0x0F =>
    let d : SReg := fld w 19 6
    let a : SReg := fld w 13 6
    let n : BitVec 6 := fld w 0 6
    rsv (fld w 6 7 == 0) <|
    .ok (.srai d a n)
  | 0x10 =>
    let d : SReg := fld w 19 6
    let a : SReg := fld w 13 6
    let b : SReg := fld w 7 6
    rsv (fld w 0 7 == 0) <|
    .ok (.min d a b)
  | 0x11 =>
    let d : SReg := fld w 19 6
    let a : SReg := fld w 13 6
    let b : SReg := fld w 7 6
    rsv (fld w 0 7 == 0) <|
    .ok (.max d a b)
  | 0x12 =>
    let d : SReg := fld w 19 6
    let a : SReg := fld w 13 6
    let b : SReg := fld w 7 6
    rsv (fld w 0 7 == 0) <|
    .ok (.minn d a b)
  | 0x13 =>
    let d : SReg := fld w 19 6
    let a : SReg := fld w 13 6
    let b : SReg := fld w 7 6
    rsv (fld w 0 7 == 0) <|
    .ok (.maxn d a b)
  | 0x14 =>
    let d : SReg := fld w 19 6
    let a : SReg := fld w 13 6
    let b : SReg := fld w 7 6
    let h : BitVec 3 := fld w 0 3
    rsv (fld w 3 4 == 0) <|
    .ok (.addx d a b h)
  | 0x15 =>
    let d : SReg := fld w 19 6
    let i : BitVec 19 := fld w 0 19
    .ok (.movi d i)
  | 0x16 =>
    let d : SReg := fld w 19 6
    let i : BitVec 16 := fld w 0 16
    rsv (fld w 16 3 == 0) <|
    .ok (.movhi d i)
  | 0x17 =>
    let d : SReg := fld w 19 6
    let a : SReg := fld w 13 6
    let pos : BitVec 6 := fld w 7 6
    let len1 : BitVec 6 := fld w 1 6
    gate (decide (pos.toNat + len1.toNat < 64)) <|
    rsv (fld w 0 1 == 0) <|
    .ok (.bfx d a pos len1)
  | 0x18 =>
    let d : SReg := fld w 19 6
    let a : SReg := fld w 13 6
    let pos : BitVec 6 := fld w 7 6
    let len1 : BitVec 6 := fld w 1 6
    gate (decide (pos.toNat + len1.toNat < 64)) <|
    rsv (fld w 0 1 == 0) <|
    .ok (.bfxs d a pos len1)
  | 0x19 =>
    let d : SReg := fld w 19 6
    let a : SReg := fld w 13 6
    let pos : BitVec 6 := fld w 7 6
    let len1 : BitVec 6 := fld w 1 6
    gate (decide (pos.toNat + len1.toNat < 64)) <|
    rsv (fld w 0 1 == 0) <|
    .ok (.bfi d a pos len1)
  | 0x1A =>
    let d : SReg := fld w 19 6
    let a : SReg := fld w 13 6
    rsv (fld w 0 13 == 0) <|
    .ok (.clz d a)
  | 0x1B =>
    let d : SReg := fld w 19 6
    let a : SReg := fld w 13 6
    rsv (fld w 0 13 == 0) <|
    .ok (.ctz d a)
  | 0x1C =>
    let d : SReg := fld w 19 6
    let a : SReg := fld w 13 6
    rsv (fld w 0 13 == 0) <|
    .ok (.popc d a)
  | 0x1D =>
    let pd : PReg := fld w 22 3
    let a : SReg := fld w 12 6
    let b : SReg := fld w 6 6
    withCode (Cond.ofCode (fld w 18 4)) fun c =>
    gate (c.isInt) <|
    rsv (fld w 0 6 == 0) <|
    .ok (.cmp pd c a b)
  | 0x1E =>
    let pd : PReg := fld w 22 3
    let a : SReg := fld w 12 6
    let i : BitVec 12 := fld w 0 12
    withCode (Cond.ofCode (fld w 18 4)) fun c =>
    gate (c.isInt) <|
    .ok (.cmpi pd c a i)
  | 0x1F =>
    let d : SReg := fld w 19 6
    let a : SReg := fld w 13 6
    let b : SReg := fld w 7 6
    let neg : Bool := fld w 3 1 == 1
    let q : PReg := fld w 0 3
    rsv (fld w 4 3 == 0) <|
    .ok (.sel d a b neg q)
  | 0x20 =>
    let pd : PReg := fld w 22 3
    let pa : PReg := fld w 19 3
    let pb : PReg := fld w 16 3
    let tb : BitVec 4 := fld w 12 4
    rsv (fld w 0 12 == 0) <|
    .ok (.plog pd pa pb tb)
  | 0x21 =>
    match (fld w 0 1).toNat with
    | 0 =>
      let d : SReg := fld w 19 6
      rsv (fld w 1 18 == 0) <|
      .ok (.movp d)
    | 1 =>
      let a : SReg := fld w 13 6
      rsv (fld w 1 12 == 0 && fld w 19 6 == 0) <|
      .ok (.movpSet a)
    | _ => .error .illegalOp
  | 0x22 =>
    if !s1 then .error .illegalOp else
    let d : SReg := fld w 19 6
    let a : SReg := fld w 13 6
    let b : SReg := fld w 7 6
    rsv (fld w 0 7 == 0) <|
    .ok (.mul d a b)
  | 0x23 =>
    if !s1 then .error .illegalOp else
    let d : SReg := fld w 19 6
    let a : SReg := fld w 13 6
    let b : SReg := fld w 7 6
    rsv (fld w 0 7 == 0) <|
    .ok (.mulh d a b)
  | 0x24 =>
    if !s1 then .error .illegalOp else
    let d : SReg := fld w 19 6
    let a : SReg := fld w 13 6
    let b : SReg := fld w 7 6
    rsv (fld w 0 7 == 0) <|
    .ok (.mulhn d a b)
  | 0x25 =>
    if !s1 then .error .illegalOp else
    let d : SReg := fld w 19 6
    let a : SReg := fld w 13 6
    let b : SReg := fld w 7 6
    rsv (fld w 0 7 == 0) <|
    .ok (.div d a b)
  | 0x26 =>
    if !s1 then .error .illegalOp else
    let d : SReg := fld w 19 6
    let a : SReg := fld w 13 6
    let b : SReg := fld w 7 6
    rsv (fld w 0 7 == 0) <|
    .ok (.divn d a b)
  | 0x27 =>
    if !s1 then .error .illegalOp else
    let d : SReg := fld w 19 6
    let a : SReg := fld w 13 6
    let b : SReg := fld w 7 6
    rsv (fld w 0 7 == 0) <|
    .ok (.rem d a b)
  | 0x28 =>
    if !s1 then .error .illegalOp else
    let d : SReg := fld w 19 6
    let a : SReg := fld w 13 6
    let b : SReg := fld w 7 6
    rsv (fld w 0 7 == 0) <|
    .ok (.remn d a b)
  | 0x29 =>
    if !s1 then .error .illegalOp else
    let d : SReg := fld w 19 6
    let a : SReg := fld w 13 6
    let b : SReg := fld w 7 6
    withCode (ETy.ofCode (fld w 3 4)) fun t =>
    withCode (RM.ofCode (fld w 0 3)) fun r =>
    gate (t.isScalarFloat && r.isArith) <|
    .ok (.sfadd d a b t r)
  | 0x2A =>
    if !s1 then .error .illegalOp else
    let d : SReg := fld w 19 6
    let a : SReg := fld w 13 6
    let b : SReg := fld w 7 6
    withCode (ETy.ofCode (fld w 3 4)) fun t =>
    withCode (RM.ofCode (fld w 0 3)) fun r =>
    gate (t.isScalarFloat && r.isArith) <|
    .ok (.sfsub d a b t r)
  | 0x2B =>
    if !s1 then .error .illegalOp else
    let d : SReg := fld w 19 6
    let a : SReg := fld w 13 6
    let b : SReg := fld w 7 6
    withCode (ETy.ofCode (fld w 3 4)) fun t =>
    withCode (RM.ofCode (fld w 0 3)) fun r =>
    gate (t.isScalarFloat && r.isArith) <|
    .ok (.sfmul d a b t r)
  | 0x2C =>
    if !s1 then .error .illegalOp else
    let d : SReg := fld w 19 6
    let a : SReg := fld w 13 6
    let b : SReg := fld w 7 6
    withCode (ETy.ofCode (fld w 3 4)) fun t =>
    withCode (RM.ofCode (fld w 0 3)) fun r =>
    gate (t.isScalarFloat && r.isArith) <|
    .ok (.sfma d a b t r)
  | 0x2D =>
    if !s1 then .error .illegalOp else
    let d : SReg := fld w 19 6
    let a : SReg := fld w 13 6
    let b : SReg := fld w 7 6
    withCode (ETy.ofCode (fld w 3 4)) fun t =>
    gate (t.isScalarFloat) <|
    rsv (fld w 0 3 == 0) <|
    .ok (.sfmin d a b t)
  | 0x2E =>
    if !s1 then .error .illegalOp else
    let d : SReg := fld w 19 6
    let a : SReg := fld w 13 6
    let b : SReg := fld w 7 6
    withCode (ETy.ofCode (fld w 3 4)) fun t =>
    gate (t.isScalarFloat) <|
    rsv (fld w 0 3 == 0) <|
    .ok (.sfmax d a b t)
  | 0x2F =>
    if !s1 then .error .illegalOp else
    let pd : PReg := fld w 22 3
    let a : SReg := fld w 12 6
    let b : SReg := fld w 6 6
    withCode (Cond.ofCode (fld w 18 4)) fun c =>
    withCode (ETy.ofCode (fld w 2 4)) fun t =>
    gate (c.isFloat && t.isScalarFloat) <|
    rsv (fld w 0 2 == 0) <|
    .ok (.sfcmp pd c a b t)
  | 0x30 =>
    if !s1 then .error .illegalOp else
    let d : SReg := fld w 19 6
    let a : SReg := fld w 13 6
    withCode (ETy.ofCode (fld w 9 4)) fun dty =>
    withCode (ETy.ofCode (fld w 3 4)) fun sty =>
    withCode (RM.ofCode (fld w 0 3)) fun r =>
    rsv (fld w 7 2 == 0) <|
    .ok (.sfcvt d a dty sty r)
  | _ => .error .illegalOp

/-- The scalar opcode space: the opcode stands in bits 31:25 (R40, R45). -/
def decodeScalar (s1 : Bool) (w : BitVec 32) : Except Reject Instr := scalarWord s1 w (fld w 25 7).toNat

/-- The instruction of a word of the control space with opcode `op` (R45): opcode legality first, then code values, then
reserved bits (R47). -/
def controlWord (w : BitVec 32) (op : Nat) : Except Reject Instr :=
  match op with
  | 0x01 =>
    let q : PReg := fld w 22 3
    let neg : Bool := fld w 21 1 == 1
    let o : BitVec 21 := fld w 0 21
    .ok (.br q neg o)
  | 0x02 =>
    let q : PReg := fld w 22 3
    let neg : Bool := fld w 21 1 == 1
    let o : BitVec 21 := fld w 0 21
    .ok (.brp q neg o)
  | 0x03 =>
    let a : SReg := fld w 13 6
    let neg : Bool := fld w 3 1 == 1
    let q : PReg := fld w 0 3
    rsv (fld w 4 9 == 0 && fld w 19 6 == 0) <|
    .ok (.jr a neg q)
  | 0x04 =>
    let q : PReg := fld w 22 3
    let neg : Bool := fld w 21 1 == 1
    let o : BitVec 21 := fld w 0 21
    .ok (.call q neg o)
  | 0x05 =>
    let a : SReg := fld w 13 6
    let neg : Bool := fld w 3 1 == 1
    let q : PReg := fld w 0 3
    rsv (fld w 4 9 == 0 && fld w 19 6 == 0) <|
    .ok (.callr a neg q)
  | 0x06 =>
    let a : SReg := fld w 13 6
    let neg : Bool := fld w 3 1 == 1
    let q : PReg := fld w 0 3
    rsv (fld w 4 9 == 0 && fld w 19 6 == 0) <|
    .ok (.ret a neg q)
  | 0x07 =>
    let l : Bool := fld w 24 1 == 1
    let a : SReg := fld w 18 6
    let e : BitVec 18 := fld w 0 18
    .ok (.loop l a e)
  | 0x08 =>
    let l : Bool := fld w 24 1 == 1
    let n : BitVec 12 := fld w 12 12
    let e : BitVec 12 := fld w 0 12
    .ok (.loopi l n e)
  | 0x09 =>
    let i : BitVec 19 := fld w 0 19
    rsv (fld w 19 6 == 0) <|
    .ok (.brk i)
  | 0x0A =>
    let d : SReg := fld w 19 6
    let cr : BitVec 10 := fld w 9 10
    gate (crListed cr) <|
    rsv (fld w 0 9 == 0) <|
    .ok (.movc d cr)
  | 0x0B =>
    let a : SReg := fld w 19 6
    let cr : BitVec 10 := fld w 9 10
    gate (crWritable cr) <|
    rsv (fld w 0 9 == 0) <|
    .ok (.movcw a cr)
  | 0x0C =>
    let a : SReg := fld w 13 6
    gate (isGroup8 a) <|
    rsv (fld w 0 13 == 0 && fld w 19 6 == 0) <|
    .ok (.spawn a)
  | 0x0D =>
    let a : SReg := fld w 13 6
    let b : SReg := fld w 7 6
    rsv (fld w 0 7 == 0 && fld w 19 6 == 0) <|
    .ok (.spawng a b)
  | 0x0E =>
    let d : SReg := fld w 19 6
    let a : SReg := fld w 13 6
    gate ((a == 0 || isGroup8 a)) <|
    rsv (fld w 0 13 == 0) <|
    .ok (.jinit d a)
  | 0x0F =>
    let a : SReg := fld w 13 6
    let b : SReg := fld w 7 6
    rsv (fld w 0 7 == 0 && fld w 19 6 == 0) <|
    .ok (.qinit a b)
  | 0x10 =>
    match (fld w 0 1).toNat with
    | 0 =>
      let a : SReg := fld w 13 6
      rsv (fld w 1 12 == 0 && fld w 19 6 == 0) <|
      .ok (.jwait a)
    | 1 =>
      let a : SReg := fld w 13 6
      rsv (fld w 1 12 == 0 && fld w 19 6 == 0) <|
      .ok (.jwaitHere a)
    | _ => .error .illegalOp
  | 0x11 =>
    rsv (fld w 0 25 == 0) <|
    .ok (.yield)
  | 0x12 =>
    rsv (fld w 0 25 == 0) <|
    .ok (.endTask)
  | 0x13 =>
    rsv (fld w 0 25 == 0) <|
    .ok (.hold)
  | 0x14 =>
    rsv (fld w 0 25 == 0) <|
    .ok (.unhold)
  | 0x15 =>
    let a : SReg := fld w 13 6
    withCode (QueueId.ofCode (fld w 0 2)) fun q =>
    rsv (fld w 2 11 == 0 && fld w 19 6 == 0) <|
    .ok (.waitt a q)
  | 0x16 =>
    rsv (fld w 0 25 == 0) <|
    .ok (.barg)
  | 0x17 =>
    let i : BitVec 19 := fld w 0 19
    rsv (fld w 19 6 == 0) <|
    .ok (.sysc i)
  | 0x18 =>
    let i : BitVec 19 := fld w 0 19
    rsv (fld w 19 6 == 0) <|
    .ok (.trap i)
  | 0x19 =>
    match (fld w 0 1).toNat with
    | 0 =>
      let a : SReg := fld w 13 6
      let b : SReg := fld w 7 6
      rsv (fld w 1 6 == 0 && fld w 19 6 == 0) <|
      .ok (.rett a b)
    | 1 =>
      let a : SReg := fld w 13 6
      let b : SReg := fld w 7 6
      rsv (fld w 1 6 == 0 && fld w 19 6 == 0) <|
      .ok (.rettSkip a b)
    | _ => .error .illegalOp
  | 0x1A =>
    match (fld w 0 2).toNat with
    | 0 =>
      rsv (fld w 2 23 == 0) <|
      .ok (.sleepCg)
    | 1 =>
      rsv (fld w 2 23 == 0) <|
      .ok (.sleepRetain)
    | 2 =>
      rsv (fld w 2 23 == 0) <|
      .ok (.sleepOff)
    | _ => .error .illegalOp
  | 0x1B =>
    let a : SReg := fld w 13 6
    rsv (fld w 0 13 == 0 && fld w 19 6 == 0) <|
    .ok (.wake a)
  | 0x1C =>
    let d : SReg := fld w 19 6
    rsv (fld w 0 19 == 0) <|
    .ok (.ckpt d)
  | 0x1D =>
    let d : SReg := fld w 19 6
    rsv (fld w 0 19 == 0) <|
    .ok (.savex d)
  | 0x1E =>
    match (fld w 0 2).toNat with
    | 0 =>
      let a : SReg := fld w 13 6
      rsv (fld w 2 11 == 0 && fld w 19 6 == 0) <|
      .ok (.restx a)
    | 1 =>
      let a : SReg := fld w 13 6
      rsv (fld w 2 11 == 0 && fld w 19 6 == 0) <|
      .ok (.restxKeep a)
    | 2 =>
      let a : SReg := fld w 13 6
      rsv (fld w 2 11 == 0 && fld w 19 6 == 0) <|
      .ok (.restxDrop a)
    | _ => .error .illegalOp
  | 0x1F =>
    match (fld w 3 2).toNat with
    | 0 =>
      let a : SReg := fld w 13 6
      let b : SReg := fld w 7 6
      withCode (Scope.ofCode (fld w 0 3)) fun sc =>
      rsv (fld w 5 2 == 0 && fld w 19 6 == 0) <|
      .ok (.tlbinvPage a b sc)
    | 1 =>
      let b : SReg := fld w 7 6
      withCode (Scope.ofCode (fld w 0 3)) fun sc =>
      rsv (fld w 5 2 == 0 && fld w 13 12 == 0) <|
      .ok (.tlbinvAsid b sc)
    | 2 =>
      withCode (Scope.ofCode (fld w 0 3)) fun sc =>
      rsv (fld w 5 20 == 0) <|
      .ok (.tlbinvAll sc)
    | _ => .error .illegalOp
  | 0x20 =>
    withCode (Scope.ofCode (fld w 0 3)) fun sc =>
    rsv (fld w 3 22 == 0) <|
    .ok (.icinv sc)
  | 0x21 =>
    rsv (fld w 0 25 == 0) <|
    .ok (.abort)
  | _ => .error .illegalOp

/-- The control opcode space: the opcode stands in bits 31:25 (R40, R45). -/
def decodeControl (w : BitVec 32) : Except Reject Instr := controlWord w (fld w 25 7).toNat

/-- The instruction of a word of the memory space with opcode `op` (R45): opcode legality first, then code values, then
reserved bits (R47). -/
def memoryWord (w : BitVec 32) (op : Nat) : Except Reject Instr :=
  match op with
  | 0x01 =>
    let d : SReg := fld w 17 6
    let b : SReg := fld w 11 6
    let x : Bool := fld w 8 1 == 1
    let o : BitVec 8 := fld w 0 8
    withCode (Space.ofCode (fld w 23 2)) fun spc =>
    withCode (Size.ofCode (fld w 9 2)) fun z =>
    .ok (.ld spc d b z x o)
  | 0x02 =>
    let d : SReg := fld w 17 6
    let b : SReg := fld w 11 6
    let o : BitVec 8 := fld w 0 8
    withCode (Space.ofCode (fld w 23 2)) fun spc =>
    withCode (Size.ofCode (fld w 9 2)) fun z =>
    gate (spc.notCd) <|
    rsv (fld w 8 1 == 0) <|
    .ok (.st spc d b z o)
  | 0x03 =>
    let d : SReg := fld w 17 6
    let b : SReg := fld w 11 6
    let i : SReg := fld w 5 6
    let x : Bool := fld w 2 1 == 1
    let scl : Bool := fld w 0 1 == 1
    withCode (Space.ofCode (fld w 23 2)) fun spc =>
    withCode (Size.ofCode (fld w 3 2)) fun z =>
    rsv (fld w 1 1 == 0) <|
    .ok (.ldx spc d b i z x scl)
  | 0x04 =>
    let d : SReg := fld w 17 6
    let b : SReg := fld w 11 6
    let i : SReg := fld w 5 6
    let scl : Bool := fld w 0 1 == 1
    withCode (Space.ofCode (fld w 23 2)) fun spc =>
    withCode (Size.ofCode (fld w 3 2)) fun z =>
    gate (spc.notCd) <|
    rsv (fld w 1 2 == 0) <|
    .ok (.stx spc d b i z scl)
  | 0x05 =>
    let d : VReg := fld w 17 5
    let b : SReg := fld w 11 6
    let o : BitVec 11 := fld w 0 11
    withCode (Space.ofCode (fld w 23 2)) fun spc =>
    rsv (fld w 22 1 == 0) <|
    .ok (.vld spc d b o)
  | 0x06 =>
    let d : VReg := fld w 17 5
    let b : SReg := fld w 11 6
    let o : BitVec 11 := fld w 0 11
    withCode (Space.ofCode (fld w 23 2)) fun spc =>
    gate (spc.notCd) <|
    rsv (fld w 22 1 == 0) <|
    .ok (.vst spc d b o)
  | 0x07 =>
    let d : VReg := fld w 17 5
    let b : SReg := fld w 11 6
    let i : SReg := fld w 5 6
    let mk : BitVec 2 := fld w 0 2
    withCode (Space.ofCode (fld w 23 2)) fun spc =>
    withCode (Size.ofCode (fld w 3 2)) fun z =>
    rsv (fld w 2 1 == 0 && fld w 22 1 == 0) <|
    .ok (.vlds spc d b i z mk)
  | 0x08 =>
    let d : VReg := fld w 17 5
    let b : SReg := fld w 11 6
    let i : SReg := fld w 5 6
    let mk : BitVec 2 := fld w 0 2
    withCode (Space.ofCode (fld w 23 2)) fun spc =>
    withCode (Size.ofCode (fld w 3 2)) fun z =>
    gate (spc.notCd) <|
    rsv (fld w 2 1 == 0 && fld w 22 1 == 0) <|
    .ok (.vsts spc d b i z mk)
  | 0x09 =>
    let d : VReg := fld w 17 5
    let b : SReg := fld w 11 6
    let i : VReg := fld w 5 5
    let scl : Bool := fld w 2 1 == 1
    let mk : BitVec 2 := fld w 0 2
    withCode (Space.ofCode (fld w 23 2)) fun spc =>
    withCode (Size.ofCode (fld w 3 2)) fun z =>
    gate (z.isWordOrD) <|
    rsv (fld w 10 1 == 0 && fld w 22 1 == 0) <|
    .ok (.vldx spc d b i z scl mk)
  | 0x0A =>
    let d : VReg := fld w 17 5
    let b : SReg := fld w 11 6
    let i : VReg := fld w 5 5
    let scl : Bool := fld w 2 1 == 1
    let mk : BitVec 2 := fld w 0 2
    withCode (Space.ofCode (fld w 23 2)) fun spc =>
    withCode (Size.ofCode (fld w 3 2)) fun z =>
    gate (spc.notCd && z.isWordOrD) <|
    rsv (fld w 10 1 == 0 && fld w 22 1 == 0) <|
    .ok (.vstx spc d b i z scl mk)
  | 0x0B =>
    let d : VReg := fld w 17 5
    let k : DReg := fld w 13 4
    let i : SReg := fld w 7 6
    let mk : MReg := fld w 0 3
    rsv (fld w 3 4 == 0 && fld w 22 3 == 0) <|
    .ok (.vldd d k i mk)
  | 0x0C =>
    let d : VReg := fld w 17 5
    let k : DReg := fld w 13 4
    let i : SReg := fld w 7 6
    let mk : MReg := fld w 0 3
    rsv (fld w 3 4 == 0 && fld w 22 3 == 0) <|
    .ok (.vstd d k i mk)
  | 0x0D =>
    match (fld w 8 1).toNat with
    | 0 =>
      let d : SReg := fld w 17 6
      let b : SReg := fld w 11 6
      let o : BitVec 8 := fld w 0 8
      withCode (Space.ofCode (fld w 23 2)) fun spc =>
      withCode (Size.ofCode (fld w 9 2)) fun z =>
      gate (spc.isSp) <|
      .ok (.ldfe spc d b z o)
    | 1 =>
      let d : VReg := fld w 17 5
      let b : SReg := fld w 11 6
      let o : BitVec 8 := fld w 0 8
      withCode (Space.ofCode (fld w 23 2)) fun spc =>
      withCode (Size.ofCode (fld w 9 2)) fun z =>
      gate (spc.isSp && z.isD) <|
      rsv (fld w 22 1 == 0) <|
      .ok (.ldfeV spc d b z o)
    | _ => .error .illegalOp
  | 0x0E =>
    match (fld w 8 1).toNat with
    | 0 =>
      let d : SReg := fld w 17 6
      let b : SReg := fld w 11 6
      let o : BitVec 8 := fld w 0 8
      withCode (Space.ofCode (fld w 23 2)) fun spc =>
      withCode (Size.ofCode (fld w 9 2)) fun z =>
      gate (spc.isSp) <|
      .ok (.ldfec spc d b z o)
    | 1 =>
      let d : VReg := fld w 17 5
      let b : SReg := fld w 11 6
      let o : BitVec 8 := fld w 0 8
      withCode (Space.ofCode (fld w 23 2)) fun spc =>
      withCode (Size.ofCode (fld w 9 2)) fun z =>
      gate (spc.isSp && z.isD) <|
      rsv (fld w 22 1 == 0) <|
      .ok (.ldfecV spc d b z o)
    | _ => .error .illegalOp
  | 0x0F =>
    match (fld w 8 1).toNat with
    | 0 =>
      let d : SReg := fld w 17 6
      let b : SReg := fld w 11 6
      let o : BitVec 8 := fld w 0 8
      withCode (Space.ofCode (fld w 23 2)) fun spc =>
      withCode (Size.ofCode (fld w 9 2)) fun z =>
      gate (spc.isSp) <|
      .ok (.stfe spc d b z o)
    | 1 =>
      let d : VReg := fld w 17 5
      let b : SReg := fld w 11 6
      let o : BitVec 8 := fld w 0 8
      withCode (Space.ofCode (fld w 23 2)) fun spc =>
      withCode (Size.ofCode (fld w 9 2)) fun z =>
      gate (spc.isSp && z.isD) <|
      rsv (fld w 22 1 == 0) <|
      .ok (.stfeV spc d b z o)
    | _ => .error .illegalOp
  | 0x10 =>
    let b : SReg := fld w 11 6
    let i : SReg := fld w 5 6
    withCode (Space.ofCode (fld w 23 2)) fun spc =>
    gate (spc.isSp) <|
    rsv (fld w 0 5 == 0 && fld w 17 6 == 0) <|
    .ok (.feset spc b i)
  | 0x11 =>
    let b : SReg := fld w 11 6
    let i : SReg := fld w 5 6
    withCode (Space.ofCode (fld w 23 2)) fun spc =>
    gate (spc.isSp) <|
    rsv (fld w 0 5 == 0 && fld w 17 6 == 0) <|
    .ok (.feclr spc b i)
  | 0x12 =>
    let d : SReg := fld w 17 6
    let b : SReg := fld w 11 6
    withCode (Space.ofCode (fld w 23 2)) fun spc =>
    withCode (AmoOp.ofCode (fld w 7 4)) fun f =>
    withCode (Scope.ofCode (fld w 4 3)) fun sc =>
    withCode (Size.ofCode (fld w 2 2)) fun z =>
    withCode (Order.ofCode (fld w 0 2)) fun o =>
    gate (spc.notCd) <|
    .ok (.amo spc d b f sc z o)
  | 0x13 =>
    let d : SReg := fld w 17 6
    let b : SReg := fld w 11 6
    withCode (Space.ofCode (fld w 23 2)) fun spc =>
    withCode (FAmo.ofCode (fld w 7 4)) fun f =>
    withCode (Scope.ofCode (fld w 4 3)) fun sc =>
    withCode (Size.ofCode (fld w 2 2)) fun z =>
    withCode (Order.ofCode (fld w 0 2)) fun o =>
    gate (spc.notCd && f.okSize z) <|
    rsv (f.fmtBitOk z) <|
    .ok (.amof spc d b f sc z o)
  | 0x14 =>
    let d : SReg := fld w 17 6
    let b : SReg := fld w 11 6
    withCode (Space.ofCode (fld w 23 2)) fun spc =>
    withCode (Scope.ofCode (fld w 4 3)) fun sc =>
    withCode (Size.ofCode (fld w 2 2)) fun z =>
    withCode (Order.ofCode (fld w 0 2)) fun o =>
    gate (spc.notCd && !(d.getLsbD 0)) <|
    rsv (fld w 7 4 == 0) <|
    .ok (.cas spc d b sc z o)
  | 0x15 =>
    let d : VReg := fld w 17 5
    let b : SReg := fld w 11 6
    withCode (Space.ofCode (fld w 23 2)) fun spc =>
    withCode (VamoOp.ofCode (fld w 7 4)) fun f =>
    withCode (Scope.ofCode (fld w 4 3)) fun sc =>
    withCode (Size.ofCode (fld w 2 2)) fun z =>
    withCode (Order.ofCode (fld w 0 2)) fun o =>
    gate (spc.notCd && f.okSize z) <|
    rsv (fld w 22 1 == 0) <|
    .ok (.vamo spc d b f sc z o)
  | 0x16 =>
    withCode (Scope.ofCode (fld w 4 3)) fun sc =>
    withCode (Order.ofCode (fld w 0 2)) fun o =>
    gate (o.isFence) <|
    rsv (fld w 2 2 == 0 && fld w 7 18 == 0) <|
    .ok (.fence sc o)
  | 0x17 =>
    let d : SReg := fld w 17 6
    let b : SReg := fld w 11 6
    let o : BitVec 8 := fld w 0 8
    withCode (Space.ofCode (fld w 23 2)) fun spc =>
    withCode (Size.ofCode (fld w 9 2)) fun z =>
    gate (spc.notCd) <|
    rsv (fld w 8 1 == 0) <|
    .ok (.stp spc d b z o)
  | 0x18 =>
    let d : VReg := fld w 17 5
    let b : SReg := fld w 11 6
    let o : BitVec 11 := fld w 0 11
    withCode (Space.ofCode (fld w 23 2)) fun spc =>
    gate (spc.notCd) <|
    rsv (fld w 22 1 == 0) <|
    .ok (.vstp spc d b o)
  | 0x19 =>
    let d : VReg := fld w 17 5
    let i : SReg := fld w 7 6
    let n : BitVec 7 := fld w 0 7
    rsv (fld w 13 4 == 0 && fld w 22 3 == 0) <|
    .ok (.contrib d i n)
  | 0x1A =>
    let d : VReg := fld w 17 5
    let n : BitVec 4 := fld w 0 4
    rsv (fld w 4 13 == 0 && fld w 22 3 == 0) <|
    .ok (.pipep d n)
  | 0x1B =>
    let d : VReg := fld w 17 5
    let n : BitVec 4 := fld w 0 4
    rsv (fld w 4 13 == 0 && fld w 22 3 == 0) <|
    .ok (.pipeg d n)
  | 0x1C =>
    let dc : Bool := fld w 17 1 == 1
    let b : SReg := fld w 11 6
    let o : BitVec 11 := fld w 0 11
    withCode (Space.ofCode (fld w 23 2)) fun spc =>
    gate (spc.isG) <|
    rsv (fld w 18 5 == 0) <|
    .ok (.pref spc dc b o)
  | 0x1D =>
    let d : VReg := fld w 17 5
    let j : BitVec 6 := fld w 3 6
    let c : AccReg := fld w 0 3
    gate (decide (j.toNat < 56)) <|
    rsv (fld w 9 8 == 0 && fld w 22 3 == 0) <|
    .ok (.vpark d j c)
  | 0x1E =>
    let d : VReg := fld w 17 5
    let rel : Bool := fld w 10 1 == 1
    let j : BitVec 6 := fld w 3 6
    let c : AccReg := fld w 0 3
    gate (decide (j.toNat < 56)) <|
    rsv (fld w 9 1 == 0 && fld w 11 6 == 0 && fld w 22 3 == 0) <|
    .ok (.vunpark d rel j c)
  | 0x1F =>
    match (fld w 6 1).toNat with
    | 0 =>
      let d : SReg := fld w 17 6
      let k : DReg := fld w 13 4
      let f : BitVec 6 := fld w 0 6
      gate (decide (f.toNat < 14)) <|
      rsv (fld w 7 6 == 0 && fld w 23 2 == 0) <|
      .ok (.dset d k f)
    | 1 =>
      let d : SReg := fld w 17 6
      let k : DReg := fld w 13 4
      withCode (Space.ofCode (fld w 23 2)) fun spc =>
      rsv (fld w 0 6 == 0 && fld w 7 6 == 0) <|
      .ok (.dsetImg spc d k)
    | _ => .error .illegalOp
  | 0x20 =>
    match (fld w 6 1).toNat with
    | 0 =>
      let d : SReg := fld w 17 6
      let k : DReg := fld w 13 4
      let f : BitVec 6 := fld w 0 6
      gate (decide (f.toNat < 14)) <|
      rsv (fld w 7 6 == 0 && fld w 23 2 == 0) <|
      .ok (.dget d k f)
    | 1 =>
      let d : SReg := fld w 17 6
      let k : DReg := fld w 13 4
      withCode (Space.ofCode (fld w 23 2)) fun spc =>
      gate (spc.notCd) <|
      rsv (fld w 0 6 == 0 && fld w 7 6 == 0) <|
      .ok (.dgetImg spc d k)
    | _ => .error .illegalOp
  | _ => .error .illegalOp

/-- The memory opcode space: the opcode stands in bits 31:25 (R40, R45). -/
def decodeMemory (w : BitVec 32) : Except Reject Instr := memoryWord w (fld w 25 7).toNat

/-- The instruction of a word of the vector space with opcode `op` (R45): opcode legality first, then code values, then
reserved bits (R47). -/
def vectorWord (v1 : Bool) (w : BitVec 32) (op : Nat) : Except Reject Instr :=
  match op with
  | 0x01 =>
    let d : VReg := fld w 20 5
    let a : VReg := fld w 15 5
    let b : VReg := fld w 10 5
    let mk : MReg := fld w 3 3
    let bc : Bool := fld w 2 1 == 1
    withCode (ETy.ofCode (fld w 6 4)) fun t =>
    withCode (Grp.ofCode (fld w 0 2)) fun g =>
    gate (t.isInt && g.aligned d && g.aligned a && (bc || g.aligned b)) <|
    .ok (.vadd d a b t mk g bc)
  | 0x02 =>
    let d : VReg := fld w 20 5
    let a : VReg := fld w 15 5
    let b : VReg := fld w 10 5
    let mk : MReg := fld w 3 3
    let bc : Bool := fld w 2 1 == 1
    withCode (ETy.ofCode (fld w 6 4)) fun t =>
    withCode (Grp.ofCode (fld w 0 2)) fun g =>
    gate (t.isInt && g.aligned d && g.aligned a && (bc || g.aligned b)) <|
    .ok (.vsub d a b t mk g bc)
  | 0x03 =>
    let d : VReg := fld w 20 5
    let a : VReg := fld w 15 5
    let b : VReg := fld w 10 5
    let mk : MReg := fld w 3 3
    let bc : Bool := fld w 2 1 == 1
    withCode (ETy.ofCode (fld w 6 4)) fun t =>
    withCode (Grp.ofCode (fld w 0 2)) fun g =>
    gate (t.isInt && g.aligned d && g.aligned a && (bc || g.aligned b)) <|
    .ok (.vadds d a b t mk g bc)
  | 0x04 =>
    let d : VReg := fld w 20 5
    let a : VReg := fld w 15 5
    let b : VReg := fld w 10 5
    let mk : MReg := fld w 3 3
    let bc : Bool := fld w 2 1 == 1
    withCode (ETy.ofCode (fld w 6 4)) fun t =>
    withCode (Grp.ofCode (fld w 0 2)) fun g =>
    gate (t.isInt && g.aligned d && g.aligned a && (bc || g.aligned b)) <|
    .ok (.vsubs d a b t mk g bc)
  | 0x05 =>
    let d : VReg := fld w 20 5
    let a : VReg := fld w 15 5
    let b : VReg := fld w 10 5
    let mk : MReg := fld w 3 3
    let bc : Bool := fld w 2 1 == 1
    withCode (ETy.ofCode (fld w 6 4)) fun t =>
    withCode (Grp.ofCode (fld w 0 2)) fun g =>
    gate (t.isInt && g.aligned d && g.aligned a && (bc || g.aligned b)) <|
    .ok (.vmul d a b t mk g bc)
  | 0x06 =>
    let d : VReg := fld w 20 5
    let a : VReg := fld w 15 5
    let b : VReg := fld w 10 5
    let mk : MReg := fld w 3 3
    let bc : Bool := fld w 2 1 == 1
    withCode (ETy.ofCode (fld w 6 4)) fun t =>
    withCode (Grp.ofCode (fld w 0 2)) fun g =>
    gate (t.isInt && g.aligned d && g.aligned a && (bc || g.aligned b)) <|
    .ok (.vmulh d a b t mk g bc)
  | 0x07 =>
    let d : VReg := fld w 20 5
    let a : VReg := fld w 15 5
    let b : VReg := fld w 10 5
    let mk : MReg := fld w 3 3
    let bc : Bool := fld w 2 1 == 1
    withCode (ETy.ofCode (fld w 6 4)) fun t =>
    gate (t.isWidenInt && Grp.g2.aligned d) <|
    rsv (fld w 0 2 == 0) <|
    .ok (.vmulw d a b t mk bc)
  | 0x08 =>
    let d : VReg := fld w 20 5
    let a : VReg := fld w 15 5
    let b : VReg := fld w 10 5
    let mk : MReg := fld w 3 3
    let bc : Bool := fld w 2 1 == 1
    withCode (ETy.ofCode (fld w 6 4)) fun t =>
    withCode (Grp.ofCode (fld w 0 2)) fun g =>
    gate (t.isInt && g.aligned d && g.aligned a && (bc || g.aligned b)) <|
    .ok (.vmac d a b t mk g bc)
  | 0x09 =>
    let d : VReg := fld w 20 5
    let a : VReg := fld w 15 5
    let b : VReg := fld w 10 5
    let mk : MReg := fld w 3 3
    let bc : Bool := fld w 2 1 == 1
    withCode (ETy.ofCode (fld w 6 4)) fun t =>
    gate (t.isWidenInt && Grp.g2.aligned d) <|
    rsv (fld w 0 2 == 0) <|
    .ok (.vmacw d a b t mk bc)
  | 0x0A =>
    let d : VReg := fld w 20 5
    let a : VReg := fld w 15 5
    let b : VReg := fld w 10 5
    let mk : MReg := fld w 3 3
    let bc : Bool := fld w 2 1 == 1
    withCode (ETy.ofCode (fld w 6 4)) fun t =>
    withCode (Grp.ofCode (fld w 0 2)) fun g =>
    gate (t.isInt && g.aligned d && g.aligned a && (bc || g.aligned b)) <|
    .ok (.vabsd d a b t mk g bc)
  | 0x0B =>
    let d : VReg := fld w 20 5
    let a : VReg := fld w 15 5
    let b : VReg := fld w 10 5
    let mk : MReg := fld w 3 3
    let bc : Bool := fld w 2 1 == 1
    withCode (ETy.ofCode (fld w 6 4)) fun t =>
    withCode (Grp.ofCode (fld w 0 2)) fun g =>
    gate (t.isInt && g.aligned d && g.aligned a && (bc || g.aligned b)) <|
    .ok (.vavg d a b t mk g bc)
  | 0x0C =>
    let d : VReg := fld w 20 5
    let a : VReg := fld w 15 5
    let b : VReg := fld w 10 5
    let mk : MReg := fld w 3 3
    let bc : Bool := fld w 2 1 == 1
    withCode (ETy.ofCode (fld w 6 4)) fun t =>
    withCode (Grp.ofCode (fld w 0 2)) fun g =>
    gate (t.isInt && g.aligned d && g.aligned a && (bc || g.aligned b)) <|
    .ok (.vmin d a b t mk g bc)
  | 0x0D =>
    let d : VReg := fld w 20 5
    let a : VReg := fld w 15 5
    let b : VReg := fld w 10 5
    let mk : MReg := fld w 3 3
    let bc : Bool := fld w 2 1 == 1
    withCode (ETy.ofCode (fld w 6 4)) fun t =>
    withCode (Grp.ofCode (fld w 0 2)) fun g =>
    gate (t.isInt && g.aligned d && g.aligned a && (bc || g.aligned b)) <|
    .ok (.vmax d a b t mk g bc)
  | 0x0E =>
    let d : VReg := fld w 20 5
    let a : VReg := fld w 15 5
    let b : VReg := fld w 10 5
    let mk : MReg := fld w 3 3
    let bc : Bool := fld w 2 1 == 1
    withCode (ETy.ofCode (fld w 6 4)) fun t =>
    withCode (Grp.ofCode (fld w 0 2)) fun g =>
    gate (true && g.aligned d && g.aligned a && (bc || g.aligned b)) <|
    .ok (.vand d a b t mk g bc)
  | 0x0F =>
    let d : VReg := fld w 20 5
    let a : VReg := fld w 15 5
    let b : VReg := fld w 10 5
    let mk : MReg := fld w 3 3
    let bc : Bool := fld w 2 1 == 1
    withCode (ETy.ofCode (fld w 6 4)) fun t =>
    withCode (Grp.ofCode (fld w 0 2)) fun g =>
    gate (true && g.aligned d && g.aligned a && (bc || g.aligned b)) <|
    .ok (.vor d a b t mk g bc)
  | 0x10 =>
    let d : VReg := fld w 20 5
    let a : VReg := fld w 15 5
    let b : VReg := fld w 10 5
    let mk : MReg := fld w 3 3
    let bc : Bool := fld w 2 1 == 1
    withCode (ETy.ofCode (fld w 6 4)) fun t =>
    withCode (Grp.ofCode (fld w 0 2)) fun g =>
    gate (true && g.aligned d && g.aligned a && (bc || g.aligned b)) <|
    .ok (.vxor d a b t mk g bc)
  | 0x11 =>
    let d : VReg := fld w 20 5
    let a : VReg := fld w 15 5
    let b : VReg := fld w 10 5
    let mk : MReg := fld w 3 3
    let bc : Bool := fld w 2 1 == 1
    withCode (ETy.ofCode (fld w 6 4)) fun t =>
    withCode (Grp.ofCode (fld w 0 2)) fun g =>
    gate (true && g.aligned d && g.aligned a && (bc || g.aligned b)) <|
    .ok (.vandn d a b t mk g bc)
  | 0x12 =>
    let d : VReg := fld w 20 5
    let a : VReg := fld w 15 5
    let b : VReg := fld w 10 5
    let mk : MReg := fld w 3 3
    let bc : Bool := fld w 2 1 == 1
    withCode (ETy.ofCode (fld w 6 4)) fun t =>
    withCode (Grp.ofCode (fld w 0 2)) fun g =>
    gate (t.isInt && g.aligned d && g.aligned a && (bc || g.aligned b)) <|
    .ok (.vshl d a b t mk g bc)
  | 0x13 =>
    let d : VReg := fld w 20 5
    let a : VReg := fld w 15 5
    let b : VReg := fld w 10 5
    let mk : MReg := fld w 3 3
    let bc : Bool := fld w 2 1 == 1
    withCode (ETy.ofCode (fld w 6 4)) fun t =>
    withCode (Grp.ofCode (fld w 0 2)) fun g =>
    gate (t.isInt && g.aligned d && g.aligned a && (bc || g.aligned b)) <|
    .ok (.vshr d a b t mk g bc)
  | 0x14 =>
    let d : VReg := fld w 20 5
    let a : VReg := fld w 15 5
    let b : VReg := fld w 10 5
    let mk : MReg := fld w 3 3
    let bc : Bool := fld w 2 1 == 1
    withCode (ETy.ofCode (fld w 6 4)) fun t =>
    withCode (Grp.ofCode (fld w 0 2)) fun g =>
    gate (t.isInt && g.aligned d && g.aligned a && (bc || g.aligned b)) <|
    .ok (.vsra d a b t mk g bc)
  | 0x15 =>
    let d : VReg := fld w 20 5
    let a : VReg := fld w 15 5
    let mk : MReg := fld w 3 3
    withCode (ETy.ofCode (fld w 6 4)) fun t =>
    withCode (Grp.ofCode (fld w 0 2)) fun g =>
    gate (t.isInt && g.aligned d && g.aligned a) <|
    rsv (fld w 2 1 == 0 && fld w 10 5 == 0) <|
    .ok (.vclz d a t mk g)
  | 0x16 =>
    let d : VReg := fld w 20 5
    let a : VReg := fld w 15 5
    let mk : MReg := fld w 3 3
    withCode (ETy.ofCode (fld w 6 4)) fun t =>
    withCode (Grp.ofCode (fld w 0 2)) fun g =>
    gate (t.isInt && g.aligned d && g.aligned a) <|
    rsv (fld w 2 1 == 0 && fld w 10 5 == 0) <|
    .ok (.vpopc d a t mk g)
  | 0x17 =>
    let d : MReg := fld w 20 3
    let a : VReg := fld w 15 5
    let b : VReg := fld w 10 5
    let mk : MReg := fld w 3 3
    withCode (Cond.ofCode ((fld w 23 1 ++ fld w 0 3))) fun c =>
    withCode (ETy.ofCode (fld w 6 4)) fun t =>
    gate (c.isInt && t.isInt && d != 0) <|
    rsv (fld w 24 1 == 0) <|
    .ok (.vcmp c d a b t mk)
  | 0x18 =>
    let d : VReg := fld w 20 5
    let a : VReg := fld w 15 5
    let b : VReg := fld w 10 5
    let mk : MReg := fld w 3 3
    let bc : Bool := fld w 2 1 == 1
    withCode (ETy.ofCode (fld w 6 4)) fun t =>
    withCode (Grp.ofCode (fld w 0 2)) fun g =>
    gate (g.aligned d && g.aligned a && (bc || g.aligned b)) <|
    .ok (.vsel d a b t mk g bc)
  | 0x19 =>
    let d : VReg := fld w 20 5
    let a : VReg := fld w 15 5
    let b : VReg := fld w 10 5
    let mk : MReg := fld w 3 3
    withCode (ETy.ofCode (fld w 6 4)) fun t =>
    withCode (RM.ofCode (fld w 0 3)) fun r =>
    gate (t.isVecFloat && r.isArith) <|
    .ok (.vfadd d a b t mk r)
  | 0x1A =>
    let d : VReg := fld w 20 5
    let a : VReg := fld w 15 5
    let b : VReg := fld w 10 5
    let mk : MReg := fld w 3 3
    withCode (ETy.ofCode (fld w 6 4)) fun t =>
    withCode (RM.ofCode (fld w 0 3)) fun r =>
    gate (t.isVecFloat && r.isArith) <|
    .ok (.vfsub d a b t mk r)
  | 0x1B =>
    let d : VReg := fld w 20 5
    let a : VReg := fld w 15 5
    let b : VReg := fld w 10 5
    let mk : MReg := fld w 3 3
    withCode (ETy.ofCode (fld w 6 4)) fun t =>
    withCode (RM.ofCode (fld w 0 3)) fun r =>
    gate (t.isVecFloat && r.isArith) <|
    .ok (.vfmul d a b t mk r)
  | 0x1C =>
    let d : VReg := fld w 20 5
    let a : VReg := fld w 15 5
    let b : VReg := fld w 10 5
    let mk : MReg := fld w 3 3
    withCode (ETy.ofCode (fld w 6 4)) fun t =>
    withCode (RM.ofCode (fld w 0 3)) fun r =>
    gate (t.isVecFloat && r.isArith) <|
    .ok (.vfma d a b t mk r)
  | 0x1D =>
    let d : VReg := fld w 20 5
    let a : VReg := fld w 15 5
    let b : VReg := fld w 10 5
    let mk : MReg := fld w 3 3
    withCode (ETy.ofCode (fld w 6 4)) fun t =>
    gate (t.isVecFloat) <|
    rsv (fld w 0 3 == 0) <|
    .ok (.vfmin d a b t mk)
  | 0x1E =>
    let d : VReg := fld w 20 5
    let a : VReg := fld w 15 5
    let b : VReg := fld w 10 5
    let mk : MReg := fld w 3 3
    withCode (ETy.ofCode (fld w 6 4)) fun t =>
    gate (t.isVecFloat) <|
    rsv (fld w 0 3 == 0) <|
    .ok (.vfmax d a b t mk)
  | 0x1F =>
    let d : VReg := fld w 20 5
    let a : VReg := fld w 15 5
    let b : VReg := fld w 10 5
    let mk : MReg := fld w 3 3
    withCode (ETy.ofCode (fld w 6 4)) fun t =>
    withCode (SgnOp.ofCode (fld w 0 2)) fun f =>
    gate (t.isAnyFloat) <|
    rsv (fld w 2 1 == 0) <|
    .ok (.vfsgn d a b t mk f)
  | 0x20 =>
    let d : MReg := fld w 20 3
    let a : VReg := fld w 15 5
    let b : VReg := fld w 10 5
    let mk : MReg := fld w 3 3
    withCode (Cond.ofCode ((fld w 23 1 ++ fld w 0 3))) fun c =>
    withCode (ETy.ofCode (fld w 6 4)) fun t =>
    gate (c.isFloat && t.isVecFloat && d != 0) <|
    rsv (fld w 24 1 == 0) <|
    .ok (.vfcmp c d a b t mk)
  | 0x21 =>
    let d : VReg := fld w 20 5
    let a : VReg := fld w 15 5
    let mk : MReg := fld w 3 3
    withCode (ETy.ofCode (fld w 6 4)) fun t =>
    gate (t.isScalarFloat) <|
    rsv (fld w 0 3 == 0 && fld w 10 5 == 0) <|
    .ok (.vfclass d a t mk)
  | 0x22 =>
    match (fld w 14 1).toNat with
    | 0 =>
      let d : VReg := fld w 20 5
      let a : VReg := fld w 15 5
      let mk : MReg := fld w 3 3
      withCode (ETy.ofCode (fld w 10 4)) fun sty =>
      withCode (ETy.ofCode (fld w 6 4)) fun t =>
      withCode (RM.ofCode (fld w 0 3)) fun r =>
      gate (cvtRatioOk sty t) <|
      .ok (.vcvt d a sty t mk r)
    | 1 =>
      if !v1 then .error .illegalOp else
      let d : VReg := fld w 20 5
      let a : VReg := fld w 15 5
      let q : QReg := fld w 3 2
      withCode (ETy.ofCode (fld w 10 4)) fun sty =>
      withCode (ETy.ofCode (fld w 6 4)) fun t =>
      withCode (RM.ofCode (fld w 0 3)) fun r =>
      gate (cvtRatioOk sty t) <|
      rsv (fld w 5 1 == 0) <|
      .ok (.vcvtRes d a sty t q r)
    | _ => .error .illegalOp
  | 0x23 =>
    let d : VReg := fld w 20 5
    let a : VReg := fld w 15 5
    let mk : MReg := fld w 3 3
    let sat : Bool := fld w 2 1 == 1
    withCode (ETy.ofCode (fld w 6 4)) fun t =>
    withCode (XFac.ofCode (fld w 0 2)) fun x =>
    gate (x.okTy t && x.grp.aligned a) <|
    rsv (fld w 10 5 == 0) <|
    .ok (.vpack d a t mk sat x)
  | 0x24 =>
    let d : VReg := fld w 20 5
    let a : VReg := fld w 15 5
    let mk : MReg := fld w 3 3
    withCode (ETy.ofCode (fld w 6 4)) fun t =>
    withCode (XFac.ofCode (fld w 0 2)) fun x =>
    gate (x.okTy t && x.grp.aligned d) <|
    rsv (fld w 2 1 == 0 && fld w 10 5 == 0) <|
    .ok (.vunpack d a t mk x)
  | 0x25 =>
    let d : VReg := fld w 20 5
    let a : VReg := fld w 15 5
    let b : VReg := fld w 10 5
    let mk : MReg := fld w 3 3
    withCode (ETy.ofCode (fld w 6 4)) fun t =>
    rsv (fld w 0 3 == 0) <|
    .ok (.vperm d a b t mk)
  | 0x26 =>
    let d : VReg := fld w 20 5
    let a : VReg := fld w 15 5
    let b : VReg := fld w 10 5
    let mk : MReg := fld w 3 3
    withCode (ETy.ofCode (fld w 6 4)) fun t =>
    gate (Grp.g2.aligned a) <|
    rsv (fld w 0 3 == 0) <|
    .ok (.vperm2 d a b t mk)
  | 0x27 =>
    let d : VReg := fld w 20 5
    let a : VReg := fld w 15 5
    let s : SReg := fld w 9 6
    let mk : MReg := fld w 2 3
    let up : Bool := fld w 0 1 == 1
    withCode (ETy.ofCode (fld w 5 4)) fun t =>
    rsv (fld w 1 1 == 0) <|
    .ok (.vslide d a s t mk up)
  | 0x28 =>
    let d : VReg := fld w 20 5
    let a : VReg := fld w 15 5
    let s : SReg := fld w 9 6
    let mk : MReg := fld w 2 3
    let up : Bool := fld w 0 1 == 1
    withCode (ETy.ofCode (fld w 5 4)) fun t =>
    rsv (fld w 1 1 == 0) <|
    .ok (.vrot d a s t mk up)
  | 0x29 =>
    match (fld w 0 1).toNat with
    | 0 =>
      let d : VReg := fld w 20 5
      let s : SReg := fld w 9 6
      let mk : MReg := fld w 2 3
      withCode (ETy.ofCode (fld w 5 4)) fun t =>
      rsv (fld w 1 1 == 0 && fld w 15 5 == 0) <|
      .ok (.vbcast d s t mk)
    | 1 =>
      let d : VReg := fld w 20 5
      let a : VReg := fld w 15 5
      let s : SReg := fld w 9 6
      let mk : MReg := fld w 2 3
      withCode (ETy.ofCode (fld w 5 4)) fun t =>
      rsv (fld w 1 1 == 0) <|
      .ok (.vbcastEl d a s t mk)
    | _ => .error .illegalOp
  | 0x2A =>
    let k : BitVec 10 := (fld w 20 5 ++ fld w 0 5)
    let a : VReg := fld w 15 5
    let s : SReg := fld w 9 6
    withCode (ETy.ofCode (fld w 5 4)) fun t =>
    gate (t.indexOk k) <|
    .ok (.vextr k a s t)
  | 0x2B =>
    let d : VReg := fld w 20 5
    let k : BitVec 10 := (fld w 15 5 ++ fld w 0 5)
    let s : SReg := fld w 9 6
    withCode (ETy.ofCode (fld w 5 4)) fun t =>
    gate (t.indexOk k) <|
    .ok (.vins d k s t)
  | 0x2C =>
    match (fld w 0 1).toNat with
    | 0 =>
      let d : VReg := fld w 20 5
      let mk : MReg := fld w 3 3
      withCode (ETy.ofCode (fld w 6 4)) fun t =>
      gate (t.isInt) <|
      rsv (fld w 1 2 == 0 && fld w 10 10 == 0) <|
      .ok (.viota d t mk)
    | 1 =>
      let d : VReg := fld w 20 5
      withCode (ETy.ofCode (fld w 6 4)) fun t =>
      gate (t.isInt) <|
      rsv (fld w 1 5 == 0 && fld w 10 10 == 0) <|
      .ok (.viotaIdx d t)
    | _ => .error .illegalOp
  | 0x2D =>
    let d : VReg := fld w 20 5
    let a : VReg := fld w 15 5
    let mk : MReg := fld w 3 3
    withCode (ETy.ofCode (fld w 6 4)) fun t =>
    rsv (fld w 0 3 == 0 && fld w 10 5 == 0) <|
    .ok (.vcompress d a t mk)
  | 0x2E =>
    let d : VReg := fld w 20 5
    let a : VReg := fld w 15 5
    let mk : MReg := fld w 3 3
    withCode (ETy.ofCode (fld w 6 4)) fun t =>
    rsv (fld w 0 3 == 0 && fld w 10 5 == 0) <|
    .ok (.vexpand d a t mk)
  | 0x2F =>
    let d : VReg := fld w 20 5
    let a : VReg := fld w 15 5
    let mk : MReg := fld w 3 3
    let bc : Bool := fld w 2 1 == 1
    withCode (ETy.ofCode (fld w 6 4)) fun t =>
    withCode (Grp.ofCode (fld w 0 2)) fun g =>
    gate (g.aligned d && (bc || g.aligned a)) <|
    rsv (fld w 10 5 == 0) <|
    .ok (.vmov d a t mk g bc)
  | 0x30 =>
    let d : VReg := fld w 20 5
    let a : VReg := fld w 15 5
    let b : VReg := fld w 10 5
    withCode (ETy.ofCode (fld w 6 4)) fun t =>
    gate (Grp.g2.aligned d) <|
    rsv (fld w 0 6 == 0) <|
    .ok (.vzip d a b t)
  | 0x31 =>
    let d : VReg := fld w 20 5
    let a : VReg := fld w 15 5
    withCode (ETy.ofCode (fld w 6 4)) fun t =>
    gate (Grp.g2.aligned d && Grp.g2.aligned a) <|
    rsv (fld w 0 6 == 0 && fld w 10 5 == 0) <|
    .ok (.vunzip d a t)
  | 0x32 =>
    let d : MReg := fld w 20 3
    let a : MReg := fld w 15 3
    let b : MReg := fld w 10 3
    let tb : BitVec 4 := fld w 6 4
    gate (d != 0) <|
    rsv (fld w 0 6 == 0 && fld w 13 2 == 0 && fld w 18 2 == 0 && fld w 23 2 == 0) <|
    .ok (.mlog d a b tb)
  | 0x33 =>
    let a : MReg := fld w 15 3
    let s : SReg := fld w 9 6
    let mk : MReg := fld w 2 3
    withCode (ETy.ofCode (fld w 5 4)) fun t =>
    rsv (fld w 0 2 == 0 && fld w 18 7 == 0) <|
    .ok (.mpopc a s t mk)
  | 0x34 =>
    let a : MReg := fld w 15 3
    let s : SReg := fld w 9 6
    let mk : MReg := fld w 2 3
    let last : Bool := fld w 0 1 == 1
    withCode (ETy.ofCode (fld w 5 4)) fun t =>
    rsv (fld w 1 1 == 0 && fld w 18 7 == 0) <|
    .ok (.mfirst a s t mk last)
  | 0x35 =>
    match (fld w 0 2).toNat with
    | 0 =>
      let d : MReg := fld w 20 3
      let a : VReg := fld w 15 5
      let mk : MReg := fld w 2 3
      withCode (ETy.ofCode (fld w 5 4)) fun t =>
      gate (d != 0) <|
      rsv (fld w 9 6 == 0 && fld w 23 2 == 0) <|
      .ok (.mfromNz d a t mk)
    | 1 =>
      let d : MReg := fld w 20 3
      let s : SReg := fld w 9 6
      let mk : MReg := fld w 2 3
      withCode (ETy.ofCode (fld w 5 4)) fun t =>
      gate (d != 0) <|
      rsv (fld w 15 5 == 0 && fld w 23 2 == 0) <|
      .ok (.mfromPre d s t mk)
    | 2 =>
      let d : MReg := fld w 20 3
      let s : SReg := fld w 9 6
      let mk : MReg := fld w 2 3
      withCode (ETy.ofCode (fld w 5 4)) fun t =>
      gate (d != 0) <|
      rsv (fld w 15 5 == 0 && fld w 23 2 == 0) <|
      .ok (.mfromSuf d s t mk)
    | _ => .error .illegalOp
  | 0x36 =>
    if !v1 then .error .illegalOp else
    let d : VReg := fld w 20 5
    let a : VReg := fld w 15 5
    let mk : MReg := fld w 3 3
    withCode (ETy.ofCode (fld w 6 4)) fun t =>
    gate (t.isVecFloat) <|
    rsv (fld w 0 3 == 0 && fld w 10 5 == 0) <|
    .ok (.vexp2 d a t mk)
  | 0x37 =>
    if !v1 then .error .illegalOp else
    let d : VReg := fld w 20 5
    let a : VReg := fld w 15 5
    let mk : MReg := fld w 3 3
    withCode (ETy.ofCode (fld w 6 4)) fun t =>
    gate (t.isVecFloat) <|
    rsv (fld w 0 3 == 0 && fld w 10 5 == 0) <|
    .ok (.vlog2 d a t mk)
  | 0x38 =>
    if !v1 then .error .illegalOp else
    let d : VReg := fld w 20 5
    let a : VReg := fld w 15 5
    let mk : MReg := fld w 3 3
    withCode (ETy.ofCode (fld w 6 4)) fun t =>
    gate (t.isVecFloat) <|
    rsv (fld w 0 3 == 0 && fld w 10 5 == 0) <|
    .ok (.vrcp d a t mk)
  | 0x39 =>
    if !v1 then .error .illegalOp else
    let d : VReg := fld w 20 5
    let a : VReg := fld w 15 5
    let mk : MReg := fld w 3 3
    withCode (ETy.ofCode (fld w 6 4)) fun t =>
    gate (t.isVecFloat) <|
    rsv (fld w 0 3 == 0 && fld w 10 5 == 0) <|
    .ok (.vrsqrt d a t mk)
  | 0x3A =>
    if !v1 then .error .illegalOp else
    let d : VReg := fld w 20 5
    let a : VReg := fld w 15 5
    let mk : MReg := fld w 3 3
    withCode (ETy.ofCode (fld w 6 4)) fun t =>
    gate (t.isVecFloat) <|
    rsv (fld w 0 3 == 0 && fld w 10 5 == 0) <|
    .ok (.vsqrt d a t mk)
  | 0x3B =>
    if !v1 then .error .illegalOp else
    let d : VReg := fld w 20 5
    let a : VReg := fld w 15 5
    let mk : MReg := fld w 3 3
    let cs : Bool := fld w 0 1 == 1
    withCode (ETy.ofCode (fld w 6 4)) fun t =>
    gate (t.isVecFloat) <|
    rsv (fld w 1 2 == 0 && fld w 10 5 == 0) <|
    .ok (.vsincos d a t mk cs)
  | 0x3C =>
    if !v1 then .error .illegalOp else
    let d : VReg := fld w 20 5
    let a : VReg := fld w 15 5
    let mk : MReg := fld w 3 3
    withCode (ETy.ofCode (fld w 6 4)) fun t =>
    gate (t.isVecFloat) <|
    rsv (fld w 0 3 == 0 && fld w 10 5 == 0) <|
    .ok (.vtanh d a t mk)
  | 0x3D =>
    if !v1 then .error .illegalOp else
    match (fld w 0 3).toNat with
    | 0 =>
      let q : QReg := fld w 20 2
      let a : VReg := fld w 15 5
      let mk : MReg := fld w 3 3
      withCode (ETy.ofCode (fld w 6 4)) fun t =>
      rsv (fld w 10 5 == 0 && fld w 22 3 == 0) <|
      .ok (.redSum q a t mk false)
    | 1 =>
      let q : QReg := fld w 20 2
      let a : VReg := fld w 15 5
      let b : VReg := fld w 10 5
      let mk : MReg := fld w 3 3
      withCode (ETy.ofCode (fld w 6 4)) fun t =>
      gate (t.isRedMax) <|
      rsv (fld w 22 3 == 0) <|
      .ok (.redMax q a b t mk false)
    | 2 =>
      let q : QReg := fld w 20 2
      let a : VReg := fld w 15 5
      let b : VReg := fld w 10 5
      let mk : MReg := fld w 3 3
      withCode (ETy.ofCode (fld w 6 4)) fun t =>
      gate (t.isRedMax) <|
      rsv (fld w 22 3 == 0) <|
      .ok (.redMax q a b t mk true)
    | 3 =>
      let q : QReg := fld w 20 2
      let a : VReg := fld w 15 5
      let mk : MReg := fld w 3 3
      withCode (ETy.ofCode (fld w 6 4)) fun t =>
      rsv (fld w 10 5 == 0 && fld w 22 3 == 0) <|
      .ok (.redSum q a t mk true)
    | _ => .error .illegalOp
  | 0x3E =>
    if !v1 then .error .illegalOp else
    match (fld w 0 2).toNat with
    | 0 =>
      let q : QReg := fld w 20 2
      let s : SReg := fld w 9 6
      withCode (ETy.ofCode (fld w 5 4)) fun t =>
      gate ((t == .a56 || t == .f32)) <|
      rsv (fld w 2 3 == 0 && fld w 15 5 == 0 && fld w 22 3 == 0) <|
      .ok (.redmvGet q s t)
    | 1 =>
      let q : QReg := fld w 20 2
      let s : SReg := fld w 9 6
      rsv (fld w 2 7 == 0 && fld w 15 5 == 0 && fld w 22 3 == 0) <|
      .ok (.redmvIdx q s)
    | 2 =>
      let q : QReg := fld w 20 2
      let qa : QReg := fld w 15 2
      rsv (fld w 2 13 == 0 && fld w 17 3 == 0 && fld w 22 3 == 0) <|
      .ok (.redmvAdd q qa)
    | 3 =>
      let q : QReg := fld w 20 2
      let s : SReg := fld w 9 6
      rsv (fld w 2 7 == 0 && fld w 15 5 == 0 && fld w 22 3 == 0) <|
      .ok (.redmvSet q s)
    | _ => .error .illegalOp
  | 0x3F =>
    if !v1 then .error .illegalOp else
    let l : BitVec 4 := fld w 20 4
    withCode (ClrVal.ofCode (fld w 0 2)) fun v =>
    gate (l != 0) <|
    rsv (fld w 2 18 == 0 && fld w 24 1 == 0) <|
    .ok (.redclr l v)
  | 0x40 =>
    if !v1 then .error .illegalOp else
    match (fld w 2 1).toNat with
    | 0 =>
      let d : VReg := fld w 20 5
      let a : VReg := fld w 15 5
      let mk : MReg := fld w 3 3
      withCode (ETy.ofCode (fld w 6 4)) fun t =>
      withCode (SxFmt.ofCode (fld w 0 2)) fun f =>
      gate (t.isVecFloat) <|
      rsv (fld w 10 5 == 0) <|
      .ok (.vcvtsxTo d a t mk f)
    | 1 =>
      let d : VReg := fld w 20 5
      let a : VReg := fld w 15 5
      let h : Bool := fld w 10 1 == 1
      let mk : MReg := fld w 3 3
      withCode (ETy.ofCode (fld w 6 4)) fun t =>
      withCode (SxFmt.ofCode (fld w 0 2)) fun f =>
      gate (t == .f32) <|
      rsv (fld w 11 4 == 0) <|
      .ok (.vcvtsxFrom d a h t mk f)
    | _ => .error .illegalOp
  | 0x41 =>
    if !v1 then .error .illegalOp else
    let d : MReg := fld w 20 3
    let a : VReg := fld w 15 5
    let b : VReg := fld w 10 5
    let mk : MReg := fld w 3 3
    let part : Bool := fld w 0 1 == 1
    withCode (ETy.ofCode (fld w 6 4)) fun t =>
    gate (t.isMatch && d != 0) <|
    rsv (fld w 1 2 == 0 && fld w 23 2 == 0) <|
    .ok (.vmatch d a b t mk part)
  | _ => .error .illegalOp

/-- The vector opcode space: the opcode stands in bits 31:25 (R40, R45). -/
def decodeVector (v1 : Bool) (w : BitVec 32) : Except Reject Instr := vectorWord v1 w (fld w 25 7).toNat

/-- The instruction of a word of the matrix space with opcode `op` (R45): opcode legality first, then code values, then
reserved bits (R47). -/
def matrixWord (w : BitVec 32) (op : Nat) : Except Reject Instr :=
  match op with
  | 0x01 =>
    let bands : BitVec 4 := fld w 0 4
    gate (bands != 0) <|
    rsv (fld w 4 21 == 0) <|
    .ok (.mshape bands)
  | 0x02 =>
    match (fld w 15 2).toNat with
    | 0 =>
      let l : LReg := fld w 21 1
      let k : DReg := fld w 17 4
      let s : SReg := fld w 7 6
      rsv (fld w 0 7 == 0 && fld w 13 2 == 0 && fld w 22 3 == 0) <|
      .ok (.mldw l k s)
    | 1 =>
      let l : LReg := fld w 21 1
      let k : DReg := fld w 17 4
      let j : BitVec 2 := fld w 13 2
      let s : SReg := fld w 7 6
      let g : BitVec 2 := fld w 2 2
      let n : BitVec 2 := fld w 0 2
      rsv (fld w 4 3 == 0 && fld w 22 3 == 0) <|
      .ok (.mldwExpand l k j s g n)
    | _ => .error .illegalOp
  | 0x03 =>
    match (fld w 15 2).toNat with
    | 0 =>
      let c : AccReg := fld w 22 3
      let l : LReg := fld w 21 1
      let k : DReg := fld w 17 4
      let s : SReg := fld w 7 6
      let acc : Bool := fld w 0 1 == 1
      rsv (fld w 1 6 == 0 && fld w 13 2 == 0) <|
      .ok (.mma c l k s acc)
    | 2 =>
      let c : AccReg := fld w 22 3
      let l : LReg := fld w 21 1
      let k : DReg := fld w 17 4
      let j : BitVec 2 := fld w 13 2
      let s : SReg := fld w 7 6
      let n : BitVec 2 := fld w 1 2
      let acc : Bool := fld w 0 1 == 1
      rsv (fld w 3 4 == 0) <|
      .ok (.mmaAbsorb c l k j s n acc)
    | _ => .error .illegalOp
  | 0x04 =>
    let c : AccReg := fld w 22 3
    rsv (fld w 0 22 == 0) <|
    .ok (.mzero c)
  | 0x05 =>
    let c : AccReg := fld w 22 3
    let k : DReg := fld w 17 4
    let s : SReg := fld w 7 6
    let relu : Bool := fld w 4 1 == 1
    let sat : Bool := fld w 3 1 == 1
    withCode (RM.ofCode (fld w 0 3)) fun r =>
    rsv (fld w 5 2 == 0 && fld w 13 4 == 0 && fld w 21 1 == 0) <|
    .ok (.mdrain c k s relu sat r)
  | 0x06 =>
    rsv (fld w 0 25 == 0) <|
    .ok (.msync)
  | _ => .error .illegalOp

/-- The matrix opcode space: the opcode stands in bits 31:25 (R40, R45). -/
def decodeMatrix (w : BitVec 32) : Except Reject Instr := matrixWord w (fld w 25 7).toNat

/-- The instruction of a word of the engine space with opcode `op` (R45): opcode legality first, then code values, then
reserved bits (R47). -/
def engineWord (w : BitVec 32) (op : Nat) : Except Reject Instr :=
  match op with
  | 0x01 =>
    match (fld w 0 1).toNat with
    | 0 =>
      let tk : SReg := fld w 19 6
      let da : DReg := fld w 15 4
      let db : DReg := fld w 11 4
      rsv (fld w 1 10 == 0) <|
      .ok (.cpy tk da db)
    | 1 =>
      let tk : SReg := fld w 19 6
      let da : DReg := fld w 15 4
      let db : DReg := fld w 11 4
      let s : SReg := fld w 5 6
      rsv (fld w 1 4 == 0) <|
      .ok (.cpyPeer tk da db s)
    | _ => .error .illegalOp
  | 0x02 =>
    let tk : SReg := fld w 19 6
    let da : DReg := fld w 15 4
    let db : DReg := fld w 11 4
    let s : SReg := fld w 5 6
    rsv (fld w 0 5 == 0) <|
    .ok (.cpym tk da db s)
  | 0x03 =>
    match (fld w 0 1).toNat with
    | 0 =>
      let tk : SReg := fld w 19 6
      let da : DReg := fld w 15 4
      let s : SReg := fld w 5 6
      let dat : Bool := fld w 2 1 == 1
      let flt : Bool := fld w 1 1 == 1
      gate (!(s.getLsbD 0)) <|
      rsv (fld w 3 2 == 0 && fld w 11 4 == 0) <|
      .ok (.gath tk da s dat flt)
    | 1 =>
      let tk : SReg := fld w 19 6
      let da : DReg := fld w 15 4
      let db : DReg := fld w 11 4
      let s : SReg := fld w 5 6
      let dat : Bool := fld w 2 1 == 1
      let flt : Bool := fld w 1 1 == 1
      gate (!(s.getLsbD 0)) <|
      rsv (fld w 3 2 == 0) <|
      .ok (.gathList tk da db s dat flt)
    | _ => .error .illegalOp
  | 0x04 =>
    let tk : SReg := fld w 19 6
    let db : DReg := fld w 11 4
    let s : SReg := fld w 5 6
    gate (!(s.getLsbD 0)) <|
    rsv (fld w 0 5 == 0 && fld w 15 4 == 0) <|
    .ok (.kvput tk db s)
  | 0x05 =>
    let tk : SReg := fld w 19 6
    let s : SReg := fld w 5 6
    rsv (fld w 0 5 == 0 && fld w 11 8 == 0) <|
    .ok (.kvalloc tk s)
  | 0x06 =>
    let tk : SReg := fld w 19 6
    let s : SReg := fld w 5 6
    rsv (fld w 0 5 == 0 && fld w 11 8 == 0) <|
    .ok (.kvgrow tk s)
  | 0x07 =>
    let tk : SReg := fld w 19 6
    let s : SReg := fld w 5 6
    rsv (fld w 0 5 == 0 && fld w 11 8 == 0) <|
    .ok (.kvfree tk s)
  | 0x08 =>
    let tk : SReg := fld w 19 6
    let da : DReg := fld w 15 4
    let db : DReg := fld w 11 4
    let s : SReg := fld w 5 6
    withCode (CollOp.ofCode (fld w 0 3)) fun o =>
    rsv (fld w 3 2 == 0) <|
    .ok (.coll tk da db s o)
  | 0x09 =>
    match (fld w 0 1).toNat with
    | 0 =>
      let tk : SReg := fld w 19 6
      let da : DReg := fld w 15 4
      let db : DReg := fld w 11 4
      rsv (fld w 1 10 == 0) <|
      .ok (.strm tk da db)
    | 1 =>
      let tk : SReg := fld w 19 6
      let da : DReg := fld w 15 4
      let db : DReg := fld w 11 4
      rsv (fld w 1 10 == 0) <|
      .ok (.strmTag tk da db)
    | _ => .error .illegalOp
  | 0x0A =>
    let s : SReg := fld w 5 6
    let ms : BitVec 4 := fld w 0 4
    withCode (MFmt.ofCode (fld w 11 4)) fun f =>
    gate (ms != 0) <|
    rsv (fld w 4 1 == 0 && fld w 15 10 == 0) <|
    .ok (.steepld f s ms)
  | 0x0B =>
    match (fld w 0 2).toNat with
    | 0 =>
      let tk : SReg := fld w 19 6
      let s : SReg := fld w 5 6
      gate (tk != 0) <|
      rsv (fld w 2 3 == 0 && fld w 11 8 == 0) <|
      .ok (.mupdBegin tk s)
    | 1 =>
      let tk : SReg := fld w 19 6
      let db : DReg := fld w 11 4
      let s : SReg := fld w 5 6
      gate (tk != 0) <|
      rsv (fld w 2 3 == 0 && fld w 15 4 == 0) <|
      .ok (.mupdWrite tk db s)
    | 2 =>
      let tk : SReg := fld w 19 6
      let s : SReg := fld w 5 6
      gate (tk != 0) <|
      rsv (fld w 2 3 == 0 && fld w 11 8 == 0) <|
      .ok (.mupdCommit tk s)
    | 3 =>
      let tk : SReg := fld w 19 6
      let s : SReg := fld w 5 6
      gate (tk != 0) <|
      rsv (fld w 2 3 == 0 && fld w 11 8 == 0) <|
      .ok (.mupdAbort tk s)
    | _ => .error .illegalOp
  | 0x0C =>
    match (fld w 2 3).toNat with
    | 0 =>
      let d : SReg := fld w 19 6
      let s : SReg := fld w 5 6
      withCode (QueueId.ofCode (fld w 0 2)) fun q =>
      rsv (fld w 11 8 == 0) <|
      .ok (.engqStat d s q)
    | 1 =>
      let d : SReg := fld w 19 6
      let s : SReg := fld w 5 6
      withCode (QueueId.ofCode (fld w 0 2)) fun q =>
      rsv (fld w 11 8 == 0) <|
      .ok (.engqVmask d s q)
    | 2 =>
      let d : SReg := fld w 19 6
      withCode (QueueId.ofCode (fld w 0 2)) fun q =>
      rsv (fld w 5 14 == 0) <|
      .ok (.engqDepth d q)
    | 3 =>
      let d : SReg := fld w 19 6
      withCode (QueueId.ofCode (fld w 0 2)) fun q =>
      rsv (fld w 5 14 == 0) <|
      .ok (.engqLast d q)
    | _ => .error .illegalOp
  | _ => .error .illegalOp

/-- The engine opcode space: the opcode stands in bits 31:25 (R40, R45). -/
def decodeEngine (w : BitVec 32) : Except Reject Instr := engineWord w (fld w 25 7).toNat

/-- The number of a slot: its PRES bit (R32). -/
def Slot.index : Slot → Nat
  | .s0 => 0 | .s1 => 1 | .c => 2 | .m => 3 | .v0 => 4 | .v1 => 5 | .x => 6 | .e => 7

/-- The slots in ascending order of their PRES bits (R32). -/
def Slot.all : List Slot := [.s0, .s1, .c, .m, .v0, .v1, .x, .e]

/-- The opcode space of a slot (R32). -/
def Slot.lane : Slot → Lane
  | .s0 => .scalar | .s1 => .scalar | .c => .control | .m => .memory | .v0 => .vector | .v1 => .vector
  | .x => .matrix | .e => .engine

/-- A slot that accepts every opcode of a space: S1 and V1 for the shared spaces (R45). -/
def Lane.slot : Lane → Slot
  | .scalar => .s1 | .control => .c | .memory => .m | .vector => .v1 | .matrix => .x | .engine => .e

/-- The instruction a slot word holds (R45, R46, R47). -/
def decodeSlot (sl : Slot) (w : BitVec 32) : Except Reject Instr :=
  match sl with
  | .s0 => decodeScalar false w
  | .s1 => decodeScalar true w
  | .c => decodeControl w
  | .m => decodeMemory w
  | .v0 => decodeVector false w
  | .v1 => decodeVector true w
  | .x => decodeMatrix w
  | .e => decodeEngine w

/-- The fields of a bundle header (R32). -/
structure Header where
  pad : Bool
  stall : BitVec 5
  pres : BitVec 8
deriving DecidableEq, Repr

/-- The fields of a header, its reserved bits first (R32, R35, R46). -/
def decodeHeader (h : BitVec 16) : Except Reject Header :=
  let pad := h.getLsbD 13
  let pres := h.extractLsb' 0 8
  if h.extractLsb' 14 2 != 0 then .error .reservedField
  else if pad && pres != 0 then .error .reservedField
  else if h == 0 then .error .illegalOp
  else .ok ⟨pad, h.extractLsb' 8 5, pres⟩

/-- The slots whose PRES bit is set, in ascending order (R33). -/
def presentSlots (pres : BitVec 8) : List Slot := Slot.all.filter fun sl => pres.getLsbD sl.index

/-- The size of a bundle in bytes (R33). -/
def bundleSize (pres : BitVec 8) : Nat := 2 + 4 * (presentSlots pres).length

/-- Byte `i` of a list of bytes, zero past its end. -/
def byteAt (l : List Byte) (i : Nat) : Byte := l.getD i 0

/-- The little-endian 32-bit word at byte `i` (R33). -/
def word32At (l : List Byte) (i : Nat) : BitVec 32 :=
  byteAt l (i + 3) ++ byteAt l (i + 2) ++ byteAt l (i + 1) ++ byteAt l i

/-- A present slot of a bundle with its word and the instruction the word holds. -/
structure SlotInstr where
  slot : Slot
  word : BitVec 32
  instr : Instr
deriving DecidableEq, Repr

/-- What the bytes at a bundle address hold: a header without slots, or a bundle of slot instructions. -/
inductive Bundle where
  | header (i : Instr)
  | slots (stall : BitVec 5) (size : Nat) (l : List SlotInstr)
deriving DecidableEq, Repr

/-- A refused bundle: the cause, the WHERE code of R48 and its WORD field. -/
structure BundleReject where
  cause : Reject
  loc : Nat
  word : BitVec 32
deriving DecidableEq, Repr

/-- The slot words of a bundle in ascending slot order, the word of the k-th present slot at byte 2 + 4k (R33, R47). -/
def decodeSlots (bytes : List Byte) : Nat → List Slot → Except BundleReject (List SlotInstr)
  | _, [] => .ok []
  | off, sl :: rest =>
    let w := word32At bytes off
    match decodeSlot sl w with
    | .error r => .error ⟨r, sl.index, w⟩
    | .ok i =>
      match decodeSlots bytes (off + 4) rest with
      | .error r => .error r
      | .ok l => .ok (⟨sl, w, i⟩ :: l)

/-- The bundle at the start of `bytes`, the bytes from its address to the end of its 64-byte line: line framing first,
then the header, then each slot word (R34, R47). -/
def decodeBundle (bytes : List Byte) : Except BundleReject Bundle :=
  let h : BitVec 16 := byteAt bytes 1 ++ byteAt bytes 0
  if bytes.length < bundleSize (h.extractLsb' 0 8) then .error ⟨.illegalOp, 9, 0⟩
  else
    match decodeHeader h with
    | .error r => .error ⟨r, 8, 0#16 ++ h⟩
    | .ok hd =>
      if hd.pres == 0 then
        .ok (.header (if hd.pad then .paddingHeader hd.stall else .noOpBundle hd.stall))
      else
        match decodeSlots bytes 2 (presentSlots hd.pres) with
        | .error r => .error r
        | .ok l => .ok (.slots hd.stall (bundleSize hd.pres) l)

/-- The word of a slot instruction with its opcode space, field by field from bit 31 down (R40 and the entries).
`none` for a header and for a step of the device. -/
def encodeWord : Instr → Option (Lane × BitVec 32)
  | .noOpBundle _ => none
  | .paddingHeader _ => none
  | .add d a b =>
    some (.scalar, 1#7 ++ d ++ a ++ b ++ 0#7)
  | .addi d a i =>
    some (.scalar, 2#7 ++ d ++ a ++ i)
  | .sub d a b =>
    some (.scalar, 3#7 ++ d ++ a ++ b ++ 0#7)
  | .and d a b =>
    some (.scalar, 4#7 ++ d ++ a ++ b ++ 0#7)
  | .andi d a i =>
    some (.scalar, 5#7 ++ d ++ a ++ i)
  | .or d a b =>
    some (.scalar, 6#7 ++ d ++ a ++ b ++ 0#7)
  | .ori d a i =>
    some (.scalar, 7#7 ++ d ++ a ++ i)
  | .xor d a b =>
    some (.scalar, 8#7 ++ d ++ a ++ b ++ 0#7)
  | .xori d a i =>
    some (.scalar, 9#7 ++ d ++ a ++ i)
  | .shl d a b =>
    some (.scalar, 10#7 ++ d ++ a ++ b ++ 0#7)
  | .shli d a n =>
    some (.scalar, 11#7 ++ d ++ a ++ 0#7 ++ n)
  | .shr d a b =>
    some (.scalar, 12#7 ++ d ++ a ++ b ++ 0#7)
  | .shri d a n =>
    some (.scalar, 13#7 ++ d ++ a ++ 0#7 ++ n)
  | .sra d a b =>
    some (.scalar, 14#7 ++ d ++ a ++ b ++ 0#7)
  | .srai d a n =>
    some (.scalar, 15#7 ++ d ++ a ++ 0#7 ++ n)
  | .min d a b =>
    some (.scalar, 16#7 ++ d ++ a ++ b ++ 0#7)
  | .max d a b =>
    some (.scalar, 17#7 ++ d ++ a ++ b ++ 0#7)
  | .minn d a b =>
    some (.scalar, 18#7 ++ d ++ a ++ b ++ 0#7)
  | .maxn d a b =>
    some (.scalar, 19#7 ++ d ++ a ++ b ++ 0#7)
  | .addx d a b h =>
    some (.scalar, 20#7 ++ d ++ a ++ b ++ 0#4 ++ h)
  | .movi d i =>
    some (.scalar, 21#7 ++ d ++ i)
  | .movhi d i =>
    some (.scalar, 22#7 ++ d ++ 0#3 ++ i)
  | .bfx d a pos len1 =>
    some (.scalar, 23#7 ++ d ++ a ++ pos ++ len1 ++ 0#1)
  | .bfxs d a pos len1 =>
    some (.scalar, 24#7 ++ d ++ a ++ pos ++ len1 ++ 0#1)
  | .bfi d a pos len1 =>
    some (.scalar, 25#7 ++ d ++ a ++ pos ++ len1 ++ 0#1)
  | .clz d a =>
    some (.scalar, 26#7 ++ d ++ a ++ 0#13)
  | .ctz d a =>
    some (.scalar, 27#7 ++ d ++ a ++ 0#13)
  | .popc d a =>
    some (.scalar, 28#7 ++ d ++ a ++ 0#13)
  | .cmp pd c a b =>
    some (.scalar, 29#7 ++ pd ++ c.code ++ a ++ b ++ 0#6)
  | .cmpi pd c a i =>
    some (.scalar, 30#7 ++ pd ++ c.code ++ a ++ i)
  | .sel d a b neg q =>
    some (.scalar, 31#7 ++ d ++ a ++ b ++ 0#3 ++ BitVec.ofBool neg ++ q)
  | .plog pd pa pb tb =>
    some (.scalar, 32#7 ++ pd ++ pa ++ pb ++ tb ++ 0#12)
  | .movp d =>
    some (.scalar, 33#7 ++ d ++ 0#18 ++ 0#1)
  | .movpSet a =>
    some (.scalar, 33#7 ++ 0#6 ++ a ++ 0#12 ++ 1#1)
  | .mul d a b =>
    some (.scalar, 34#7 ++ d ++ a ++ b ++ 0#7)
  | .mulh d a b =>
    some (.scalar, 35#7 ++ d ++ a ++ b ++ 0#7)
  | .mulhn d a b =>
    some (.scalar, 36#7 ++ d ++ a ++ b ++ 0#7)
  | .div d a b =>
    some (.scalar, 37#7 ++ d ++ a ++ b ++ 0#7)
  | .divn d a b =>
    some (.scalar, 38#7 ++ d ++ a ++ b ++ 0#7)
  | .rem d a b =>
    some (.scalar, 39#7 ++ d ++ a ++ b ++ 0#7)
  | .remn d a b =>
    some (.scalar, 40#7 ++ d ++ a ++ b ++ 0#7)
  | .sfadd d a b t r =>
    some (.scalar, 41#7 ++ d ++ a ++ b ++ t.code ++ r.code)
  | .sfsub d a b t r =>
    some (.scalar, 42#7 ++ d ++ a ++ b ++ t.code ++ r.code)
  | .sfmul d a b t r =>
    some (.scalar, 43#7 ++ d ++ a ++ b ++ t.code ++ r.code)
  | .sfma d a b t r =>
    some (.scalar, 44#7 ++ d ++ a ++ b ++ t.code ++ r.code)
  | .sfmin d a b t =>
    some (.scalar, 45#7 ++ d ++ a ++ b ++ t.code ++ 0#3)
  | .sfmax d a b t =>
    some (.scalar, 46#7 ++ d ++ a ++ b ++ t.code ++ 0#3)
  | .sfcmp pd c a b t =>
    some (.scalar, 47#7 ++ pd ++ c.code ++ a ++ b ++ t.code ++ 0#2)
  | .sfcvt d a dty sty r =>
    some (.scalar, 48#7 ++ d ++ a ++ dty.code ++ 0#2 ++ sty.code ++ r.code)
  | .br q neg o =>
    some (.control, 1#7 ++ q ++ BitVec.ofBool neg ++ o)
  | .brp q neg o =>
    some (.control, 2#7 ++ q ++ BitVec.ofBool neg ++ o)
  | .jr a neg q =>
    some (.control, 3#7 ++ 0#6 ++ a ++ 0#9 ++ BitVec.ofBool neg ++ q)
  | .call q neg o =>
    some (.control, 4#7 ++ q ++ BitVec.ofBool neg ++ o)
  | .callr a neg q =>
    some (.control, 5#7 ++ 0#6 ++ a ++ 0#9 ++ BitVec.ofBool neg ++ q)
  | .ret a neg q =>
    some (.control, 6#7 ++ 0#6 ++ a ++ 0#9 ++ BitVec.ofBool neg ++ q)
  | .loop l a e =>
    some (.control, 7#7 ++ BitVec.ofBool l ++ a ++ e)
  | .loopi l n e =>
    some (.control, 8#7 ++ BitVec.ofBool l ++ n ++ e)
  | .brk i =>
    some (.control, 9#7 ++ 0#6 ++ i)
  | .movc d cr =>
    some (.control, 10#7 ++ d ++ cr ++ 0#9)
  | .movcw a cr =>
    some (.control, 11#7 ++ a ++ cr ++ 0#9)
  | .spawn a =>
    some (.control, 12#7 ++ 0#6 ++ a ++ 0#13)
  | .spawng a b =>
    some (.control, 13#7 ++ 0#6 ++ a ++ b ++ 0#7)
  | .jinit d a =>
    some (.control, 14#7 ++ d ++ a ++ 0#13)
  | .qinit a b =>
    some (.control, 15#7 ++ 0#6 ++ a ++ b ++ 0#7)
  | .jwait a =>
    some (.control, 16#7 ++ 0#6 ++ a ++ 0#12 ++ 0#1)
  | .jwaitHere a =>
    some (.control, 16#7 ++ 0#6 ++ a ++ 0#12 ++ 1#1)
  | .yield =>
    some (.control, 17#7 ++ 0#25)
  | .endTask =>
    some (.control, 18#7 ++ 0#25)
  | .hold =>
    some (.control, 19#7 ++ 0#25)
  | .unhold =>
    some (.control, 20#7 ++ 0#25)
  | .waitt a q =>
    some (.control, 21#7 ++ 0#6 ++ a ++ 0#11 ++ q.code)
  | .barg =>
    some (.control, 22#7 ++ 0#25)
  | .sysc i =>
    some (.control, 23#7 ++ 0#6 ++ i)
  | .trap i =>
    some (.control, 24#7 ++ 0#6 ++ i)
  | .rett a b =>
    some (.control, 25#7 ++ 0#6 ++ a ++ b ++ 0#6 ++ 0#1)
  | .rettSkip a b =>
    some (.control, 25#7 ++ 0#6 ++ a ++ b ++ 0#6 ++ 1#1)
  | .sleepCg =>
    some (.control, 26#7 ++ 0#23 ++ 0#2)
  | .sleepRetain =>
    some (.control, 26#7 ++ 0#23 ++ 1#2)
  | .sleepOff =>
    some (.control, 26#7 ++ 0#23 ++ 2#2)
  | .wake a =>
    some (.control, 27#7 ++ 0#6 ++ a ++ 0#13)
  | .ckpt d =>
    some (.control, 28#7 ++ d ++ 0#19)
  | .savex d =>
    some (.control, 29#7 ++ d ++ 0#19)
  | .restx a =>
    some (.control, 30#7 ++ 0#6 ++ a ++ 0#11 ++ 0#2)
  | .restxKeep a =>
    some (.control, 30#7 ++ 0#6 ++ a ++ 0#11 ++ 1#2)
  | .restxDrop a =>
    some (.control, 30#7 ++ 0#6 ++ a ++ 0#11 ++ 2#2)
  | .tlbinvPage a b sc =>
    some (.control, 31#7 ++ 0#6 ++ a ++ b ++ 0#2 ++ 0#2 ++ sc.code)
  | .tlbinvAsid b sc =>
    some (.control, 31#7 ++ 0#12 ++ b ++ 0#2 ++ 1#2 ++ sc.code)
  | .tlbinvAll sc =>
    some (.control, 31#7 ++ 0#20 ++ 2#2 ++ sc.code)
  | .icinv sc =>
    some (.control, 32#7 ++ 0#22 ++ sc.code)
  | .abort =>
    some (.control, 33#7 ++ 0#25)
  | .ld spc d b z x o =>
    some (.memory, 1#7 ++ spc.code ++ d ++ b ++ z.code ++ BitVec.ofBool x ++ o)
  | .st spc d b z o =>
    some (.memory, 2#7 ++ spc.code ++ d ++ b ++ z.code ++ 0#1 ++ o)
  | .ldx spc d b i z x scl =>
    some (.memory, 3#7 ++ spc.code ++ d ++ b ++ i ++ z.code ++ BitVec.ofBool x ++ 0#1 ++ BitVec.ofBool scl)
  | .stx spc d b i z scl =>
    some (.memory, 4#7 ++ spc.code ++ d ++ b ++ i ++ z.code ++ 0#2 ++ BitVec.ofBool scl)
  | .vld spc d b o =>
    some (.memory, 5#7 ++ spc.code ++ 0#1 ++ d ++ b ++ o)
  | .vst spc d b o =>
    some (.memory, 6#7 ++ spc.code ++ 0#1 ++ d ++ b ++ o)
  | .vlds spc d b i z mk =>
    some (.memory, 7#7 ++ spc.code ++ 0#1 ++ d ++ b ++ i ++ z.code ++ 0#1 ++ mk)
  | .vsts spc d b i z mk =>
    some (.memory, 8#7 ++ spc.code ++ 0#1 ++ d ++ b ++ i ++ z.code ++ 0#1 ++ mk)
  | .vldx spc d b i z scl mk =>
    some (.memory, 9#7 ++ spc.code ++ 0#1 ++ d ++ b ++ 0#1 ++ i ++ z.code ++ BitVec.ofBool scl ++ mk)
  | .vstx spc d b i z scl mk =>
    some (.memory, 10#7 ++ spc.code ++ 0#1 ++ d ++ b ++ 0#1 ++ i ++ z.code ++ BitVec.ofBool scl ++ mk)
  | .vldd d k i mk =>
    some (.memory, 11#7 ++ 0#3 ++ d ++ k ++ i ++ 0#4 ++ mk)
  | .vstd d k i mk =>
    some (.memory, 12#7 ++ 0#3 ++ d ++ k ++ i ++ 0#4 ++ mk)
  | .ldfe spc d b z o =>
    some (.memory, 13#7 ++ spc.code ++ d ++ b ++ z.code ++ 0#1 ++ o)
  | .ldfeV spc d b z o =>
    some (.memory, 13#7 ++ spc.code ++ 0#1 ++ d ++ b ++ z.code ++ 1#1 ++ o)
  | .ldfec spc d b z o =>
    some (.memory, 14#7 ++ spc.code ++ d ++ b ++ z.code ++ 0#1 ++ o)
  | .ldfecV spc d b z o =>
    some (.memory, 14#7 ++ spc.code ++ 0#1 ++ d ++ b ++ z.code ++ 1#1 ++ o)
  | .stfe spc d b z o =>
    some (.memory, 15#7 ++ spc.code ++ d ++ b ++ z.code ++ 0#1 ++ o)
  | .stfeV spc d b z o =>
    some (.memory, 15#7 ++ spc.code ++ 0#1 ++ d ++ b ++ z.code ++ 1#1 ++ o)
  | .feset spc b i =>
    some (.memory, 16#7 ++ spc.code ++ 0#6 ++ b ++ i ++ 0#5)
  | .feclr spc b i =>
    some (.memory, 17#7 ++ spc.code ++ 0#6 ++ b ++ i ++ 0#5)
  | .amo spc d b f sc z o =>
    some (.memory, 18#7 ++ spc.code ++ d ++ b ++ f.code ++ sc.code ++ z.code ++ o.code)
  | .amof spc d b f sc z o =>
    some (.memory, 19#7 ++ spc.code ++ d ++ b ++ f.code ++ sc.code ++ z.code ++ o.code)
  | .cas spc d b sc z o =>
    some (.memory, 20#7 ++ spc.code ++ d ++ b ++ 0#4 ++ sc.code ++ z.code ++ o.code)
  | .vamo spc d b f sc z o =>
    some (.memory, 21#7 ++ spc.code ++ 0#1 ++ d ++ b ++ f.code ++ sc.code ++ z.code ++ o.code)
  | .fence sc o =>
    some (.memory, 22#7 ++ 0#18 ++ sc.code ++ 0#2 ++ o.code)
  | .stp spc d b z o =>
    some (.memory, 23#7 ++ spc.code ++ d ++ b ++ z.code ++ 0#1 ++ o)
  | .vstp spc d b o =>
    some (.memory, 24#7 ++ spc.code ++ 0#1 ++ d ++ b ++ o)
  | .contrib d i n =>
    some (.memory, 25#7 ++ 0#3 ++ d ++ 0#4 ++ i ++ n)
  | .pipep d n =>
    some (.memory, 26#7 ++ 0#3 ++ d ++ 0#13 ++ n)
  | .pipeg d n =>
    some (.memory, 27#7 ++ 0#3 ++ d ++ 0#13 ++ n)
  | .pref spc dc b o =>
    some (.memory, 28#7 ++ spc.code ++ 0#5 ++ BitVec.ofBool dc ++ b ++ o)
  | .vpark d j c =>
    some (.memory, 29#7 ++ 0#3 ++ d ++ 0#8 ++ j ++ c)
  | .vunpark d rel j c =>
    some (.memory, 30#7 ++ 0#3 ++ d ++ 0#6 ++ BitVec.ofBool rel ++ 0#1 ++ j ++ c)
  | .dset d k f =>
    some (.memory, 31#7 ++ 0#2 ++ d ++ k ++ 0#6 ++ 0#1 ++ f)
  | .dsetImg spc d k =>
    some (.memory, 31#7 ++ spc.code ++ d ++ k ++ 0#6 ++ 1#1 ++ 0#6)
  | .dget d k f =>
    some (.memory, 32#7 ++ 0#2 ++ d ++ k ++ 0#6 ++ 0#1 ++ f)
  | .dgetImg spc d k =>
    some (.memory, 32#7 ++ spc.code ++ d ++ k ++ 0#6 ++ 1#1 ++ 0#6)
  | .vadd d a b t mk g bc =>
    some (.vector, 1#7 ++ d ++ a ++ b ++ t.code ++ mk ++ BitVec.ofBool bc ++ g.code)
  | .vsub d a b t mk g bc =>
    some (.vector, 2#7 ++ d ++ a ++ b ++ t.code ++ mk ++ BitVec.ofBool bc ++ g.code)
  | .vadds d a b t mk g bc =>
    some (.vector, 3#7 ++ d ++ a ++ b ++ t.code ++ mk ++ BitVec.ofBool bc ++ g.code)
  | .vsubs d a b t mk g bc =>
    some (.vector, 4#7 ++ d ++ a ++ b ++ t.code ++ mk ++ BitVec.ofBool bc ++ g.code)
  | .vmul d a b t mk g bc =>
    some (.vector, 5#7 ++ d ++ a ++ b ++ t.code ++ mk ++ BitVec.ofBool bc ++ g.code)
  | .vmulh d a b t mk g bc =>
    some (.vector, 6#7 ++ d ++ a ++ b ++ t.code ++ mk ++ BitVec.ofBool bc ++ g.code)
  | .vmulw d a b t mk bc =>
    some (.vector, 7#7 ++ d ++ a ++ b ++ t.code ++ mk ++ BitVec.ofBool bc ++ 0#2)
  | .vmac d a b t mk g bc =>
    some (.vector, 8#7 ++ d ++ a ++ b ++ t.code ++ mk ++ BitVec.ofBool bc ++ g.code)
  | .vmacw d a b t mk bc =>
    some (.vector, 9#7 ++ d ++ a ++ b ++ t.code ++ mk ++ BitVec.ofBool bc ++ 0#2)
  | .vabsd d a b t mk g bc =>
    some (.vector, 10#7 ++ d ++ a ++ b ++ t.code ++ mk ++ BitVec.ofBool bc ++ g.code)
  | .vavg d a b t mk g bc =>
    some (.vector, 11#7 ++ d ++ a ++ b ++ t.code ++ mk ++ BitVec.ofBool bc ++ g.code)
  | .vmin d a b t mk g bc =>
    some (.vector, 12#7 ++ d ++ a ++ b ++ t.code ++ mk ++ BitVec.ofBool bc ++ g.code)
  | .vmax d a b t mk g bc =>
    some (.vector, 13#7 ++ d ++ a ++ b ++ t.code ++ mk ++ BitVec.ofBool bc ++ g.code)
  | .vand d a b t mk g bc =>
    some (.vector, 14#7 ++ d ++ a ++ b ++ t.code ++ mk ++ BitVec.ofBool bc ++ g.code)
  | .vor d a b t mk g bc =>
    some (.vector, 15#7 ++ d ++ a ++ b ++ t.code ++ mk ++ BitVec.ofBool bc ++ g.code)
  | .vxor d a b t mk g bc =>
    some (.vector, 16#7 ++ d ++ a ++ b ++ t.code ++ mk ++ BitVec.ofBool bc ++ g.code)
  | .vandn d a b t mk g bc =>
    some (.vector, 17#7 ++ d ++ a ++ b ++ t.code ++ mk ++ BitVec.ofBool bc ++ g.code)
  | .vshl d a b t mk g bc =>
    some (.vector, 18#7 ++ d ++ a ++ b ++ t.code ++ mk ++ BitVec.ofBool bc ++ g.code)
  | .vshr d a b t mk g bc =>
    some (.vector, 19#7 ++ d ++ a ++ b ++ t.code ++ mk ++ BitVec.ofBool bc ++ g.code)
  | .vsra d a b t mk g bc =>
    some (.vector, 20#7 ++ d ++ a ++ b ++ t.code ++ mk ++ BitVec.ofBool bc ++ g.code)
  | .vclz d a t mk g =>
    some (.vector, 21#7 ++ d ++ a ++ 0#5 ++ t.code ++ mk ++ 0#1 ++ g.code)
  | .vpopc d a t mk g =>
    some (.vector, 22#7 ++ d ++ a ++ 0#5 ++ t.code ++ mk ++ 0#1 ++ g.code)
  | .vcmp c d a b t mk =>
    some (.vector, 23#7 ++ 0#1 ++ c.code.extractLsb' 3 1 ++ d ++ a ++ b ++ t.code ++ mk ++ c.code.extractLsb' 0 3)
  | .vsel d a b t mk g bc =>
    some (.vector, 24#7 ++ d ++ a ++ b ++ t.code ++ mk ++ BitVec.ofBool bc ++ g.code)
  | .vfadd d a b t mk r =>
    some (.vector, 25#7 ++ d ++ a ++ b ++ t.code ++ mk ++ r.code)
  | .vfsub d a b t mk r =>
    some (.vector, 26#7 ++ d ++ a ++ b ++ t.code ++ mk ++ r.code)
  | .vfmul d a b t mk r =>
    some (.vector, 27#7 ++ d ++ a ++ b ++ t.code ++ mk ++ r.code)
  | .vfma d a b t mk r =>
    some (.vector, 28#7 ++ d ++ a ++ b ++ t.code ++ mk ++ r.code)
  | .vfmin d a b t mk =>
    some (.vector, 29#7 ++ d ++ a ++ b ++ t.code ++ mk ++ 0#3)
  | .vfmax d a b t mk =>
    some (.vector, 30#7 ++ d ++ a ++ b ++ t.code ++ mk ++ 0#3)
  | .vfsgn d a b t mk f =>
    some (.vector, 31#7 ++ d ++ a ++ b ++ t.code ++ mk ++ 0#1 ++ f.code)
  | .vfcmp c d a b t mk =>
    some (.vector, 32#7 ++ 0#1 ++ c.code.extractLsb' 3 1 ++ d ++ a ++ b ++ t.code ++ mk ++ c.code.extractLsb' 0 3)
  | .vfclass d a t mk =>
    some (.vector, 33#7 ++ d ++ a ++ 0#5 ++ t.code ++ mk ++ 0#3)
  | .vcvt d a sty t mk r =>
    some (.vector, 34#7 ++ d ++ a ++ 0#1 ++ sty.code ++ t.code ++ mk ++ r.code)
  | .vcvtRes d a sty t q r =>
    some (.vector, 34#7 ++ d ++ a ++ 1#1 ++ sty.code ++ t.code ++ 0#1 ++ q ++ r.code)
  | .vpack d a t mk sat x =>
    some (.vector, 35#7 ++ d ++ a ++ 0#5 ++ t.code ++ mk ++ BitVec.ofBool sat ++ x.code)
  | .vunpack d a t mk x =>
    some (.vector, 36#7 ++ d ++ a ++ 0#5 ++ t.code ++ mk ++ 0#1 ++ x.code)
  | .vperm d a b t mk =>
    some (.vector, 37#7 ++ d ++ a ++ b ++ t.code ++ mk ++ 0#3)
  | .vperm2 d a b t mk =>
    some (.vector, 38#7 ++ d ++ a ++ b ++ t.code ++ mk ++ 0#3)
  | .vslide d a s t mk up =>
    some (.vector, 39#7 ++ d ++ a ++ s ++ t.code ++ mk ++ 0#1 ++ BitVec.ofBool up)
  | .vrot d a s t mk up =>
    some (.vector, 40#7 ++ d ++ a ++ s ++ t.code ++ mk ++ 0#1 ++ BitVec.ofBool up)
  | .vbcast d s t mk =>
    some (.vector, 41#7 ++ d ++ 0#5 ++ s ++ t.code ++ mk ++ 0#1 ++ 0#1)
  | .vbcastEl d a s t mk =>
    some (.vector, 41#7 ++ d ++ a ++ s ++ t.code ++ mk ++ 0#1 ++ 1#1)
  | .vextr k a s t =>
    some (.vector, 42#7 ++ k.extractLsb' 5 5 ++ a ++ s ++ t.code ++ k.extractLsb' 0 5)
  | .vins d k s t =>
    some (.vector, 43#7 ++ d ++ k.extractLsb' 5 5 ++ s ++ t.code ++ k.extractLsb' 0 5)
  | .viota d t mk =>
    some (.vector, 44#7 ++ d ++ 0#10 ++ t.code ++ mk ++ 0#2 ++ 0#1)
  | .viotaIdx d t =>
    some (.vector, 44#7 ++ d ++ 0#10 ++ t.code ++ 0#5 ++ 1#1)
  | .vcompress d a t mk =>
    some (.vector, 45#7 ++ d ++ a ++ 0#5 ++ t.code ++ mk ++ 0#3)
  | .vexpand d a t mk =>
    some (.vector, 46#7 ++ d ++ a ++ 0#5 ++ t.code ++ mk ++ 0#3)
  | .vmov d a t mk g bc =>
    some (.vector, 47#7 ++ d ++ a ++ 0#5 ++ t.code ++ mk ++ BitVec.ofBool bc ++ g.code)
  | .vzip d a b t =>
    some (.vector, 48#7 ++ d ++ a ++ b ++ t.code ++ 0#6)
  | .vunzip d a t =>
    some (.vector, 49#7 ++ d ++ a ++ 0#5 ++ t.code ++ 0#6)
  | .mlog d a b tb =>
    some (.vector, 50#7 ++ 0#2 ++ d ++ 0#2 ++ a ++ 0#2 ++ b ++ tb ++ 0#6)
  | .mpopc a s t mk =>
    some (.vector, 51#7 ++ 0#7 ++ a ++ s ++ t.code ++ mk ++ 0#2)
  | .mfirst a s t mk last =>
    some (.vector, 52#7 ++ 0#7 ++ a ++ s ++ t.code ++ mk ++ 0#1 ++ BitVec.ofBool last)
  | .mfromNz d a t mk =>
    some (.vector, 53#7 ++ 0#2 ++ d ++ a ++ 0#6 ++ t.code ++ mk ++ 0#2)
  | .mfromPre d s t mk =>
    some (.vector, 53#7 ++ 0#2 ++ d ++ 0#5 ++ s ++ t.code ++ mk ++ 1#2)
  | .mfromSuf d s t mk =>
    some (.vector, 53#7 ++ 0#2 ++ d ++ 0#5 ++ s ++ t.code ++ mk ++ 2#2)
  | .vexp2 d a t mk =>
    some (.vector, 54#7 ++ d ++ a ++ 0#5 ++ t.code ++ mk ++ 0#3)
  | .vlog2 d a t mk =>
    some (.vector, 55#7 ++ d ++ a ++ 0#5 ++ t.code ++ mk ++ 0#3)
  | .vrcp d a t mk =>
    some (.vector, 56#7 ++ d ++ a ++ 0#5 ++ t.code ++ mk ++ 0#3)
  | .vrsqrt d a t mk =>
    some (.vector, 57#7 ++ d ++ a ++ 0#5 ++ t.code ++ mk ++ 0#3)
  | .vsqrt d a t mk =>
    some (.vector, 58#7 ++ d ++ a ++ 0#5 ++ t.code ++ mk ++ 0#3)
  | .vsincos d a t mk cs =>
    some (.vector, 59#7 ++ d ++ a ++ 0#5 ++ t.code ++ mk ++ 0#2 ++ BitVec.ofBool cs)
  | .vtanh d a t mk =>
    some (.vector, 60#7 ++ d ++ a ++ 0#5 ++ t.code ++ mk ++ 0#3)
  | .redSum q a t mk sq =>
    some (.vector, 61#7 ++ 0#3 ++ q ++ a ++ 0#5 ++ t.code ++ mk ++ (if sq then 3#3 else 0#3))
  | .redMax q a b t mk mn =>
    some (.vector, 61#7 ++ 0#3 ++ q ++ a ++ b ++ t.code ++ mk ++ (if mn then 2#3 else 1#3))
  | .redmvGet q s t =>
    some (.vector, 62#7 ++ 0#3 ++ q ++ 0#5 ++ s ++ t.code ++ 0#3 ++ 0#2)
  | .redmvIdx q s =>
    some (.vector, 62#7 ++ 0#3 ++ q ++ 0#5 ++ s ++ 0#7 ++ 1#2)
  | .redmvAdd q qa =>
    some (.vector, 62#7 ++ 0#3 ++ q ++ 0#3 ++ qa ++ 0#13 ++ 2#2)
  | .redmvSet q s =>
    some (.vector, 62#7 ++ 0#3 ++ q ++ 0#5 ++ s ++ 0#7 ++ 3#2)
  | .redclr l v =>
    some (.vector, 63#7 ++ 0#1 ++ l ++ 0#18 ++ v.code)
  | .vcvtsxTo d a t mk f =>
    some (.vector, 64#7 ++ d ++ a ++ 0#5 ++ t.code ++ mk ++ 0#1 ++ f.code)
  | .vcvtsxFrom d a h t mk f =>
    some (.vector, 64#7 ++ d ++ a ++ 0#4 ++ BitVec.ofBool h ++ t.code ++ mk ++ 1#1 ++ f.code)
  | .vmatch d a b t mk part =>
    some (.vector, 65#7 ++ 0#2 ++ d ++ a ++ b ++ t.code ++ mk ++ 0#2 ++ BitVec.ofBool part)
  | .mshape bands =>
    some (.matrix, 1#7 ++ 0#21 ++ bands)
  | .mldw l k s =>
    some (.matrix, 2#7 ++ 0#3 ++ l ++ k ++ 0#2 ++ 0#2 ++ s ++ 0#7)
  | .mldwExpand l k j s g n =>
    some (.matrix, 2#7 ++ 0#3 ++ l ++ k ++ 1#2 ++ j ++ s ++ 0#3 ++ g ++ n)
  | .mma c l k s acc =>
    some (.matrix, 3#7 ++ c ++ l ++ k ++ 0#2 ++ 0#2 ++ s ++ 0#6 ++ BitVec.ofBool acc)
  | .mmaAbsorb c l k j s n acc =>
    some (.matrix, 3#7 ++ c ++ l ++ k ++ 2#2 ++ j ++ s ++ 0#4 ++ n ++ BitVec.ofBool acc)
  | .mzero c =>
    some (.matrix, 4#7 ++ c ++ 0#22)
  | .mdrain c k s relu sat r =>
    some (.matrix, 5#7 ++ c ++ 0#1 ++ k ++ 0#4 ++ s ++ 0#2 ++ BitVec.ofBool relu ++ BitVec.ofBool sat ++ r.code)
  | .msync =>
    some (.matrix, 6#7 ++ 0#25)
  | .cpy tk da db =>
    some (.engine, 1#7 ++ tk ++ da ++ db ++ 0#10 ++ 0#1)
  | .cpyPeer tk da db s =>
    some (.engine, 1#7 ++ tk ++ da ++ db ++ s ++ 0#4 ++ 1#1)
  | .cpym tk da db s =>
    some (.engine, 2#7 ++ tk ++ da ++ db ++ s ++ 0#5)
  | .gath tk da s dat flt =>
    some (.engine, 3#7 ++ tk ++ da ++ 0#4 ++ s ++ 0#2 ++ BitVec.ofBool dat ++ BitVec.ofBool flt ++ 0#1)
  | .gathList tk da db s dat flt =>
    some (.engine, 3#7 ++ tk ++ da ++ db ++ s ++ 0#2 ++ BitVec.ofBool dat ++ BitVec.ofBool flt ++ 1#1)
  | .kvput tk db s =>
    some (.engine, 4#7 ++ tk ++ 0#4 ++ db ++ s ++ 0#5)
  | .kvalloc tk s =>
    some (.engine, 5#7 ++ tk ++ 0#8 ++ s ++ 0#5)
  | .kvgrow tk s =>
    some (.engine, 6#7 ++ tk ++ 0#8 ++ s ++ 0#5)
  | .kvfree tk s =>
    some (.engine, 7#7 ++ tk ++ 0#8 ++ s ++ 0#5)
  | .coll tk da db s o =>
    some (.engine, 8#7 ++ tk ++ da ++ db ++ s ++ 0#2 ++ o.code)
  | .strm tk da db =>
    some (.engine, 9#7 ++ tk ++ da ++ db ++ 0#10 ++ 0#1)
  | .strmTag tk da db =>
    some (.engine, 9#7 ++ tk ++ da ++ db ++ 0#10 ++ 1#1)
  | .steepld f s ms =>
    some (.engine, 10#7 ++ 0#10 ++ f.code ++ s ++ 0#1 ++ ms)
  | .mupdBegin tk s =>
    some (.engine, 11#7 ++ tk ++ 0#8 ++ s ++ 0#3 ++ 0#2)
  | .mupdWrite tk db s =>
    some (.engine, 11#7 ++ tk ++ 0#4 ++ db ++ s ++ 0#3 ++ 1#2)
  | .mupdCommit tk s =>
    some (.engine, 11#7 ++ tk ++ 0#8 ++ s ++ 0#3 ++ 2#2)
  | .mupdAbort tk s =>
    some (.engine, 11#7 ++ tk ++ 0#8 ++ s ++ 0#3 ++ 3#2)
  | .engqStat d s q =>
    some (.engine, 12#7 ++ d ++ 0#8 ++ s ++ 0#3 ++ q.code)
  | .engqVmask d s q =>
    some (.engine, 12#7 ++ d ++ 0#8 ++ s ++ 1#3 ++ q.code)
  | .engqDepth d q =>
    some (.engine, 12#7 ++ d ++ 0#14 ++ 2#3 ++ q.code)
  | .engqLast d q =>
    some (.engine, 12#7 ++ d ++ 0#14 ++ 3#3 ++ q.code)
  | .resultWriteback _ => none
  | .asyncCauseTaken _ => none
  | .feTagOperation _ => none
  | .feTimeout _ => none
  | .pipeWaitComplete _ => none
  | .pipeTimeout _ => none
  | .barrierEpisodeComplete _ _ => none
  | .gangYieldRendezvous _ _ => none
  | .holdOverrun _ => none
  | .engineCommandStart _ _ => none
  | .engineCommandComplete _ _ => none
  | .kvMapCommand _ _ => none
  | .kvgrowChunkMove _ => none
  | .strmTagTimeout _ => none
  | .collectiveAllArrived _ => none
  | .collectiveTimeout _ => none
  | .mmaRowCommit _ => none
  | .mldwLatchLoaded _ _ => none
  | .mdrainComplete _ => none
  | .steepldSlotLoaded _ => none
  | .bandIdleGate _ _ => none
  | .bandWakeComplete _ _ => none
  | .parknextRead _ => none
  | .parkansRetry _ _ => none
  | .parkansFail _ _ => none
  | .parkTimeout _ _ => none
  | .spawnJoinCheck _ => none
  | .spawnCheckReturn _ => none
  | .spawnRecordEnqueue _ => none
  | .joinEndArrival _ => none
  | .graceExpiry _ => none
  | .killNotice _ => none
  | .killTaken _ => none
  | .agingStep _ _ => none
  | .steal _ => none
  | .gangReservation _ => none
  | .quantumExpiry _ => none
  | .deepPreemption _ => none
  | .quotaStopTimeout _ => none
  | .quotaCharge _ _ => none
  | .quotaRefill _ => none
  | .boostEdge _ => none
  | .frequencyRequest _ _ => none
  | .railStep _ => none
  | .thermalCapStep _ _ => none
  | .overCurrent _ => none
  | .idleTargetReached _ => none
  | .tileWakeComplete _ => none
  | .notify _ _ => none
  | .launchRecordFetch _ => none
  | .stampRefetch _ => none
  | .cqhead _ _ => none
  | .contextActivate _ => none
  | .contextEnd _ => none
  | .contextEndComplete _ => none
  | .segmentOwnerWrite _ _ _ => none
  | .segmentZeroComplete _ _ => none
  | .caddyRegionWrite _ _ _ _ => none
  | .controlRegionWrite _ _ => none
  | .hostApertureAccess _ _ => none
  | .peerWriteInbound _ _ _ => none
  | .attestationGo => none
  | .pwrcmdWarmOff => none
  | .pwrcmdColdOff => none
  | .powerFailWarning => none
  | .peatSave _ => none
  | .modulePowerDown _ => none
  | .powerRestore => none
  | .channelTrained _ => none
  | .clusterReady _ => none
  | .cdwrReady _ => none
  | .tileResume _ => none
  | .mupdComplete _ => none
  | .retrainWindowStart _ => none
  | .retrainWindowEnd _ _ => none
  | .ageingReplan _ _ _ => none
  | .timingStretch _ => none
  | .marginVoltageRaise _ => none
  | .caddyPatrol _ _ _ => none
  | .writeReachesHome _ _ => none
  | .yaltanLinkFailure _ => none
  | .yaltanLinkReady _ => none

/-- The two bytes of a 16-bit value, low byte first (R1). -/
def bytesOf16 (h : BitVec 16) : List Byte := [h.extractLsb' 0 8, h.extractLsb' 8 8]

/-- The four bytes of a 32-bit word, low byte first (R1). -/
def bytesOf32 (w : BitVec 32) : List Byte :=
  [w.extractLsb' 0 8, w.extractLsb' 8 8, w.extractLsb' 16 8, w.extractLsb' 24 8]

/-- The header of a bundle with one slot and no stall (R32). -/
def headerOf (sl : Slot) : BitVec 16 := 0#8 ++ (1#8 <<< sl.index)

/-- The bytes of the bundle that holds a slot word alone (R33). -/
def bundleBytes (sl : Slot) (w : BitVec 32) : List Byte := bytesOf16 (headerOf sl) ++ bytesOf32 w

/-- The bytes of an instruction: a header's own two, or a bundle with the one slot word; none for a step of the device,
which has no encoding. -/
def encode : Instr → Option (List Byte)
  | .noOpBundle stall => some (bytesOf16 (0#3 ++ stall ++ 0#8))
  | .paddingHeader stall => some (bytesOf16 (1#3 ++ stall ++ 0#8))
  | i => (encodeWord i).map fun p => bundleBytes p.1.slot p.2

/-- The first of two decodings that succeeds. -/
def firstOk : Except Reject Instr → Option Instr → Option Instr
  | .ok i, _ => some i
  | .error _, o => o

/-- The instruction of a 32-bit table word. The table does not say which opcode space a word belongs to, and the spaces
share their opcodes: the spaces are tried from the one with the fewest opcodes up (log entry 2). -/
def decodeAnyLane (w : BitVec 32) : Option Instr :=
  firstOk (decodeMatrix w) <| firstOk (decodeEngine w) <| firstOk (decodeControl w) <| firstOk (decodeMemory w) <|
    firstOk (decodeScalar true w) <| firstOk (decodeVector true w) none

/-- The slot that holds a 32-bit table word: that of the space `decodeAnyLane` reads it in. -/
def tableSlot (w : BitVec 32) : Slot :=
  if (decodeMatrix w).toOption.isSome then .x
  else if (decodeEngine w).toOption.isSome then .e
  else if (decodeControl w).toOption.isSome then .c
  else if (decodeMemory w).toOption.isSome then .m
  else if (decodeScalar true w).toOption.isSome then .s1
  else .v1

/-- The bytes that place a table word before the machine: a header as it stands, a slot word behind the header of the
bundle that holds it alone. -/
def tableBytes (nbits w : Nat) : List Byte :=
  if nbits ≤ 16 then bytesOf16 (BitVec.ofNat 16 w)
  else bundleBytes (tableSlot (BitVec.ofNat 32 w)) (BitVec.ofNat 32 w)

/-- The one instruction of a bundle: a header without slots, or the only slot. -/
def Bundle.only : Bundle → Option Instr
  | .header i => some i
  | .slots _ _ [x] => some x.instr
  | .slots _ _ _ => none

/-- The instruction the decoder reads from a word numbered as the opcode table numbers it. -/
def decodeTableWord (nbits w : Nat) : Option Instr :=
  match decodeBundle (tableBytes nbits w) with
  | .ok b => b.only
  | .error _ => none

end Sys2Proof
end

