-- ==== Sys2Proof/Machine/State.lean ====
section
/-! DEFINITION. The state of the machine as plain data, its reasons to stop, and the state after reset. -/

namespace Sys2Proof.Machine

/-! ### The registers of a task (R18) -/

/-- A reduction latch: an A56 value and an index (R18). -/
structure RedLatch where
  value : BitVec 56
  index : BitVec 32
deriving DecidableEq, Repr

/-- A hardware loop: count, start and end (R26, R81). -/
structure LoopRegs where
  lc : BitVec 32
  ls : Addr48
  le : Addr48
deriving DecidableEq, Repr

/-- One fault bank: cause word, data address, bundle address (R26, R374). -/
structure FaultBank where
  cause : Word
  addr : Word
  pc : Word
deriving DecidableEq, Repr

/-- The task-scoped control registers of R26 that are not views of other state. -/
structure Ctl where
  /-- `TASK` (0x000). -/
  task : Word
  /-- `CTX`.CTXN. -/
  ctxn : CtxNo
  /-- `CTX`.ASID. -/
  asid : BitVec 7
  /-- `CTX`.SYS. -/
  sys : Bool
  /-- `CTX`.HND. -/
  hnd : Bool
  /-- `PRIO` (0x003). -/
  prio : BitVec 6
  /-- The depth field of `HOLD`. -/
  holdDepth : BitVec 3
  /-- The ns left on the hold timer, the upper word of `HOLD`. -/
  holdLeft : BitVec 32
  /-- `RMODE`.ARITH. -/
  rArith : BitVec 2
  /-- `RMODE`.CVT. -/
  rCvt : BitVec 3
  /-- `FPFLAGS` (0x009). -/
  fpflags : BitVec 6
  /-- Bit 0 of `SBCHK`. -/
  sbchk : Bool
  /-- `SRSEED` (0x00B). -/
  srseed : BitVec 32
  /-- `OOBADDR` (0x010). -/
  oobAddr : BitVec 32
  /-- `OOBFLAG`.FLAG. -/
  oobFlag : Bool
  /-- `OOBFLAG`.WR. -/
  oobWr : Bool
  /-- `FCAUSE`, `FADDR`, `FPC`. -/
  bank1 : FaultBank
  /-- `FCAUSE2`, `FADDR2`, `FPC2`. -/
  bank2 : FaultBank
  /-- `ASHAPE`. -/
  ashape : BitVec 4
  /-- `MXPROG`.ACT, ACC and ROWS. -/
  mxAct : Bool
  mxAcc : BitVec 3
  mxRows : BitVec 7
  /-- `PERSB`, `PERSL` and `LIVEV`. -/
  persb : BitVec 21
  persl : BitVec 17
  livev : BitVec 32
  /-- The outer (0) and inner (1) hardware loops. -/
  loop0 : LoopRegs
  loop1 : LoopRegs
  /-- `QJOIN`. -/
  qjoin : BitVec 32
  /-- `QMEMB`: member index and F32 weight. -/
  qmembIx : BitVec 6
  qmembWt : BitVec 32
  /-- `QFRAME`: base and size. -/
  qframeBase : BitVec 21
  qframeSize : BitVec 16
deriving DecidableEq, Repr

/-- The registers of a task (R18). -/
structure Regs where
  s : Vector Word 64
  p : BitVec 8
  v : Vector VWord 32
  m : Vector MWord 8
  q : Vector RedLatch 4
  c : Vector AccWord 8
  d : Vector Desc 16
  pc : Addr48
  ctl : Ctl
deriving DecidableEq, Repr

/-! ### The issue of one bundle -/

/-- How far a slot of the bundle being issued got. -/
inductive Mark where
  /-- It has executed. -/
  | done
  /-- It waits on a busy resource: the bundle has not issued (R22, R37). -/
  | wait
  /-- It raised a cause at issue: no slot takes effect (R373). -/
  | issueTrap
deriving DecidableEq, Repr

/-- A fault on its way to a bank: the fields of R374 and the two addresses of R373. -/
structure TrapRec where
  cause : BitVec 8
  sub : BitVec 8
  slot : BitVec 4
  replay : Bool
  step : Bool
  addr : Word
  pc : Word
deriving DecidableEq, Repr

/-- Where control goes after a bundle: the next bundle, and the loop counts it sets (R36, R82). -/
structure Flow where
  next : Addr48
  lc0 : Option (BitVec 32)
  lc1 : Option (BitVec 32)
deriving DecidableEq, Repr

/-- The slot of the next bundle that alone issues after a `RETT` with REPLAY, and, where the bundle had issued before,
where control goes on after it (R382). -/
structure Replay where
  slot : Nat
  flow : Option Flow
deriving DecidableEq, Repr

/-- What a bundle left behind when the cause of one of its instructions was taken: the mode and address of the bundle, and
where control goes on once the instruction has been replayed (R373, R382). -/
structure Owed where
  hnd : Bool
  pc : Addr48
  flow : Flow
deriving DecidableEq, Repr

/-- What the issue of a bundle keeps while its slots execute. -/
structure Issue where
  /-- The registers as every slot reads them, before any slot of the bundle writes (R21). -/
  src : Option Regs
  /-- The slot being executed, and its word. -/
  slot : Nat
  word : BitVec 32
  /-- The size of the bundle in bytes. -/
  size : Nat
  mark : Mark
  /-- The target of a taken transfer (R36). -/
  npc : Option Addr48
  /-- The flags of `FPFLAGS` that slots of this bundle set (R21, R195). -/
  raised : List (Nat × BitVec 6)
  /-- The first scratchpad offence of this bundle, whether it was a write, and whether the C slot made it (R21, R29). -/
  oob : Option (BitVec 32 × Bool × Bool)
  /-- A cause raised in execution, taken once the other slots have taken effect (R373). -/
  pend : Option TrapRec
  /-- The loop counts a `MOVCW` or a `LOOP` of this bundle has written (R82). -/
  wroteLc0 : Bool
  wroteLc1 : Bool
  /-- The bundle repeats one slot for a `RETT`, and where control goes on after it if that is known (R382). -/
  replay : Bool
  flow : Option Flow
  /-- The place in the order of issue of an instruction that is tried again (R108). -/
  order : Option Nat
deriving DecidableEq, Repr

/-- The memory an instruction accesses, with its ordering edges (R108, R111): its bytes by space, address and length. -/
structure MemAcc where
  els : List (Space × Word × Nat)
  reads : Bool
  writes : Bool
  acq : Bool
  rel : Bool
deriving DecidableEq, Repr

/-- No access to memory. -/
def MemAcc.none : MemAcc := ⟨[], false, false, false, false⟩

/-! ### Continuation records, commit buffers and running tasks -/

/-- One aligned 64-byte line of provisional bytes: in the scratchpad of a tile, or at a physical address, which the issuing
tile wrote (R144). -/
structure CommitLine where
  inGlobal : Bool
  host : Bool
  tile : TileIx
  base : Nat
  /-- The stores entered in a global line, by which `TLBINV` finds it: the tile of each and the virtual address of the line
  (R144). -/
  stores : List (TileIx × BitVec 48)
  bytes : List Host.Cell
deriving DecidableEq, Repr

/-- A contribution held until the arrival: the first buffer element and the F32 values (R309). -/
structure Contribution where
  offset : Nat
  values : List (BitVec 32)
deriving DecidableEq, Repr

/-- The commit buffer of a task (R144, R310), in program order. -/
structure CommitBuf where
  lines : List CommitLine
  contribs : List Contribution
deriving DecidableEq, Repr

/-- A launch a task belongs to: its context and the number of the launch (R367). -/
structure LaunchRef where
  ctx : CtxNo
  num : Nat
deriving DecidableEq, Repr

/-- A matrix instruction in flight, with the values it read at issue (R245). -/
inductive MxKind where
  | mldw (l : LReg) (expand : Bool) (j c1 g1 : BitVec 2)
  | mma (c : AccReg) (l : LReg) (absorb : Bool) (j c1 : BitVec 2) (acc : Bool)
  | mdrain (c : AccReg) (relu sat : Bool) (mode : RM)
  | steepld (f : MFmt) (mask : BitVec 4)
deriving DecidableEq, Repr

/-- A row or column as it stands in a latch or the array: element patterns and, for an SX format, the shared exponent of each
element with its micro-exponent at bit 8 (R100, R226). -/
structure MxRow where
  raws : List Nat
  scales : List Nat
deriving DecidableEq, Repr

/-- A matrix instruction in flight: its kind, operands, bundle and rows done, the rows it has read ahead, and the 64-byte
chunks of memory it has begun to read (R119, R245). -/
structure MxOp where
  kind : MxKind
  desc : Desc
  ss : Word
  ashape : BitVec 4
  pc : Addr48
  slot : Nat
  word : BitVec 32
  /-- Its place in the order of issue of the machine's instructions. -/
  order : Nat
  /-- It was issued in handler mode (R377). -/
  hnd : Bool
  /-- A reload of a latch or slot after a restore or a resume (R248). -/
  reload : Bool
  /-- `MXPROG` describes it, though it is no `MMA` (R246). -/
  shown : Bool
  /-- A drain that a save recorded, to be redone whole: `MXPROG` describes it beside no `MMA` (R246, R248). -/
  redone : Bool
  done : Nat
  /-- The rows an `MMA` has read and not yet committed (R245). -/
  rows : List MxRow
  /-- The chunks as they were read: the memory (the tile of a scratchpad, 256 for device memory, 257 for host memory), the
  address of the chunk and its bytes (R119). -/
  held : List (Nat × Nat × List Byte)
  /-- The flags a drain sets when it completes. -/
  flags : BitVec 6
  /-- The row scales, column scales and biases of an `MDRAIN`, once it has read them. -/
  epi : Option (List Byte)
  /-- The seed an `MDRAIN` read at issue. -/
  seed : BitVec 32
  parked : Bool
deriving DecidableEq, Repr

/-- An instruction that waits: for full/empty tags (R92), for a pipe (R145), at `BARG` (R308) or a gang `YIELD` (R264), for
a timeline (R156), for the answer to a parked translation (R357), or for accesses before its own (R108, R118); or, not
`begun`, a slot of an issued bundle that cannot yet execute and is tried again. It keeps the issue of its bundle, the slots
of the bundle still to execute after it, the ns left on its watchdog, its place in the order of issue, its order of arrival
at the tags, and the memory it accesses. -/
structure Wait where
  instr : Instr
  issue : Issue
  rest : List SlotInstr
  begun : Bool
  leftNs : Nat
  order : Nat
  arrived : Nat
  mem : MemAcc
deriving DecidableEq, Repr

/-- A continuation record with what the device holds beside it (R254, R311, R390). -/
structure Rec where
  words : Vector Word 8
  launch : Option LaunchRef
  /-- The slot of the save area that holds the task's state or its commit buffer. -/
  slot : Option (BitVec 10)
  /-- The commit buffer kept with the continuation, in that slot. -/
  commit : CommitBuf
  /-- The tile a deep restore must use, and the cluster it must stay in (R269). -/
  onTile : Option TileIx
  inCluster : Option ClusterIx
  /-- The tile that saved the state (R269, R389). -/
  savedOn : Option TileIx
  /-- The number of the task: the owner that a join knows. -/
  task : Nat
  /-- The wait a deep pre-emption withdrew, repeated at the restore (R92, R145, R308), and the open joins it saves (R302). -/
  wait : Option Wait
  openJoins : List Handle
  /-- The parked matrix work a deep pre-emption recorded, continued at the restore (R248). -/
  redo : List MxOp
  /-- The asynchronous causes still pending, and how many of them wait for a `RETT` (R375). -/
  async : List TrapRec
  asyncHeld : Nat
  /-- The accesses still to be performed beside the task's bundles, the slot a `RETT` asked for, and what faulted bundles left
  behind (R357, R382). -/
  accs : List Wait
  replay : Option Replay
  owed : List Owed
  /-- A handler that the pre-emption took had read a fault register (R379). -/
  armed : Bool
  /-- The `BARG`s the gang member has issued, and whether the last of them is still to complete (R308). -/
  bargs : Nat
  bargOpen : Bool
deriving DecidableEq, Repr

/-- A record in a queue: its enqueue order, ns waited and aging steps gained (R270, R271). -/
structure Queued where
  record : Rec
  order : Nat
  waited : Nat
  aged : Nat
deriving DecidableEq, Repr

/-- What the device knows of the task on a tile beside its registers. -/
structure Running where
  record : Rec
  /-- The queue that held the record (R268). -/
  home : ClusterIx
  /-- ns since dispatch or the last suspension point (R269). -/
  ranNs : Nat
  /-- ns its context has been without quota (R269). -/
  brokeNs : Nat
  openJoins : List Handle
  commit : CommitBuf
  /-- A kill that has reached the tile, and one that ignores hold depth (R275, R327). -/
  killPending : Bool
  powerKill : Bool
  /-- A deep pre-emption or a quota stop is due (R269, R322). -/
  deepDue : Bool
  /-- Asynchronous causes in the order they arose; the first `asyncHeld` were pending at a trap and wait for `RETT`
  (R375). -/
  async : List TrapRec
  asyncHeld : Nat
  /-- A gang member that has stopped for a deep pre-emption of its gang (R264). -/
  stopped : Bool
  /-- The record whose slot the tile has still to read (R311, R390). -/
  restoring : Option Queued
  /-- The record of a task that has issued no bundle and has nothing in the save area: a loss of power puts it back in its queue
  (R420). -/
  fresh : Option Queued
  /-- The slot of the save area that a save under way has taken (R311, R386). -/
  saving : Option (BitVec 10)
  /-- The `BARG`s the gang member has issued, and whether the last of them is still to complete (R308). -/
  bargs : Nat
  bargOpen : Bool
deriving DecidableEq, Repr

/-! ### Memory of a tile -/

/-- A byte to be written: the bits of `bits` where `mask` is set; the others keep their value (R134, R241). -/
structure Patch where
  mask : Byte
  bits : Byte
deriving DecidableEq, Repr

/-- A write on its way to its home (R116): the bytes that one access writes in one 64-byte line, at a physical address, at a
host bus address or in the control region. They are performed together (R106, R119). It holds the task that wrote them and,
for an instruction or command that goes on writing, whether it is an engine command and its place in the order of issue. -/
structure PendingWrite where
  host : Bool
  ctl : Bool
  addr : Nat
  bytes : List Patch
  task : Nat
  access : Option (Bool × Nat)
deriving DecidableEq, Repr

/-- A line of a die cache: the physical address and the bytes as they stood at the home when the line was brought in, with
the die's own writes since (R95). -/
structure DieLine where
  pa : Nat
  bytes : List Byte
deriving DecidableEq, Repr

/-- A line of the L1 data cache: tagged with its virtual address and ASID, with the physical line and the permissions
recorded at its fill (R95, R356). -/
structure L1Line where
  asid : BitVec 7
  va : BitVec 48
  pa : Nat
  readable : Bool
  bytes : List Byte
deriving DecidableEq, Repr

/-- A line of an instruction cache (R34, R121). -/
structure ICLine where
  asid : BitVec 7
  va : BitVec 48
  bytes : List Byte
deriving DecidableEq, Repr

/-- A translation: the page it covers and its leaf entry (R355). -/
structure TlbEntry where
  asid : BitVec 7
  va : BitVec 48
  large : Bool
  entry : Word
deriving DecidableEq, Repr

/-- A segment of a scratchpad: its owner byte, its last owner, and whether it is being zeroed (R89, R361). -/
structure Segment where
  owner : Option CtxNo
  last : Option CtxNo
  zeroing : Bool
deriving DecidableEq, Repr

/-! ### Joins, gangs and queues of a cluster -/

/-- The state of a join record in use (R258). -/
inductive JoinSt where
  | open | sealed
deriving DecidableEq, Repr

/-- How a member of a quorum join stands (R259, R286); `withdrawn` is a counted successor that never ran (R303). -/
inductive MemberSt where
  | running | arrived | failed | killed | late | withdrawn
deriving DecidableEq, Repr

/-- A member of a quorum join (R279). -/
structure Member where
  weight : BitVec 32
  st : MemberSt
  task : Nat
deriving DecidableEq, Repr

/-- The values of a quorum join (R278) with its members and its progress (R284 to R288). -/
structure Quorum where
  weighted : Bool
  frac : BitVec 9
  grace : BitVec 32
  rule : BitVec 2
  cbase : BitVec 21
  len : BitVec 14
  sbase : BitVec 21
  fbase : BitVec 21
  fsize : BitVec 16
  home : TileIx
  /-- TW, the F32 sum of the weights. -/
  total : BitVec 32
  members : List Member
  /-- ns left on the grace timer, once the quorum was met. -/
  graceLeft : Option Nat
  cut : Bool
  cutByGrace : Bool
deriving DecidableEq, Repr

/-- A join in use (R258, R259). -/
structure JoinRec where
  st : JoinSt
  ctx : CtxNo
  owner : Nat
  pending : Nat
  arrived : Nat
  failed : Nat
  killed : Nat
  late : Nat
  weight : BitVec 32
  /-- The successor and the queue it goes to. -/
  succ : Option (Rec × ClusterIx)
  /-- The parent join that counts a `JINIT` successor not yet run (R300, R303). -/
  counted : Bool
  quorum : Option Quorum
deriving DecidableEq, Repr

/-- A record of a join unit: its generation, and the join in it (R257). -/
structure JoinSlot where
  gen : BitVec 16
  join : Option JoinRec
deriving DecidableEq, Repr

/-- A pipe of a gang: its stages and its entries, oldest first (R145, R299). -/
structure Pipe where
  src : BitVec 3
  dst : BitVec 3
  entries : List VWord
deriving DecidableEq, Repr

/-- A gang instance of the cluster whose queue holds its records (R262 to R264, R308). -/
structure Gang where
  home : ClusterIx
  num : GangNo
  ctx : CtxNo
  size : Nat
  /-- The tile of each stage that is still running; none while the gang is queued. -/
  tiles : List (BitVec 3 × TileIx)
  pipes : List (Nat × Pipe)
deriving DecidableEq, Repr

/-- The state of a rail that steps toward a target (R315): its present voltage in mV and the target in force. -/
structure Rail where
  mv : Nat
  target : Nat
deriving DecidableEq, Repr

/-- The frequency and rail of a cluster (R312 to R315), and the three caps of its requests (R314). -/
structure ClusterPower where
  /-- The point of the present frequency. -/
  point : OpPoint
  /-- STEADY at `target`, or MOVING to it; `pending` is the request that waits for a reversal. -/
  target : OpPoint
  steady : Bool
  pending : Option OpPoint
  rail : Rail
  policy : OpPoint
  permitCap : OpPoint
  /-- A refused claim at 1,050 MHz makes no claim at the next edge (R324). -/
  noClaim : Bool
  thermalCap : OpPoint
  /-- Throttle episodes, as Dyinusk reports them (R329). -/
  throttles : Nat
  /-- mV requested for stretched cycles, up to 30 (R414). -/
  margin : Nat
deriving DecidableEq, Repr

/-- A cluster: its queue, its join unit, its gangs and its TLB. -/
structure Cluster where
  queue : List Queued
  /-- The join records ever used, by index (R257). -/
  joins : List (BitVec 10 × JoinSlot)
  gangs : List Gang
  nextGang : GangNo
  /-- The gang that reserves tiles, and the tiles it has reserved (R273). -/
  reserving : Option GangNo
  reserved : List TileIx
  tlb : List TlbEntry
  /-- The writes that a release has performed towards the agents of the cluster, oldest first (R107, R143). -/
  wbuf : List PendingWrite
  /-- The scheduler settings in ns: aging step, steal delay, reservation threshold (R274). -/
  agingNs : Nat
  stealNs : Nat
  reserveNs : Nat
  power : ClusterPower
deriving DecidableEq, Repr

/-! ### Messages between tiles and join units -/

/-- A spawn on its way (R296 to R298). -/
inductive SpawnSt where
  | checking | accepted | refused | enqueue
deriving DecidableEq, Repr

/-- A spawn whose record has not been enqueued, or whose check has not returned: the tile and task it comes from, its
records (more than one for a gang), the queue they go to and where it stands. -/
structure SpawnMsg where
  tile : TileIx
  task : Nat
  handle : Handle
  ctx : CtxNo
  recs : List Rec
  target : ClusterIx
  pipes : List (Nat × Pipe)
  st : SpawnSt
  /-- The check's answer has reached the spawner's tile. -/
  returned : Bool
  /-- The place of the `SPAWN` in the order of issue (R298). -/
  order : Nat
deriving DecidableEq, Repr

/-- How a task ended (R259). -/
inductive EndKind where
  | arrived | failed | killed
deriving DecidableEq, Repr

/-- What reports an end: the tile that ran the task, or none: then the cluster of the queue that held the record, and its
place in the order of enqueues there (R259). -/
inductive EndFrom where
  | tile (t : TileIx)
  | queue (c : ClusterIx) (order : Nat)
deriving DecidableEq, Repr

/-- The end of a task on its way to its join (R259, R260). -/
structure EndMsg where
  handle : Handle
  task : Nat
  kind : EndKind
  weight : BitVec 32
  source : EndFrom
  ctx : CtxNo
  quorum : Option (BitVec 6)
  commit : CommitBuf
  launch : Option LaunchRef
  /-- The end comes from a power kill (R327). -/
  power : Bool
  /-- The open joins of a task that ended off its tile, to be sealed (R302). -/
  joins : List Handle
deriving DecidableEq, Repr

/-! ### Contexts -/

/-- A context is free, active or ending (R350). -/
inductive CtxSt where
  | free | active | ending
deriving DecidableEq, Repr

/-- A launch in flight (R367). -/
structure Launch where
  num : Nat
  stamp : BitVec 16
  user : Word
  live : Nat
  first : Option EndKind
  firstTask : Nat
  arrived : Nat
  failed : Nat
  killed : Nat
  powerKilled : Bool
  ended : Bool
deriving DecidableEq, Repr

/-- A slot of a save area that is in use (R311, R386, R387, R390): the task state a `SAVEX` saved on a tile, a record of
`SYSC` (with the queue that held the task, the cluster it last ran on and the place of the `SYSC` in the order of enqueues)
that system software may release or drop, or what the device keeps beside a record. -/
inductive SaveSlot where
  | state (savedOn : TileIx)
  | sysc (record : Rec) (home ranOn : ClusterIx) (order : Nat)
  | beside
deriving DecidableEq, Repr

/-- A context (R350, R354, R365 to R368). -/
structure Context where
  st : CtxSt
  group : BitVec 6
  asid : BitVec 7
  err : Bool
  root : BitVec 34
  period : BitVec 32
  allowance : BitVec 32
  save : BitVec 42
  peers : BitVec 32
  sqlog : BitVec 4
  sqbase : BitVec 51
  cqlog : BitVec 4
  cqbase : BitVec 53
  quantum : BitVec 32
  holdlim : BitVec 32
  kvReserve : Vector (BitVec 32) 4
  kvFree : Vector (BitVec 32) 4
  pipewdog : BitVec 32
  fewdog : BitVec 32
  trapv : Addr48
  /-- `QUOTA`: signed microjoules left in the period (R26, R320). -/
  quota : Int
  /-- The allowance in force, and ns to the next boundary (R321, R354). -/
  curAllowance : BitVec 32
  periodLeft : Nat
  /-- A task or an engine command of the context has been at work since its last charge, and the microsecond of `TIME` of that
  charge (R320). -/
  worked : Bool
  charged : Option Nat
  slots : List (BitVec 10 × SaveSlot)
  /-- The queue page and the submission state (R365, R366). -/
  sqhead : BitVec 16
  cqhead : BitVec 16
  nrange : Bool
  stampfail : Bool
  pendingTo : Nat
  refetches : Nat
  launches : List Launch
  nextLaunch : Nat
  completions : Nat
deriving DecidableEq, Repr

/-! ### The parking units, KV maps and tables of a die -/

/-- What a parked request was doing (R357). -/
inductive ParkKind where
  /-- The access of an instruction of this place in the order of issue. -/
  | access (n : Nat)
  /-- An instruction fetch. -/
  | fetch
  /-- The matrix instruction in flight of this order of issue. -/
  | matrix (n : Nat)
  | engine (q : QueueId)
  /-- The slot write of a deep pre-emption (R386), the slot write of a gang member at a gang `YIELD` (R311), and the slot
  read of a dispatch (R390). -/
  | save
  | suspend
  | restore
  /-- The source of an `MUPD.WRITE` (R404). -/
  | mupd
deriving DecidableEq, Repr

/-- A parked request (R357). -/
structure Parked where
  id : BitVec 12
  tile : TileIx
  ctx : CtxNo
  va : BitVec 48
  access : BitVec 2
  malformed : Bool
  presented : Bool
  leftNs : Nat
  kind : ParkKind
deriving DecidableEq, Repr
/-! ### The matrix array (R226 to R248) -/

/-- A weight latch with its record (R227). `elems` holds column t at bits 2048t up, `scales` the exponent byte and
the micro-exponent bit of element k of column t at bits 9(1024t + k) up. -/
structure WLatch where
  full : Bool
  fmt : BitVec 4
  addr : BitVec 48
  space : BitVec 2
  expand : Bool
  slot : BitVec 2
  chain : BitVec 2
  groups : BitVec 2
  desc : Desc
  ss : Word
  elems : BitVec 131072
  scales : BitVec 589824
deriving DecidableEq, Repr

/-- A Steep slot with its record (R232, R244). `elems` holds column h at bits 2048h up, `scales` block b of column h at
bits 16(64h + b) up. -/
structure SteepSlot where
  valid : Bool
  fmt : BitVec 4
  src : BitVec 64
  elems : BitVec 32768
  scales : BitVec 16384
deriving DecidableEq, Repr

/-- The matrix side of a tile: latches, slots, work in flight, spill map, written tiles and band gating. -/
structure Matrix where
  w : Vector WLatch 2
  st : Vector SteepSlot 4
  ops : List MxOp
  /-- The instructions that faults stopped, the newest first; `MXPROG` describes the one that is `shown` (R246, R247). -/
  stopped : List MxOp
  spill : BitVec 8
  written : BitVec 8
  gated : BitVec 4
  waking : BitVec 4
  idle : Vector Nat 4
deriving DecidableEq, Repr

/-! ### The engines (R149 to R170) -/

/-- The move of a growing slab: the rows of the new copy and the watermark (R105). -/
structure SlabMove where
  rows : List Host.Cell
  mark : Nat
deriving DecidableEq, Repr

/-- A slab: size, owner, rows by byte offset from its base, and its growth (R102 to R105). -/
structure Slab where
  k : BitVec 4
  owner : CtxNo
  rows : List Host.Cell
  move : Option SlabMove
deriving DecidableEq, Repr

/-- A slab descriptor: its generation and its slab (R102). -/
structure SlabDesc where
  gen : BitVec 16
  slab : Option Slab
deriving DecidableEq, Repr

/-- A `GATH` or `KVPUT` that its KV map has accepted: its positions, the bytes of its row that it has still to write (a
`GATH`) or has read (a `KVPUT`), the mask and the failures so far, and the slab as it stood when it was freed (R162, R163, R167). -/
structure KvRun where
  ps : List Nat
  row : Option (List Byte)
  mask : Word
  nfail : Nat
  bad : Option Nat
  kept : Option Slab
deriving DecidableEq, Repr

/-- A command of a queue with the operand values it read at issue (R149, R151, R158). -/
structure EngCmd where
  instr : Instr
  da : Desc
  db : Desc
  s0 : Word
  s1 : Word
  token : SReg
  count : BitVec 54
  /-- Its place in the order of issue of the machine's instructions. -/
  order : Nat
  task : Nat
  /-- The issuing task has not passed a suspension point or ended since the issue (R151, R153). -/
  live : Bool
  cancelled : Bool
  ctx : CtxNo
  /-- It was issued in handler mode (R377). -/
  hnd : Bool
  started : Bool
  /-- The element a started command has reached (R154). -/
  reached : Nat
  /-- ns left of a wait inside the command (R161, R170). -/
  leftNs : Nat
  /-- The aligned 8-byte word of its source that the command has read last, by address, and the blocks whose scale bytes it
  has copied (R106, R158). -/
  buf : Option (Word × List Byte)
  scaled : Nat
  /-- The progress of a `GATH` or `KVPUT` that has been accepted at its KV map (R162, R163, R167). -/
  kv : Option KvRun
  /-- The outcome of a started command, once it is known: status word, mask, and a cause for its task. -/
  result : Option (Word × Word × Option TrapRec)
  parked : Bool
deriving DecidableEq, Repr

/-- A completion record (R152). -/
structure EngRec where
  count : BitVec 54
  status : Word
  vmask : Word
deriving DecidableEq, Repr

/-- An engine queue: its commands, the last COUNT issued, its timeline and its completion records (R149 to R152). -/
structure EngQueue where
  cmds : List EngCmd
  last : BitVec 54
  timeline : BitVec 54
  recs : List EngRec
deriving DecidableEq, Repr

/-! ### Power (R312 to R330) -/

/-- The power states of a tile (R317). -/
inductive PowerSt where
  | on | gated | retain | off
deriving DecidableEq, Repr

/-- What `SLEEP` has set for the next idle period (R318). -/
inductive IdleTarget where
  | none | retain | off
deriving DecidableEq, Repr

/-- The power state of a tile with its idle target, the ns it has been clock-gated, the pre-warm hold of a `WAKE`, the ns
left of a wake (R16, R317, R319), and the ns for which the ballast pattern still decays in its matrix bands (R328). -/
structure TilePower where
  st : PowerSt
  idle : IdleTarget
  idleNs : Nat
  prewarmed : Bool
  waking : Option Nat
  ballast : Nat
deriving DecidableEq, Repr

/-! ### Persistence (R394 to R408) -/

/-- The save directory of a tile (R394) and the marks of a tile held in Peat across a loss (R31). -/
structure Peat where
  valid : Bool
  dirty : Bool
  slot : BitVec 2
  epoch : BitVec 32
  accm : BitVec 8
  vm : BitVec 32
  pb : BitVec 21
  pl : BitVec 17
  lver : Vector (BitVec 32) 2
  sver : Vector (BitVec 32) 4
  /-- The Peat flip-flops hold a task that waits for `TILE_RESUME`. -/
  held : Bool
  /-- The tile has made its save for the present warning. -/
  saved : Bool
deriving DecidableEq, Repr

/-- A Caddy region entry (R362) with its version and measurement (R371, R407). -/
structure Region where
  owner : CtxNo
  updating : Bool
  damaged : Bool
  valid : Bool
  len : BitVec 9
  base : BitVec 9
  grant : BitVec 64
  version : BitVec 32
  /-- The measurement of the region, and the version it was computed for. -/
  measure : BitVec 256
  measured : BitVec 32
  /-- The lost lines of the region, by line number. -/
  lost : List Nat
deriving DecidableEq, Repr

/-- An open `MUPD` transaction (R404 to R407): the staged bytes, the pages staged and the lines written. -/
structure Txn where
  region : BitVec 4
  ctx : CtxNo
  bytes : List Host.Cell
  /-- Each touched page with the pool page it is staged in. -/
  pages : List (Nat × Nat)
  lines : List Nat
deriving DecidableEq, Repr

/-- An `MUPD` subcommand that has not completed (R404), with the operand values read at issue. -/
structure MupdCmd where
  instr : Instr
  db : Desc
  s : Word
  token : SReg
  task : Nat
  live : Bool
  ctx : CtxNo
  /-- It was issued in handler mode (R377). -/
  hnd : Bool
  /-- The lines a WRITE has staged, and how many of them went to spares (R406). -/
  reached : Nat
  remapped : Nat
  /-- The switch of a COMMIT has been written (R407, R408). -/
  switched : Bool
  /-- The outcome, once it is known: status word and a cause for its task. -/
  result : Option (Word × Option TrapRec)
  parked : Bool
deriving DecidableEq, Repr

/-- A Caddy (R93, R362, R406, R417): its bytes, the tags of its save area, its region entries, and its wear. -/
structure Caddy where
  bytes : List Host.Cell
  /-- The words of the save area whose stored tag is empty, and whose word is stored poisoned (R396). -/
  empties : List Nat
  poisoned : List Nat
  regions : Vector Region 16
  txn : Option Txn
  /-- The physical page of a logical page, where it is not its own; the free pages of the update pool. -/
  pageMap : List (Nat × Nat)
  pool : List Nat
  /-- The write count of each physical page, and the retired pages (R406). -/
  wear : List (Nat × Nat)
  /-- The lines that fail verification, the lines moved to spares, and the spares left (R406, R417). -/
  weak : List Nat
  spared : List Nat
  spares : Nat
  /-- Each line rewritten by the patrol with the device time of it (R417). -/
  rewritten : List (Nat × Nat)
deriving DecidableEq, Repr

/-! ### Tiles -/

/-- A register as the scoreboard and the destination check name it (R21, R39). -/
inductive RegId where
  | s (a : SReg) | p (a : PReg) | v (a : VReg) | m (a : MReg) | q (a : QReg) | c (a : AccReg) | d (a : DReg)
  | w (a : LReg) | slot (a : BitVec 2) | cr (a : BitVec 10)
deriving DecidableEq, Repr

/-- The registers that handler mode has its own copies of: here the task's own values (R377). -/
structure Banked where
  s : Vector Word 8
  p7 : Bool
  loop0 : LoopRegs
  loop1 : LoopRegs
  fpflags : BitVec 6
deriving DecidableEq, Repr

/-- The context-scoped registers as the task on a tile sees them (R27). -/
structure CtxView where
  trapv : Addr48
  holdlim : BitVec 32
  fewdog : BitVec 32
  pipewdog : BitVec 32
  quantum : BitVec 32
deriving DecidableEq, Repr

/-- A tile (R10). -/
structure Tile where
  regs : Regs
  issue : Issue
  /-- The task's own registers while its handler runs, and whether the handler has read a fault register (R377, R379). -/
  banked : Option Banked
  armed : Bool
  /-- What the task sees of its context's registers. -/
  view : CtxView
  mx : Matrix
  /-- The scratchpad: its bytes, the words whose tag is empty, the poisoned words and the segments (R87 to R91, R391). -/
  sp : List Host.Cell
  empties : List Nat
  poison : List Nat
  segs : Vector Segment 32
  /-- The poisoned accumulator entries, by 4096c + 64r + n, and the poisoned registers (R391). -/
  accPoison : List Nat
  regPoison : List RegId
  caddy : Caddy
  peat : Peat
  eng : Vector EngQueue 4
  mupd : List MupdCmd
  l1 : List L1Line
  ic : List ICLine
  tlb : List TlbEntry
  /-- The writes on their way to their homes, oldest first (R116). -/
  wbuf : List PendingWrite
  /-- The task on the tile, its wait, and the context a halted slot waits for (R379). -/
  run : Option Running
  wait : Option Wait
  /-- The accesses of the M slot that are parked or wait for accesses before them while later bundles go on, oldest first
  (R108, R118, R357). -/
  accs : List Wait
  /-- The only slot of the next bundle that issues, after a `RETT` with REPLAY; what faulted bundles left behind (R382). -/
  replay : Option Replay
  owed : List Owed
  halted : Option CtxNo
  /-- `CYC`, the earliest cycle of the next bundle, whether that bundle has none before it (R37), and the registers not yet
  written back (R22). -/
  cyc : Nat
  nextIssue : Nat
  first : Bool
  pending : List (RegId × Nat)
  /-- The flags of `FPFLAGS` that results still on their way set: the cycle, whether in handler mode, and the flags (R195). -/
  late : List (Nat × Bool × BitVec 6)
  /-- The cycle from which each vector unit is free (R194). -/
  units : Vector Nat 7
  power : TilePower
deriving DecidableEq, Repr

/-! ### Dies and the module -/

/-- A die: its cache (R95), its parking unit (R357), its KV map (R102), its permit pool (R323, R325) and its band rails
(R313). -/
structure Die where
  /-- The lines of the die cache, and the writes performed there and not yet at their homes, oldest first (R95, R137). -/
  cache : List DieLine
  wbuf : List PendingWrite
  parked : List Parked
  parkInfo : Word
  parkBell : BitVec 32
  nextPark : BitVec 12
  kv : List (BitVec 14 × SlabDesc)
  permits : Nat
  idleIntervals : Nat
  pointer : BitVec 3
  /-- `TIME` at the last interval edge served (R323). -/
  edge : Option Word
  bands : Vector Rail 4
  /-- The rails of the fabric island and of the memory-port island (R12). -/
  fabric : Rail
  port : Rail
  /-- The mV of the cold offset (R312), and whether a junction sensor reads below -20 °C (R411, R413). -/
  cold : Nat
  chilled : Bool
  /-- The banks posted to the system tile (R379, R383): context, tile and banks. -/
  posts : List (CtxNo × TileIx × FaultBank × FaultBank)
deriving DecidableEq, Repr

/-- A device-memory aperture of the host port (R365). -/
structure Aperture where
  ctx : CtxNo
  valid : Bool
  err : Bool
  base : Word
deriving DecidableEq, Repr

/-- The word of the service page for a power-off, once the host has written it (R409). -/
inductive PowerCmd where
  | warm | cold
deriving DecidableEq, Repr

/-- Where the module stands in a loss of power (R395 to R402). -/
inductive PowerPhase where
  /-- Power is good. -/
  | up
  /-- After the warning or a power-off command: tiles save, timers stand still. -/
  | warned
  /-- Without power. -/
  | down (retained : Bool)
deriving DecidableEq, Repr

/-- The host port, the service page, the attestation mailbox and Dyinusk (R365, R371, R372, R409). -/
structure Port where
  apertures : Vector Aperture 64
  ready0 : Word
  ready1 : Word
  loss : Word
  age : Vector Word 56
  /-- The mV by which ageing has raised a voltage: by 4 times the domain plus the rank of the point (R416). -/
  lifts : List (Nat × Nat)
  retrain : Vector Word 32
  /-- The channels in a retraining window (R415). -/
  windows : List (BitVec 5)
  pwrcmd : Option PowerCmd
  /-- The nonce, the region selection mask and the last report of the attestation mailbox (R372). -/
  nonce : BitVec 256
  select : BitVec 4096
  report : List Byte
  /-- The measurement registers FW and CFG and the version of the firmware (R370, R371). -/
  fw : BitVec 256
  cfg : BitVec 256
  fwVersion : BitVec 32
  /-- The last answer of a host access (R365). -/
  answer : Word
deriving DecidableEq, Repr

/-- The settings Galwen firmware makes at boot (R330, R385): the reclaim threshold, the idle interval in ns (none for
never), the pre-warm hold, and the entry of the system-call task. -/
structure Settings where
  reclaim : Nat
  idleNs : Option Nat
  prewarmNs : Nat
  syscEntry : Addr48
deriving DecidableEq, Repr

/-- A kill notice of a quorum cut on its way to a tile (R286). -/
structure KillMsg where
  tile : TileIx
  task : Nat
deriving DecidableEq, Repr

/-- An uncorrectable error that a protected structure meets (R391, R393): in a scratchpad word, a line of device memory, an
accumulator entry or a register; or a physical line of a Caddy that fails verification from then on (R406). -/
inductive Damage where
  | word (t : TileIx) (w : Nat)
  | line (l : Nat)
  | entry (t : TileIx) (c : AccReg) (r n : BitVec 6)
  | reg (t : TileIx) (r : RegId)
  | caddy (t : TileIx) (l : BitVec 19)
deriving DecidableEq, Repr

/-- One turn of the interleaving of the machine's agents: a tile issues, a step of the device or its surroundings
happens, device time passes, a tile spends cycles, a started engine command moves the elements of its next word (R106, R153), a matrix
instruction in flight reads a 64-byte chunk of a memory ahead of its row (R119), a cache of a tile or a die gives up a line or
a translation (R95, R356), a frame of device memory is allocated from the free pool or returned to it (R97), the host
writes its own memory or reads a register of BAR0 (R365), Dyinusk sets the cold offset of a die (R312), the sensors of a die read
below -20 °C or no longer (R411), an uncorrectable error appears (R391), or the memory manager comes to hold or drops a clean copy
of a frame (R393). -/
inductive Turn where
  | issue (t : TileIx)
  | event (i : Instr)
  | elapse (ns : Nat)
  | cycles (t : TileIx) (n : Nat)
  | engine (t : TileIx) (q : QueueId)
  | chunk (t : TileIx) (n : Nat) (key : Nat) (a : Nat)
  | evict (t : TileIx) (va : BitVec 48)
  | castOut (d : DieIx) (line : Nat)
  | allocate (frame : Nat)
  | release (frame : Nat)
  | host (a : Nat) (bs : List Byte)
  | bar0 (off : BitVec 20)
  | cold (d : DieIx) (mv : BitVec 6)
  | chill (d : DieIx) (below : Bool)
  | damage (x : Damage)
  | copy (frame : Nat) (held : Bool)
deriving DecidableEq, Repr

/-- The module (R7): the whole state of the machine. -/
structure State where
  /-- The tile whose bundle is being executed. -/
  cur : TileIx
  tiles : Vector Tile 256
  clusters : Vector Cluster 32
  dies : Vector Die 4
  ctxs : Vector Context 128
  /-- Device memory by physical address, the poisoned lines of it, and host memory by bus address (R95, R96, R393). -/
  gm : List Host.Cell
  gmPoison : List Nat
  /-- The poisoned lines reported to the memory manager, and the frames of which it holds a clean copy (R393). -/
  reports : List Nat
  copies : List Nat
  /-- The 64 KiB frames of device memory that are allocated, by number, rising (R97). -/
  frames : List Nat
  host : List Host.Cell
  /-- `TIME` in ns (R26). -/
  time : Word
  /-- Spawns, ends and kill notices on their way, each with its number. -/
  spawns : List (Nat × SpawnMsg)
  ends : List (Nat × EndMsg)
  kills : List (Nat × KillMsg)
  nextMsg : Nat
  /-- The number of the next task, and the place of the next issue or enqueue; reloads of latches and slots take the first
  eight places. -/
  nextTask : Nat
  nextOrder : Nat
  port : Port
  settings : Settings
  phase : PowerPhase
  /-- How many choices that the spec does not fix have been made: the argument of `Config.free`. -/
  freeCount : Nat
  /-- The words of the control region that an arrival being counted has written, by offset, each with the bytes written: the
  step that counts it performs them (R144, R292). -/
  ctlDue : List (Nat × List (Option Byte))
  /-- The turns still to come; an empty list leaves the turn to tile `cur`. -/
  schedule : List Turn
deriving DecidableEq, Repr

/-! ### The reasons to stop -/

/-- A stop of the machine. -/
inductive Fault where
  /-- Raised by `step` while the module has no power and no turn is scheduled: nothing happens until power returns.
  Safe: the run stops where no instruction runs. -/
  | noPower
deriving DecidableEq, Repr

/-- A reason to give an instruction no meaning. -/
inductive Refusal where
  /-- An instruction whose meaning has not been written, raised by its arm of `exec`. Safe: the run stops. -/
  | notModelled (mnemonic : String)
deriving DecidableEq, Repr

/-! ### The state after reset -/

/-- A fault bank without a fault (R26). -/
def FaultBank.none : FaultBank := ⟨0, 0, 0⟩

/-- A loop that is not active (R26). -/
def LoopRegs.off : LoopRegs := ⟨0, 0, 0⟩

/-- The control registers at their reset values (R26); those a record gives read 0 before a dispatch. -/
def Ctl.reset : Ctl :=
  { task := 0, ctxn := 0, asid := 0, sys := false, hnd := false, prio := 0, holdDepth := 0, holdLeft := 0xFFFFFFFF,
    rArith := 0, rCvt := 0, fpflags := 0, sbchk := false, srseed := 1, oobAddr := 0, oobFlag := false, oobWr := false,
    bank1 := .none, bank2 := .none, ashape := 0xF, mxAct := false, mxAcc := 0, mxRows := 0, persb := 0, persl := 0,
    livev := 0, loop0 := .off, loop1 := .off, qjoin := 0, qmembIx := 0, qmembWt := 0, qframeBase := 0, qframeSize := 0 }

/-- The registers of a task before any value is given to them (R23). -/
def Regs.reset : Regs :=
  { s := .replicate 64 0, p := 1, v := .replicate 32 0, m := .replicate 8 0, q := .replicate 4 ⟨0, 0⟩,
    c := .replicate 8 0, d := .replicate 16 0, pc := 0, ctl := .reset }

/-- No bundle is being issued. -/
def Issue.idle : Issue :=
  { src := none, slot := 0, word := 0, size := 0, mark := .done, npc := none, raised := [], oob := none, pend := none,
    wroteLc0 := false, wroteLc1 := false, replay := false, flow := none, order := none }

/-- An empty weight latch (R23). -/
def WLatch.empty : WLatch :=
  { full := false, fmt := 0, addr := 0, space := 0, expand := false, slot := 0, chain := 0, groups := 0, desc := 0,
    ss := 0, elems := 0, scales := 0 }

/-- An empty Steep slot (R23). -/
def SteepSlot.empty : SteepSlot := { valid := false, fmt := 0, src := 0, elems := 0, scales := 0 }

/-- The matrix side of a tile at dispatch (R23). -/
def Matrix.empty : Matrix :=
  { w := .replicate 2 .empty, st := .replicate 4 .empty, ops := [], stopped := [], spill := 0, written := 0, gated := 0,
    waking := 0, idle := .replicate 4 0 }

/-- A segment that no context has owned (R89). -/
def Segment.free : Segment := { owner := none, last := none, zeroing := false }

/-- An unused Caddy region entry (R362). -/
def Region.empty : Region :=
  { owner := 0, updating := false, damaged := false, valid := false, len := 0, base := 0, grant := 0, version := 0,
    measure := 0, measured := 0, lost := [] }

/-- A Caddy of a new module: its pool pages follow the 6,144 pages of the address space (R406, R417). -/
def Caddy.reset : Caddy :=
  { bytes := [], empties := [], poisoned := [], regions := .replicate 16 .empty, txn := none, pageMap := [],
    pool := (List.range 512).map (· + 6144), wear := [], weak := [], spared := [], spares := 4096, rewritten := [] }

/-- A save directory that has made no save (R394). -/
def Peat.reset : Peat :=
  { valid := false, dirty := false, slot := 0, epoch := 0, accm := 0, vm := 0, pb := 0, pl := 0,
    lver := .replicate 2 0, sver := .replicate 4 0, held := false, saved := false }

/-- An engine queue that has issued nothing (R28, R150). -/
def EngQueue.reset : EngQueue := { cmds := [], last := 0, timeline := 0, recs := [] }

/-- The context-scoped registers at their reset values (R26). -/
def CtxView.reset : CtxView := { trapv := 0, holdlim := 20000, fewdog := 1000000, pipewdog := 1000000, quantum := 200000 }

/-- A tile after a start: in OFF, its scratchpad zero and its tags full (R412). -/
def Tile.reset : Tile :=
  { regs := .reset, issue := .idle, banked := none, armed := false, view := .reset, mx := .empty, sp := [],
    empties := [], poison := [], segs := .replicate 32 .free, accPoison := [], regPoison := [], caddy := .reset,
    peat := .reset, eng := .replicate 4 .reset, mupd := [], l1 := [], ic := [], tlb := [], wbuf := [], run := none,
    wait := none, accs := [], replay := none, owed := [], halted := none, cyc := 0, nextIssue := 0, first := true,
    pending := [], late := [], units := .replicate 7 0, power := { st := .off, idle := .none, idleNs := 0, prewarmed := false, waking := none, ballast := 0 } }

/-- A cluster after a start: nothing queued, the scheduler's default settings, the minimum point (R12, R274, R411). -/
def Cluster.reset : Cluster :=
  { queue := [], joins := [], gangs := [], nextGang := 0, reserving := none, reserved := [], tlb := [], wbuf := [],
    agingNs := 50000, stealNs := 2000, reserveNs := 20000,
    power :=
      { point := .minimum, target := .minimum, steady := true, pending := none, rail := ⟨480, 480⟩,
        policy := .minimum, permitCap := .nominal, noClaim := false, thermalCap := .boost, throttles := 0, margin := 0 } }

/-- A die after a start (R102, R330, R357). -/
def Die.reset : Die :=
  { cache := [], wbuf := [], parked := [], parkInfo := 0, parkBell := 0, nextPark := 0, kv := [], permits := 64,
    idleIntervals := 0, pointer := 0, edge := none, bands := .replicate 4 ⟨550, 550⟩, fabric := ⟨550, 550⟩, port := ⟨550, 550⟩,
    cold := 0, chilled := false, posts := [] }

/-- A context at reset (R26, R354); context 0 is always active (R350). -/
def Context.reset (active : Bool) : Context :=
  { st := if active then .active else .free, group := 0, asid := 0, err := false, root := 0, period := 1000000,
    allowance := if active then 0xFFFFFFFF else 0, save := 0, peers := 0, sqlog := 0, sqbase := 0, cqlog := 0,
    cqbase := 0, quantum := 200000, holdlim := 20000, kvReserve := .replicate 4 0, kvFree := .replicate 4 0,
    pipewdog := 1000000, fewdog := 1000000, trapv := 0, quota := if active then 0x7FFFFFFFFFFFFFFF else 0,
    curAllowance := if active then 0xFFFFFFFF else 0, periodLeft := 1000000, worked := false, charged := none, slots := [],
    sqhead := 0, cqhead := 0, nrange := false, stampfail := false, pendingTo := 0, refetches := 0, launches := [],
    nextLaunch := 0, completions := 0 }

/-- The host port after a first start (R365, R409). -/
def Port.reset : Port :=
  { apertures := .replicate 64 ⟨0, false, false, 0⟩, ready0 := 0, ready1 := 0, loss := 0, age := .replicate 56 0, lifts := [],
    retrain := .replicate 32 0, windows := [], pwrcmd := none, nonce := 0, select := 0, report := [], fw := 0, cfg := 0,
    fwVersion := 0, answer := 0 }

/-- The machine right after its first start (R399, R412): every tile in OFF, context 0 active and every other free, no
queue, join, launch or slab, memory with nothing written. -/
def State.reset : State :=
  { cur := 0, tiles := .replicate 256 .reset, clusters := .replicate 32 .reset, dies := .replicate 4 .reset,
    ctxs := (Vector.replicate 128 (Context.reset false)).set 0 (Context.reset true), gm := [], gmPoison := [], reports := [], copies := [],
    frames := [], host := [], time := 0, spawns := [], ends := [], kills := [], nextMsg := 0, nextTask := 1, nextOrder := 8, port := .reset,
    settings := { reclaim := 8, idleNs := some 200000, prewarmNs := 100000, syscEntry := 0 }, phase := .up,
    freeCount := 0, ctlDue := [], schedule := [] }

end Sys2Proof.Machine
end

