-- ==== Sys2Proof/Machine/Regs.lean ====
section
/-! DEFINITION. Reading and writing the registers of the current tile: the one home of the hard-wired registers and of
the rule that every slot reads before any slot writes (R19, R21). -/

namespace Sys2Proof.Machine

/-- Tile `t`. -/
def State.tile (s : State) (t : TileIx) : Tile := s.tiles[t.toNat]'t.isLt

/-- The state with tile `t` replaced. -/
def State.setTile (s : State) (t : TileIx) (x : Tile) : State := { s with tiles := s.tiles.set t.toNat x t.isLt }

/-- The state with tile `t` changed. -/
def State.modTile (s : State) (t : TileIx) (f : Tile → Tile) : State := s.setTile t (f (s.tile t))

/-- The tile whose bundle is being executed. -/
def State.t (s : State) : Tile := s.tile s.cur

/-- The state with the current tile changed. -/
def State.modT (s : State) (f : Tile → Tile) : State := s.modTile s.cur f

/-- The registers of the task on the current tile. -/
def State.regs (s : State) : Regs := s.t.regs

/-- The registers an instruction reads: those before the bundle, while a bundle is being issued (R21). -/
def State.src (s : State) : Regs := s.t.issue.src.getD s.t.regs

/-- The state with the registers of the current tile changed. -/
def State.modRegs (s : State) (f : Regs → Regs) : State := s.modT fun t => { t with regs := f t.regs }

/-- The state with the control registers of the current tile changed. -/
def State.modCtl (s : State) (f : Ctl → Ctl) : State := s.modRegs fun r => { r with ctl := f r.ctl }

/-- The state with the issue record of the current tile changed. -/
def State.modIssue (s : State) (f : Issue → Issue) : State := s.modT fun t => { t with issue := f t.issue }

/-- A scalar register; `s0` reads zero (R18, R19). -/
def Regs.getS (r : Regs) (a : SReg) : Word := if a = 0 then 0 else r.s[a.toNat]'a.isLt

/-- A write of a scalar register; one of `s0` is discarded (R19). -/
def Regs.setS (r : Regs) (d : SReg) (x : Word) : Regs := if d = 0 then r else { r with s := r.s.set d.toNat x d.isLt }

/-- A predicate; `p0` reads true (R18). -/
def Regs.getP (r : Regs) (a : PReg) : Bool := a == 0 || r.p.getLsbD a.toNat

/-- A write of a predicate; one of `p0` is discarded (R19). -/
def Regs.setP (r : Regs) (d : PReg) (x : Bool) : Regs :=
  if d = 0 then r
  else { r with p := if x then r.p ||| (1#8 <<< d.toNat) else r.p &&& ~~~(1#8 <<< d.toNat) }

/-- A mask register; `m0` reads all ones (R18). -/
def Regs.getM (r : Regs) (a : MReg) : MWord := if a = 0 then BitVec.allOnes 1024 else r.m[a.toNat]'a.isLt

/-- A write of a mask register; `m0` is never one (R19). -/
def Regs.setM (r : Regs) (d : MReg) (x : MWord) : Regs := if d = 0 then r else { r with m := r.m.set d.toNat x d.isLt }

/-- A vector register. -/
def Regs.getV (r : Regs) (a : VReg) : VWord := r.v[a.toNat]'a.isLt
/-- A write of a vector register. -/
def Regs.setV (r : Regs) (d : VReg) (x : VWord) : Regs := { r with v := r.v.set d.toNat x d.isLt }

/-- A reduction latch. -/
def Regs.getQ (r : Regs) (a : QReg) : RedLatch := r.q[a.toNat]'a.isLt
/-- A write of a reduction latch. -/
def Regs.setQ (r : Regs) (d : QReg) (x : RedLatch) : Regs := { r with q := r.q.set d.toNat x d.isLt }

/-- A stream descriptor. -/
def Regs.getD (r : Regs) (a : DReg) : Desc := r.d[a.toNat]'a.isLt
/-- A write of a stream descriptor. -/
def Regs.setD (r : Regs) (k : DReg) (x : Desc) : Regs := { r with d := r.d.set k.toNat x k.isLt }

/-- An accumulator tile. -/
def Regs.getC (r : Regs) (a : AccReg) : AccWord := r.c[a.toNat]'a.isLt
/-- A write of an accumulator tile. -/
def Regs.setC (r : Regs) (d : AccReg) (x : AccWord) : Regs := { r with c := r.c.set d.toNat x d.isLt }

/-- The scalar register an instruction reads. -/
def State.rdS (s : State) (a : SReg) : Word := s.src.getS a
/-- The predicate an instruction reads. -/
def State.rdP (s : State) (a : PReg) : Bool := s.src.getP a
/-- The vector register an instruction reads. -/
def State.rdV (s : State) (a : VReg) : VWord := s.src.getV a
/-- The mask an instruction reads. -/
def State.rdM (s : State) (a : MReg) : MWord := s.src.getM a
/-- The reduction latch an instruction reads. -/
def State.rdQ (s : State) (a : QReg) : RedLatch := s.src.getQ a
/-- The descriptor an instruction reads. -/
def State.rdD (s : State) (a : DReg) : Desc := s.src.getD a

/-- Write a scalar register. -/
def State.wrS (s : State) (d : SReg) (x : Word) : State := s.modRegs (·.setS d x)
/-- Write a predicate. -/
def State.wrP (s : State) (d : PReg) (x : Bool) : State := s.modRegs (·.setP d x)
/-- Write a vector register. -/
def State.wrV (s : State) (d : VReg) (x : VWord) : State := s.modRegs (·.setV d x)
/-- Write a mask register. -/
def State.wrM (s : State) (d : MReg) (x : MWord) : State := s.modRegs (·.setM d x)
/-- Write a reduction latch. -/
def State.wrQ (s : State) (d : QReg) (x : RedLatch) : State := s.modRegs (·.setQ d x)
/-- Write a stream descriptor. -/
def State.wrD (s : State) (k : DReg) (x : Desc) : State := s.modRegs (·.setD k x)

/-- Sets sticky bits of `FPFLAGS`, and notes them for a clear in the same bundle (R21, R188). -/
def State.raise (s : State) (f : Flags) : State :=
  (s.modCtl fun c => { c with fpflags := c.fpflags ||| f }).modIssue fun i => { i with raised := (i.slot, f) :: i.raised }

/-- What follows a bundle at `a` without a taken transfer, when the bundle after it is `next`: the next address and the
loop counts under the rules of R82. -/
def loopStep (a next : Addr48) (l0 l1 : LoopRegs) : Addr48 × BitVec 32 × BitVec 32 :=
  let outer (c1 : BitVec 32) : Addr48 × BitVec 32 × BitVec 32 :=
    if l0.lc != 0 && a == l0.le then (if l0.lc - 1 != 0 then (l0.ls, l0.lc - 1, c1) else (next, 0, c1))
    else (next, l0.lc, c1)
  if l1.lc != 0 && a == l1.le then (if l1.lc - 1 != 0 then (l1.ls, l0.lc, l1.lc - 1) else outer 0) else outer l1.lc

/-- The registers the bundle of a wait read. -/
def Wait.src (w : Wait) : Regs := w.issue.src.getD .reset
/-- The slot of a wait. -/
def Wait.slot (w : Wait) : Nat := w.issue.slot

/-- The condition of a branch, call or selection: the predicate, inverted under `neg` (R69, R78). -/
def State.cond (s : State) (q : PReg) (neg : Bool) : Bool := s.rdP q ^^ neg

/-- The word of R48: the slot word above the slot index. -/
def State.whereWord (s : State) : Word := s.t.issue.word ++ BitVec.ofNat 32 s.t.issue.slot

end Sys2Proof.Machine
end

