-- ==== Sys2Proof/Machine/Flags.lean ====
section
/-! DEFINITION. The rounding mode an instruction resolves to, and the flags a result sets (R44, R181, R183, R188). -/

namespace Sys2Proof.Machine

/-- The mode a static code names, and the one dynamic code resolves to, from a field that holds 0 to 4 (R44, R181). -/
def modeOf (seed : BitVec 32) (dyn : Nat) : RM → Mode
  | .rne => .rne
  | .rtz => .rtz
  | .rdn => .rdn
  | .rup => .rup
  | .sr => .sr seed
  | .dyn =>
    match dyn with
    | 0 => .rne
    | 1 => .rtz
    | 2 => .rdn
    | 3 => .rup
    | _ => .sr seed

/-- The mode of scalar and vector arithmetic: `RMODE`.ARITH under the dynamic code (R181). -/
def State.arithMode (s : State) (r : RM) : Mode := modeOf 0 s.src.ctl.rArith.toNat r

/-- Whether a conversion rounds stochastically (R181). -/
def State.isSR (s : State) (r : RM) : Bool :=
  match r with
  | .sr => true
  | .dyn => decide (4 ≤ s.src.ctl.rCvt.toNat)
  | _ => false

/-- The mode of a conversion under a state of `SRSEED` already stepped (R181, R183). -/
def State.cvtMode (s : State) (r : RM) (seed : BitVec 32) : Mode := modeOf seed s.src.ctl.rCvt.toNat r

/-- The seed of a conversion's next element: stepped when it rounds stochastically, whether or not it is exact (R183). -/
def nextSeed (sr : Bool) (seed : BitVec 32) : BitVec 32 := if sr then srStep seed else seed

/-- The state after an instruction's last stochastic step (R184). -/
def State.setSeed (s : State) (seed : BitVec 32) : State := s.modCtl fun c => { c with srseed := seed }

/-- A floating result in a scalar register with its flags (R63, R74). -/
def State.wrFloat (s : State) (d : SReg) (t : ETy) (r : Nat × Flags) : State := (s.wrS d (scalarOf t r.1)).raise r.2

end Sys2Proof.Machine
end

