-- ==== Sys2Proof/Machine/Operands.lean ====
section
/-! DEFINITION. The operands of an instruction as the scoreboard and the destination check see them: the registers it
reads, the registers it names as destinations, and the latency class of its results (R21, R22, R38, R39). -/

namespace Sys2Proof
namespace Machine

/-- `p1` to `p7`. -/
def allPreds : List RegId := (List.range 7).map fun i => .p (BitVec.ofNat 3 (i + 1))

/-- The vector registers of a group (R191). -/
def vGroup (d : VReg) (g : Grp) : List RegId := (List.range g.size).map fun i => .v (d + BitVec.ofNat 5 i)

/-- A source that is a group, or one register broadcast to the group (R191). -/
def vSource (b : VReg) (g : Grp) (bc : Bool) : List RegId := if bc then [.v b] else vGroup b g

/-- The eight scalar registers of a record image (R295); none for `s0`. -/
def sGroup8 (a : SReg) : List RegId := if a = 0 then [] else (List.range 8).map fun i => .s (a + BitVec.ofNat 6 i)

/-- The reduction latches of a mask (R219). -/
def qMask (l : BitVec 4) : List RegId := ((List.range 4).filter fun i => l.getLsbD i).map fun i => .q (BitVec.ofNat 2 i)

/-- The Steep slots of a mask (R244). -/
def slotMask (m : BitVec 4) : List RegId := ((List.range 4).filter fun i => m.getLsbD i).map fun i => .slot (BitVec.ofNat 2 i)

/-- The latency class of a repeatable instruction of the integer array: F2, F4 or F8 (R194). -/
def fInt : Grp → Nat
  | .g1 => 2 | .g2 => 4 | .g4 => 8
/-- The latency class of a repeatable multiply: F4, or F8 for a group (R194). -/
def fMul : Grp → Nat
  | .g1 => 4 | .g2 => 8 | .g4 => 8

/-- The vector units (R194, R225). -/
inductive VUnit where
  | int | float | permute | mask | special | reduce | matchUnit
deriving DecidableEq, Repr

/-- The number of a vector unit. -/
def VUnit.ix : VUnit → Fin 7
  | .int => 0 | .float => 1 | .permute => 2 | .mask => 3 | .special => 4 | .reduce => 5 | .matchUnit => 6

end Machine
open Machine

/-- The registers a slot instruction reads as sources (R21, R39), in the order its entry names them. -/
def Instr.reads : Instr → List RegId
  | .noOpBundle _ => []
  | .paddingHeader _ => []
  | .add _ a b => [.s a] ++ [.s b]
  | .addi _ a _ => [.s a]
  | .sub _ a b => [.s a] ++ [.s b]
  | .and _ a b => [.s a] ++ [.s b]
  | .andi _ a _ => [.s a]
  | .or _ a b => [.s a] ++ [.s b]
  | .ori _ a _ => [.s a]
  | .xor _ a b => [.s a] ++ [.s b]
  | .xori _ a _ => [.s a]
  | .shl _ a b => [.s a] ++ [.s b]
  | .shli _ a _ => [.s a]
  | .shr _ a b => [.s a] ++ [.s b]
  | .shri _ a _ => [.s a]
  | .sra _ a b => [.s a] ++ [.s b]
  | .srai _ a _ => [.s a]
  | .min _ a b => [.s a] ++ [.s b]
  | .max _ a b => [.s a] ++ [.s b]
  | .minn _ a b => [.s a] ++ [.s b]
  | .maxn _ a b => [.s a] ++ [.s b]
  | .addx _ a b _ => [.s a] ++ [.s b]
  | .movi _ _ => []
  | .movhi d _ => [.s d]
  | .bfx _ a _ _ => [.s a]
  | .bfxs _ a _ _ => [.s a]
  | .bfi d a _ _ => [.s a] ++ [.s d]
  | .clz _ a => [.s a]
  | .ctz _ a => [.s a]
  | .popc _ a => [.s a]
  | .cmp _ _ a b => [.s a] ++ [.s b]
  | .cmpi _ _ a _ => [.s a]
  | .sel _ a b _ q => [.s a] ++ [.s b] ++ [.p q]
  | .plog _ pa pb _ => [.p pa] ++ [.p pb]
  | .movp _ => allPreds
  | .movpSet a => [.s a]
  | .mul _ a b => [.s a] ++ [.s b]
  | .mulh _ a b => [.s a] ++ [.s b]
  | .mulhn _ a b => [.s a] ++ [.s b]
  | .div _ a b => [.s a] ++ [.s b]
  | .divn _ a b => [.s a] ++ [.s b]
  | .rem _ a b => [.s a] ++ [.s b]
  | .remn _ a b => [.s a] ++ [.s b]
  | .sfadd _ a b _ _ => [.s a] ++ [.s b]
  | .sfsub _ a b _ _ => [.s a] ++ [.s b]
  | .sfmul _ a b _ _ => [.s a] ++ [.s b]
  | .sfma d a b _ _ => [.s a] ++ [.s b] ++ [.s d]
  | .sfmin _ a b _ => [.s a] ++ [.s b]
  | .sfmax _ a b _ => [.s a] ++ [.s b]
  | .sfcmp _ _ a b _ => [.s a] ++ [.s b]
  | .sfcvt _ a _ _ _ => [.s a]
  | .br q _ _ => [.p q]
  | .brp q _ _ => [.p q]
  | .jr a _ q => [.s a] ++ [.p q]
  | .call q _ _ => [.p q]
  | .callr a _ q => [.s a] ++ [.p q]
  | .ret a _ q => [.s a] ++ [.p q]
  | .loop _ a _ => [.s a]
  | .loopi _ _ _ => []
  | .brk _ => []
  | .movc _ cr => [.cr cr]
  | .movcw a _ => [.s a]
  | .spawn a => sGroup8 a
  | .spawng a b => [.s a] ++ [.s b]
  | .jinit _ a => sGroup8 a
  | .qinit a b => [.s a] ++ [.s b]
  | .jwait a => [.s a]
  | .jwaitHere a => [.s a]
  | .yield => []
  | .endTask => []
  | .hold => []
  | .unhold => []
  | .waitt a _ => [.s a]
  | .barg => []
  | .sysc _ => []
  | .trap _ => []
  | .rett a b => [.s a] ++ [.s b]
  | .rettSkip a b => [.s a] ++ [.s b]
  | .sleepCg => []
  | .sleepRetain => []
  | .sleepOff => []
  | .wake a => [.s a]
  | .ckpt _ => []
  | .savex _ => []
  | .restx a => [.s a]
  | .restxKeep a => [.s a]
  | .restxDrop a => [.s a]
  | .tlbinvPage a b _ => [.s a] ++ [.s b]
  | .tlbinvAsid b _ => [.s b]
  | .tlbinvAll _ => []
  | .icinv _ => []
  | .abort => []
  | .ld _ _ b _ _ _ => [.s b]
  | .st _ d b _ _ => [.s d] ++ [.s b]
  | .ldx _ _ b i _ _ _ => [.s b] ++ [.s i]
  | .stx _ d b i _ _ => [.s d] ++ [.s b] ++ [.s i]
  | .vld _ _ b _ => [.s b]
  | .vst _ d b _ => [.v d] ++ [.s b]
  | .vlds _ _ b i _ mk => [.s b] ++ [.s i] ++ [.m (mk.zeroExtend 3)]
  | .vsts _ d b i _ mk => [.v d] ++ [.s b] ++ [.s i] ++ [.m (mk.zeroExtend 3)]
  | .vldx _ _ b i _ _ mk => [.s b] ++ [.v i] ++ [.m (mk.zeroExtend 3)]
  | .vstx _ d b i _ _ mk => [.v d] ++ [.s b] ++ [.v i] ++ [.m (mk.zeroExtend 3)]
  | .vldd _ k i mk => [.d k] ++ [.s i] ++ [.m mk]
  | .vstd d k i mk => [.v d] ++ [.d k] ++ [.s i] ++ [.m mk]
  | .ldfe _ _ b _ _ => [.s b]
  | .ldfeV _ _ b _ _ => [.s b]
  | .ldfec _ _ b _ _ => [.s b]
  | .ldfecV _ _ b _ _ => [.s b]
  | .stfe _ d b _ _ => [.s d] ++ [.s b]
  | .stfeV _ d b _ _ => [.v d] ++ [.s b]
  | .feset _ b i => [.s b] ++ [.s i]
  | .feclr _ b i => [.s b] ++ [.s i]
  | .amo _ d b _ _ _ _ => [.s d] ++ [.s b]
  | .amof _ d b _ _ _ _ => [.s d] ++ [.s b]
  | .cas _ d b _ _ _ => [.s d] ++ [.s (d+1)] ++ [.s b]
  | .vamo _ d b _ _ _ _ => [.v d] ++ [.s b]
  | .fence _ _ => []
  | .stp _ d b _ _ => [.s d] ++ [.s b]
  | .vstp _ d b _ => [.v d] ++ [.s b]
  | .contrib d i _ => [.v d] ++ [.s i]
  | .pipep d _ => [.v d]
  | .pipeg _ _ => []
  | .pref _ _ b _ => [.s b]
  | .vpark d _ _ => [.v d]
  | .vunpark _ _ _ c => [.c c]
  | .dset d _ _ => [.s d]
  | .dsetImg _ d _ => [.s d]
  | .dget _ k _ => [.d k]
  | .dgetImg _ d k => [.d k] ++ [.s d]
  | .vadd d a b _ mk g bc => vGroup a g ++ vSource b g bc ++ [.m mk] ++ vGroup d g
  | .vsub d a b _ mk g bc => vGroup a g ++ vSource b g bc ++ [.m mk] ++ vGroup d g
  | .vadds d a b _ mk g bc => vGroup a g ++ vSource b g bc ++ [.m mk] ++ vGroup d g
  | .vsubs d a b _ mk g bc => vGroup a g ++ vSource b g bc ++ [.m mk] ++ vGroup d g
  | .vmul d a b _ mk g bc => vGroup a g ++ vSource b g bc ++ [.m mk] ++ vGroup d g
  | .vmulh d a b _ mk g bc => vGroup a g ++ vSource b g bc ++ [.m mk] ++ vGroup d g
  | .vmulw d a b _ mk _ => [.v a] ++ [.v b] ++ [.m mk] ++ vGroup d .g2
  | .vmac d a b _ mk g bc => vGroup a g ++ vSource b g bc ++ [.m mk] ++ vGroup d g
  | .vmacw d a b _ mk _ => [.v a] ++ [.v b] ++ [.m mk] ++ vGroup d .g2
  | .vabsd d a b _ mk g bc => vGroup a g ++ vSource b g bc ++ [.m mk] ++ vGroup d g
  | .vavg d a b _ mk g bc => vGroup a g ++ vSource b g bc ++ [.m mk] ++ vGroup d g
  | .vmin d a b _ mk g bc => vGroup a g ++ vSource b g bc ++ [.m mk] ++ vGroup d g
  | .vmax d a b _ mk g bc => vGroup a g ++ vSource b g bc ++ [.m mk] ++ vGroup d g
  | .vand d a b _ mk g bc => vGroup a g ++ vSource b g bc ++ [.m mk] ++ vGroup d g
  | .vor d a b _ mk g bc => vGroup a g ++ vSource b g bc ++ [.m mk] ++ vGroup d g
  | .vxor d a b _ mk g bc => vGroup a g ++ vSource b g bc ++ [.m mk] ++ vGroup d g
  | .vandn d a b _ mk g bc => vGroup a g ++ vSource b g bc ++ [.m mk] ++ vGroup d g
  | .vshl d a b _ mk g bc => vGroup a g ++ vSource b g bc ++ [.m mk] ++ vGroup d g
  | .vshr d a b _ mk g bc => vGroup a g ++ vSource b g bc ++ [.m mk] ++ vGroup d g
  | .vsra d a b _ mk g bc => vGroup a g ++ vSource b g bc ++ [.m mk] ++ vGroup d g
  | .vclz d a _ mk g => vGroup a g ++ [.m mk] ++ vGroup d g
  | .vpopc d a _ mk g => vGroup a g ++ [.m mk] ++ vGroup d g
  | .vcmp _ _ a b _ mk => [.v a] ++ [.v b] ++ [.m mk]
  | .vsel _ a b _ mk g bc => vGroup a g ++ vSource b g bc ++ [.m mk]
  | .vfadd d a b _ mk _ => [.v a] ++ [.v b] ++ [.m mk] ++ [.v d]
  | .vfsub d a b _ mk _ => [.v a] ++ [.v b] ++ [.m mk] ++ [.v d]
  | .vfmul d a b _ mk _ => [.v a] ++ [.v b] ++ [.m mk] ++ [.v d]
  | .vfma d a b _ mk _ => [.v a] ++ [.v b] ++ [.m mk] ++ [.v d]
  | .vfmin d a b _ mk => [.v a] ++ [.v b] ++ [.m mk] ++ [.v d]
  | .vfmax d a b _ mk => [.v a] ++ [.v b] ++ [.m mk] ++ [.v d]
  | .vfsgn d a b _ mk _ => [.v a] ++ [.v b] ++ [.m mk] ++ [.v d]
  | .vfcmp _ _ a b _ mk => [.v a] ++ [.v b] ++ [.m mk]
  | .vfclass d a _ mk => [.v a] ++ [.m mk] ++ [.v d]
  | .vcvt d a _ _ mk _ => [.v a] ++ [.m mk] ++ [.v d]
  | .vcvtRes d a _ _ q _ => [.v a] ++ [.q q] ++ [.v d]
  | .vpack d a _ mk _ x => vGroup a x.grp ++ [.m mk] ++ [.v d]
  | .vunpack d a _ mk x => [.v a] ++ [.m mk] ++ vGroup d x.grp
  | .vperm d a b _ mk => [.v a] ++ [.v b] ++ [.m mk] ++ [.v d]
  | .vperm2 d a b _ mk => vGroup a .g2 ++ [.v b] ++ [.m mk] ++ [.v d]
  | .vslide d a s _ mk _ => [.v a] ++ [.s s] ++ [.m mk] ++ [.v d]
  | .vrot d a s _ mk _ => [.v a] ++ [.s s] ++ [.m mk] ++ [.v d]
  | .vbcast d s _ mk => [.s s] ++ [.m mk] ++ [.v d]
  | .vbcastEl d a s _ mk => [.v a] ++ [.s s] ++ [.m mk] ++ [.v d]
  | .vextr _ a _ _ => [.v a]
  | .vins d _ s _ => [.s s] ++ [.v d]
  | .viota _ _ mk => [.m mk]
  | .viotaIdx _ _ => []
  | .vcompress _ a _ mk => [.v a] ++ [.m mk]
  | .vexpand d a _ mk => [.v a] ++ [.m mk] ++ [.v d]
  | .vmov d a _ mk g bc => vSource a g bc ++ [.m mk] ++ vGroup d g
  | .vzip _ a b _ => [.v a] ++ [.v b]
  | .vunzip _ a _ => vGroup a .g2
  | .mlog _ a b _ => [.m a] ++ [.m b]
  | .mpopc a _ _ mk => [.m a] ++ [.m mk]
  | .mfirst a _ _ mk _ => [.m a] ++ [.m mk]
  | .mfromNz _ a _ mk => [.v a] ++ [.m mk]
  | .mfromPre _ s _ mk => [.s s] ++ [.m mk]
  | .mfromSuf _ s _ mk => [.s s] ++ [.m mk]
  | .vexp2 d a _ mk => [.v a] ++ [.m mk] ++ [.v d]
  | .vlog2 d a _ mk => [.v a] ++ [.m mk] ++ [.v d]
  | .vrcp d a _ mk => [.v a] ++ [.m mk] ++ [.v d]
  | .vrsqrt d a _ mk => [.v a] ++ [.m mk] ++ [.v d]
  | .vsqrt d a _ mk => [.v a] ++ [.m mk] ++ [.v d]
  | .vsincos d a _ mk _ => [.v a] ++ [.m mk] ++ [.v d]
  | .vtanh d a _ mk => [.v a] ++ [.m mk] ++ [.v d]
  | .redSum q a _ mk _ => [.v a] ++ [.m mk] ++ [.q q]
  | .redMax q a b _ mk _ => [.v a] ++ [.v b] ++ [.m mk] ++ [.q q]
  | .redmvGet q _ _ => [.q q]
  | .redmvIdx q _ => [.q q]
  | .redmvAdd q qa => [.q q] ++ [.q qa]
  | .redmvSet q s => [.s s] ++ [.q q]
  | .redclr _ _ => []
  | .vcvtsxTo _ a _ mk _ => [.v a] ++ [.m mk]
  | .vcvtsxFrom d a _ _ mk _ => [.v a] ++ [.m mk] ++ [.v d]
  | .vmatch _ a b _ mk _ => [.v a] ++ [.v b] ++ [.m mk]
  | .mshape _ => []
  | .mldw _ k s => [.d k] ++ [.s s]
  | .mldwExpand _ k _ s _ _ => [.d k] ++ [.s s]
  | .mma _ l k s _ => [.d k] ++ [.s s] ++ [.w l]
  | .mmaAbsorb _ l k _ s _ _ => [.d k] ++ [.s s] ++ [.w l]
  | .mzero _ => []
  | .mdrain c k s _ _ _ => [.c c] ++ [.d k] ++ [.s s]
  | .msync => []
  | .cpy _ da db => [.d da] ++ [.d db]
  | .cpyPeer _ da db s => [.d da] ++ [.d db] ++ [.s s]
  | .cpym _ da db s => [.d da] ++ [.d db] ++ [.s s]
  | .gath _ da s _ _ => [.d da] ++ [.s s] ++ [.s (s+1)]
  | .gathList _ da db s _ _ => [.d da] ++ [.d db] ++ [.s s] ++ [.s (s+1)]
  | .kvput _ db s => [.d db] ++ [.s s] ++ [.s (s+1)]
  | .kvalloc _ s => [.s s]
  | .kvgrow _ s => [.s s]
  | .kvfree _ s => [.s s]
  | .coll _ da db s _ => [.d da] ++ [.d db] ++ [.s s]
  | .strm _ da db => [.d da] ++ [.d db]
  | .strmTag _ da db => [.d da] ++ [.d db]
  | .steepld _ s _ => [.s s]
  | .mupdBegin _ s => [.s s]
  | .mupdWrite _ db s => [.d db] ++ [.s s]
  | .mupdCommit _ s => [.s s]
  | .mupdAbort _ s => [.s s]
  | .engqStat _ s _ => [.s s]
  | .engqVmask _ s _ => [.s s]
  | .engqDepth _ _ => []
  | .engqLast _ _ => []
  | .resultWriteback _ => []
  | .asyncCauseTaken _ => []
  | .feTagOperation _ => []
  | .feTimeout _ => []
  | .pipeWaitComplete _ => []
  | .pipeTimeout _ => []
  | .barrierEpisodeComplete _ _ => []
  | .gangYieldRendezvous _ _ => []
  | .holdOverrun _ => []
  | .engineCommandStart _ _ => []
  | .engineCommandComplete _ _ => []
  | .kvMapCommand _ _ => []
  | .kvgrowChunkMove _ => []
  | .strmTagTimeout _ => []
  | .collectiveAllArrived _ => []
  | .collectiveTimeout _ => []
  | .mmaRowCommit _ => []
  | .mldwLatchLoaded _ _ => []
  | .mdrainComplete _ => []
  | .steepldSlotLoaded _ => []
  | .bandIdleGate _ _ => []
  | .bandWakeComplete _ _ => []
  | .parknextRead _ => []
  | .parkansRetry _ _ => []
  | .parkansFail _ _ => []
  | .parkTimeout _ _ => []
  | .spawnJoinCheck _ => []
  | .spawnCheckReturn _ => []
  | .spawnRecordEnqueue _ => []
  | .joinEndArrival _ => []
  | .graceExpiry _ => []
  | .killNotice _ => []
  | .killTaken _ => []
  | .agingStep _ _ => []
  | .steal _ => []
  | .gangReservation _ => []
  | .quantumExpiry _ => []
  | .deepPreemption _ => []
  | .quotaStopTimeout _ => []
  | .quotaCharge _ _ => []
  | .quotaRefill _ => []
  | .boostEdge _ => []
  | .frequencyRequest _ _ => []
  | .railStep _ => []
  | .thermalCapStep _ _ => []
  | .overCurrent _ => []
  | .idleTargetReached _ => []
  | .tileWakeComplete _ => []
  | .notify _ _ => []
  | .launchRecordFetch _ => []
  | .stampRefetch _ => []
  | .cqhead _ _ => []
  | .contextActivate _ => []
  | .contextEnd _ => []
  | .contextEndComplete _ => []
  | .segmentOwnerWrite _ _ _ => []
  | .segmentZeroComplete _ _ => []
  | .caddyRegionWrite _ _ _ _ => []
  | .controlRegionWrite _ _ => []
  | .hostApertureAccess _ _ => []
  | .peerWriteInbound _ _ _ => []
  | .attestationGo => []
  | .pwrcmdWarmOff => []
  | .pwrcmdColdOff => []
  | .powerFailWarning => []
  | .peatSave _ => []
  | .modulePowerDown _ => []
  | .powerRestore => []
  | .channelTrained _ => []
  | .clusterReady _ => []
  | .cdwrReady _ => []
  | .tileResume _ => []
  | .mupdComplete _ => []
  | .retrainWindowStart _ => []
  | .retrainWindowEnd _ _ => []
  | .ageingReplan _ _ _ => []
  | .timingStretch _ => []
  | .marginVoltageRaise _ => []
  | .caddyPatrol _ _ _ => []
  | .writeReachesHome _ _ => []
  | .yaltanLinkFailure _ => []
  | .yaltanLinkReady _ => []

/-- The registers a slot instruction names as destinations (R21). -/
def Instr.writes : Instr → List RegId
  | .noOpBundle _ => []
  | .paddingHeader _ => []
  | .add d _ _ => [.s d]
  | .addi d _ _ => [.s d]
  | .sub d _ _ => [.s d]
  | .and d _ _ => [.s d]
  | .andi d _ _ => [.s d]
  | .or d _ _ => [.s d]
  | .ori d _ _ => [.s d]
  | .xor d _ _ => [.s d]
  | .xori d _ _ => [.s d]
  | .shl d _ _ => [.s d]
  | .shli d _ _ => [.s d]
  | .shr d _ _ => [.s d]
  | .shri d _ _ => [.s d]
  | .sra d _ _ => [.s d]
  | .srai d _ _ => [.s d]
  | .min d _ _ => [.s d]
  | .max d _ _ => [.s d]
  | .minn d _ _ => [.s d]
  | .maxn d _ _ => [.s d]
  | .addx d _ _ _ => [.s d]
  | .movi d _ => [.s d]
  | .movhi d _ => [.s d]
  | .bfx d _ _ _ => [.s d]
  | .bfxs d _ _ _ => [.s d]
  | .bfi d _ _ _ => [.s d]
  | .clz d _ => [.s d]
  | .ctz d _ => [.s d]
  | .popc d _ => [.s d]
  | .cmp pd _ _ _ => [.p pd]
  | .cmpi pd _ _ _ => [.p pd]
  | .sel d _ _ _ _ => [.s d]
  | .plog pd _ _ _ => [.p pd]
  | .movp d => [.s d]
  | .movpSet _ => allPreds
  | .mul d _ _ => [.s d]
  | .mulh d _ _ => [.s d]
  | .mulhn d _ _ => [.s d]
  | .div d _ _ => [.s d]
  | .divn d _ _ => [.s d]
  | .rem d _ _ => [.s d]
  | .remn d _ _ => [.s d]
  | .sfadd d _ _ _ _ => [.s d]
  | .sfsub d _ _ _ _ => [.s d]
  | .sfmul d _ _ _ _ => [.s d]
  | .sfma d _ _ _ _ => [.s d]
  | .sfmin d _ _ _ => [.s d]
  | .sfmax d _ _ _ => [.s d]
  | .sfcmp pd _ _ _ _ => [.p pd]
  | .sfcvt d _ _ _ _ => [.s d]
  | .br _ _ _ => []
  | .brp _ _ _ => []
  | .jr _ _ _ => []
  | .call _ _ _ => [.s 63]
  | .callr _ _ _ => [.s 63]
  | .ret _ _ _ => []
  | .loop _ _ _ => []
  | .loopi _ _ _ => []
  | .brk _ => []
  | .movc d _ => [.s d]
  | .movcw _ cr => [.cr cr]
  | .spawn _ => []
  | .spawng _ _ => []
  | .jinit d _ => [.s d]
  | .qinit _ _ => []
  | .jwait _ => []
  | .jwaitHere _ => []
  | .yield => []
  | .endTask => []
  | .hold => []
  | .unhold => []
  | .waitt _ _ => []
  | .barg => []
  | .sysc _ => []
  | .trap _ => []
  | .rett _ _ => []
  | .rettSkip _ _ => []
  | .sleepCg => []
  | .sleepRetain => []
  | .sleepOff => []
  | .wake _ => []
  | .ckpt d => [.s d]
  | .savex d => [.s d]
  | .restx _ => []
  | .restxKeep _ => []
  | .restxDrop _ => []
  | .tlbinvPage _ _ _ => []
  | .tlbinvAsid _ _ => []
  | .tlbinvAll _ => []
  | .icinv _ => []
  | .abort => []
  | .ld _ d _ _ _ _ => [.s d]
  | .st _ _ _ _ _ => []
  | .ldx _ d _ _ _ _ _ => [.s d]
  | .stx _ _ _ _ _ _ => []
  | .vld _ d _ _ => [.v d]
  | .vst _ _ _ _ => []
  | .vlds _ d _ _ _ _ => [.v d]
  | .vsts _ _ _ _ _ _ => []
  | .vldx _ d _ _ _ _ _ => [.v d]
  | .vstx _ _ _ _ _ _ _ => []
  | .vldd d _ _ _ => [.v d]
  | .vstd _ _ _ _ => []
  | .ldfe _ d _ _ _ => [.s d]
  | .ldfeV _ d _ _ _ => [.v d]
  | .ldfec _ d _ _ _ => [.s d]
  | .ldfecV _ d _ _ _ => [.v d]
  | .stfe _ _ _ _ _ => []
  | .stfeV _ _ _ _ _ => []
  | .feset _ _ _ => []
  | .feclr _ _ _ => []
  | .amo _ d _ _ _ _ _ => [.s d]
  | .amof _ d _ _ _ _ _ => [.s d]
  | .cas _ d _ _ _ _ => [.s d]
  | .vamo _ d _ _ _ _ _ => [.v d]
  | .fence _ _ => []
  | .stp _ _ _ _ _ => []
  | .vstp _ _ _ _ => []
  | .contrib _ _ _ => []
  | .pipep _ _ => []
  | .pipeg d _ => [.v d]
  | .pref _ _ _ _ => []
  | .vpark _ _ c => [.c c]
  | .vunpark d _ _ _ => [.v d]
  | .dset _ k _ => [.d k]
  | .dsetImg _ _ k => [.d k]
  | .dget d _ _ => [.s d]
  | .dgetImg _ _ _ => []
  | .vadd d _ _ _ _ g _ => vGroup d g
  | .vsub d _ _ _ _ g _ => vGroup d g
  | .vadds d _ _ _ _ g _ => vGroup d g
  | .vsubs d _ _ _ _ g _ => vGroup d g
  | .vmul d _ _ _ _ g _ => vGroup d g
  | .vmulh d _ _ _ _ g _ => vGroup d g
  | .vmulw d _ _ _ _ _ => vGroup d .g2
  | .vmac d _ _ _ _ g _ => vGroup d g
  | .vmacw d _ _ _ _ _ => vGroup d .g2
  | .vabsd d _ _ _ _ g _ => vGroup d g
  | .vavg d _ _ _ _ g _ => vGroup d g
  | .vmin d _ _ _ _ g _ => vGroup d g
  | .vmax d _ _ _ _ g _ => vGroup d g
  | .vand d _ _ _ _ g _ => vGroup d g
  | .vor d _ _ _ _ g _ => vGroup d g
  | .vxor d _ _ _ _ g _ => vGroup d g
  | .vandn d _ _ _ _ g _ => vGroup d g
  | .vshl d _ _ _ _ g _ => vGroup d g
  | .vshr d _ _ _ _ g _ => vGroup d g
  | .vsra d _ _ _ _ g _ => vGroup d g
  | .vclz d _ _ _ g => vGroup d g
  | .vpopc d _ _ _ g => vGroup d g
  | .vcmp _ d _ _ _ _ => [.m d]
  | .vsel d _ _ _ _ g _ => vGroup d g
  | .vfadd d _ _ _ _ _ => [.v d]
  | .vfsub d _ _ _ _ _ => [.v d]
  | .vfmul d _ _ _ _ _ => [.v d]
  | .vfma d _ _ _ _ _ => [.v d]
  | .vfmin d _ _ _ _ => [.v d]
  | .vfmax d _ _ _ _ => [.v d]
  | .vfsgn d _ _ _ _ _ => [.v d]
  | .vfcmp _ d _ _ _ _ => [.m d]
  | .vfclass d _ _ _ => [.v d]
  | .vcvt d _ _ _ _ _ => [.v d]
  | .vcvtRes d _ _ _ q _ => [.v d] ++ [.q q]
  | .vpack d _ _ _ _ _ => [.v d]
  | .vunpack d _ _ _ x => vGroup d x.grp
  | .vperm d _ _ _ _ => [.v d]
  | .vperm2 d _ _ _ _ => [.v d]
  | .vslide d _ _ _ _ _ => [.v d]
  | .vrot d _ _ _ _ _ => [.v d]
  | .vbcast d _ _ _ => [.v d]
  | .vbcastEl d _ _ _ _ => [.v d]
  | .vextr _ _ s _ => [.s s]
  | .vins d _ _ _ => [.v d]
  | .viota d _ _ => [.v d]
  | .viotaIdx d _ => [.v d]
  | .vcompress d _ _ _ => [.v d]
  | .vexpand d _ _ _ => [.v d]
  | .vmov d _ _ _ g _ => vGroup d g
  | .vzip d _ _ _ => vGroup d .g2
  | .vunzip d _ _ => vGroup d .g2
  | .mlog d _ _ _ => [.m d]
  | .mpopc _ s _ _ => [.s s]
  | .mfirst _ s _ _ _ => [.s s]
  | .mfromNz d _ _ _ => [.m d]
  | .mfromPre d _ _ _ => [.m d]
  | .mfromSuf d _ _ _ => [.m d]
  | .vexp2 d _ _ _ => [.v d]
  | .vlog2 d _ _ _ => [.v d]
  | .vrcp d _ _ _ => [.v d]
  | .vrsqrt d _ _ _ => [.v d]
  | .vsqrt d _ _ _ => [.v d]
  | .vsincos d _ _ _ _ => [.v d]
  | .vtanh d _ _ _ => [.v d]
  | .redSum q _ _ _ _ => [.q q]
  | .redMax q _ _ _ _ _ => [.q q]
  | .redmvGet _ s _ => [.s s]
  | .redmvIdx _ s => [.s s]
  | .redmvAdd q _ => [.q q]
  | .redmvSet q _ => [.q q]
  | .redclr l _ => qMask l
  | .vcvtsxTo d _ _ _ _ => [.v d]
  | .vcvtsxFrom d _ _ _ _ _ => [.v d]
  | .vmatch d _ _ _ _ _ => [.m d]
  | .mshape _ => [.cr 0x20]
  | .mldw l _ _ => [.w l]
  | .mldwExpand l _ _ _ _ _ => [.w l]
  | .mma c _ _ _ _ => [.c c]
  | .mmaAbsorb c _ _ _ _ _ _ => [.c c]
  | .mzero c => [.c c]
  | .mdrain _ _ _ _ _ _ => []
  | .msync => []
  | .cpy tk _ _ => [.s tk]
  | .cpyPeer tk _ _ _ => [.s tk]
  | .cpym tk _ _ _ => [.s tk]
  | .gath tk _ _ _ _ => [.s tk]
  | .gathList tk _ _ _ _ _ => [.s tk]
  | .kvput tk _ _ => [.s tk]
  | .kvalloc tk _ => [.s tk]
  | .kvgrow tk _ => [.s tk]
  | .kvfree tk _ => [.s tk]
  | .coll tk _ _ _ _ => [.s tk]
  | .strm tk _ _ => [.s tk]
  | .strmTag tk _ _ => [.s tk]
  | .steepld _ _ ms => slotMask ms
  | .mupdBegin tk _ => [.s tk]
  | .mupdWrite tk _ _ => [.s tk]
  | .mupdCommit tk _ => [.s tk]
  | .mupdAbort tk _ => [.s tk]
  | .engqStat d _ _ => [.s d]
  | .engqVmask d _ _ => [.s d]
  | .engqDepth d _ => [.s d]
  | .engqLast d _ => [.s d]
  | .resultWriteback _ => []
  | .asyncCauseTaken _ => []
  | .feTagOperation _ => []
  | .feTimeout _ => []
  | .pipeWaitComplete _ => []
  | .pipeTimeout _ => []
  | .barrierEpisodeComplete _ _ => []
  | .gangYieldRendezvous _ _ => []
  | .holdOverrun _ => []
  | .engineCommandStart _ _ => []
  | .engineCommandComplete _ _ => []
  | .kvMapCommand _ _ => []
  | .kvgrowChunkMove _ => []
  | .strmTagTimeout _ => []
  | .collectiveAllArrived _ => []
  | .collectiveTimeout _ => []
  | .mmaRowCommit _ => []
  | .mldwLatchLoaded _ _ => []
  | .mdrainComplete _ => []
  | .steepldSlotLoaded _ => []
  | .bandIdleGate _ _ => []
  | .bandWakeComplete _ _ => []
  | .parknextRead _ => []
  | .parkansRetry _ _ => []
  | .parkansFail _ _ => []
  | .parkTimeout _ _ => []
  | .spawnJoinCheck _ => []
  | .spawnCheckReturn _ => []
  | .spawnRecordEnqueue _ => []
  | .joinEndArrival _ => []
  | .graceExpiry _ => []
  | .killNotice _ => []
  | .killTaken _ => []
  | .agingStep _ _ => []
  | .steal _ => []
  | .gangReservation _ => []
  | .quantumExpiry _ => []
  | .deepPreemption _ => []
  | .quotaStopTimeout _ => []
  | .quotaCharge _ _ => []
  | .quotaRefill _ => []
  | .boostEdge _ => []
  | .frequencyRequest _ _ => []
  | .railStep _ => []
  | .thermalCapStep _ _ => []
  | .overCurrent _ => []
  | .idleTargetReached _ => []
  | .tileWakeComplete _ => []
  | .notify _ _ => []
  | .launchRecordFetch _ => []
  | .stampRefetch _ => []
  | .cqhead _ _ => []
  | .contextActivate _ => []
  | .contextEnd _ => []
  | .contextEndComplete _ => []
  | .segmentOwnerWrite _ _ _ => []
  | .segmentZeroComplete _ _ => []
  | .caddyRegionWrite _ _ _ _ => []
  | .controlRegionWrite _ _ => []
  | .hostApertureAccess _ _ => []
  | .peerWriteInbound _ _ _ => []
  | .attestationGo => []
  | .pwrcmdWarmOff => []
  | .pwrcmdColdOff => []
  | .powerFailWarning => []
  | .peatSave _ => []
  | .modulePowerDown _ => []
  | .powerRestore => []
  | .channelTrained _ => []
  | .clusterReady _ => []
  | .cdwrReady _ => []
  | .tileResume _ => []
  | .mupdComplete _ => []
  | .retrainWindowStart _ => []
  | .retrainWindowEnd _ _ => []
  | .ageingReplan _ _ _ => []
  | .timingStretch _ => []
  | .marginVoltageRaise _ => []
  | .caddyPatrol _ _ _ => []
  | .writeReachesHome _ _ => []
  | .yaltanLinkFailure _ => []
  | .yaltanLinkReady _ => []

/-- The latency class of an instruction (R38): k for class Fk, 0 for class V; and the 8 cycles for which `MZERO` keeps its
tile busy (R242). -/
def Instr.latency : Instr → Nat
  | .noOpBundle _ => 0
  | .paddingHeader _ => 0
  | .add _ _ _ => 1
  | .addi _ _ _ => 1
  | .sub _ _ _ => 1
  | .and _ _ _ => 1
  | .andi _ _ _ => 1
  | .or _ _ _ => 1
  | .ori _ _ _ => 1
  | .xor _ _ _ => 1
  | .xori _ _ _ => 1
  | .shl _ _ _ => 1
  | .shli _ _ _ => 1
  | .shr _ _ _ => 1
  | .shri _ _ _ => 1
  | .sra _ _ _ => 1
  | .srai _ _ _ => 1
  | .min _ _ _ => 1
  | .max _ _ _ => 1
  | .minn _ _ _ => 1
  | .maxn _ _ _ => 1
  | .addx _ _ _ _ => 1
  | .movi _ _ => 1
  | .movhi _ _ => 1
  | .bfx _ _ _ _ => 1
  | .bfxs _ _ _ _ => 1
  | .bfi _ _ _ _ => 1
  | .clz _ _ => 1
  | .ctz _ _ => 1
  | .popc _ _ => 1
  | .cmp _ _ _ _ => 1
  | .cmpi _ _ _ _ => 1
  | .sel _ _ _ _ _ => 1
  | .plog _ _ _ _ => 1
  | .movp _ => 1
  | .movpSet _ => 1
  | .mul _ _ _ => 4
  | .mulh _ _ _ => 4
  | .mulhn _ _ _ => 4
  | .div _ _ _ => 16
  | .divn _ _ _ => 16
  | .rem _ _ _ => 16
  | .remn _ _ _ => 16
  | .sfadd _ _ _ _ _ => 4
  | .sfsub _ _ _ _ _ => 4
  | .sfmul _ _ _ _ _ => 4
  | .sfma _ _ _ _ _ => 4
  | .sfmin _ _ _ _ => 1
  | .sfmax _ _ _ _ => 1
  | .sfcmp _ _ _ _ _ => 1
  | .sfcvt _ _ _ _ _ => 4
  | .br _ _ _ => 1
  | .brp _ _ _ => 1
  | .jr _ _ _ => 1
  | .call _ _ _ => 1
  | .callr _ _ _ => 1
  | .ret _ _ _ => 1
  | .loop _ _ _ => 1
  | .loopi _ _ _ => 1
  | .brk _ => 1
  | .movc _ _ => 2
  | .movcw _ _ => 1
  | .spawn _ => 1
  | .spawng _ _ => 1
  | .jinit _ _ => 0
  | .qinit _ _ => 0
  | .jwait _ => 0
  | .jwaitHere _ => 0
  | .yield => 0
  | .endTask => 1
  | .hold => 1
  | .unhold => 1
  | .waitt _ _ => 0
  | .barg => 0
  | .sysc _ => 0
  | .trap _ => 1
  | .rett _ _ => 0
  | .rettSkip _ _ => 0
  | .sleepCg => 1
  | .sleepRetain => 1
  | .sleepOff => 1
  | .wake _ => 1
  | .ckpt _ => 0
  | .savex _ => 0
  | .restx _ => 0
  | .restxKeep _ => 0
  | .restxDrop _ => 0
  | .tlbinvPage _ _ _ => 0
  | .tlbinvAsid _ _ => 0
  | .tlbinvAll _ => 0
  | .icinv _ => 0
  | .abort => 1
  | .ld _ _ _ _ _ _ => 0
  | .st _ _ _ _ _ => 1
  | .ldx _ _ _ _ _ _ _ => 0
  | .stx _ _ _ _ _ _ => 1
  | .vld _ _ _ _ => 0
  | .vst _ _ _ _ => 1
  | .vlds _ _ _ _ _ _ => 0
  | .vsts _ _ _ _ _ _ => 1
  | .vldx _ _ _ _ _ _ _ => 0
  | .vstx _ _ _ _ _ _ _ => 1
  | .vldd _ _ _ _ => 0
  | .vstd _ _ _ _ => 1
  | .ldfe _ _ _ _ _ => 0
  | .ldfeV _ _ _ _ _ => 0
  | .ldfec _ _ _ _ _ => 0
  | .ldfecV _ _ _ _ _ => 0
  | .stfe _ _ _ _ _ => 1
  | .stfeV _ _ _ _ _ => 1
  | .feset _ _ _ => 1
  | .feclr _ _ _ => 1
  | .amo _ _ _ _ _ _ _ => 0
  | .amof _ _ _ _ _ _ _ => 0
  | .cas _ _ _ _ _ _ => 0
  | .vamo _ _ _ _ _ _ _ => 0
  | .fence _ _ => 1
  | .stp _ _ _ _ _ => 1
  | .vstp _ _ _ _ => 1
  | .contrib _ _ _ => 1
  | .pipep _ _ => 1
  | .pipeg _ _ => 0
  | .pref _ _ _ _ => 1
  | .vpark _ _ _ => 4
  | .vunpark _ _ _ _ => 4
  | .dset _ _ _ => 1
  | .dsetImg _ _ _ => 0
  | .dget _ _ _ => 2
  | .dgetImg _ _ _ => 1
  | .vadd _ _ _ _ _ g _ => fInt g
  | .vsub _ _ _ _ _ g _ => fInt g
  | .vadds _ _ _ _ _ g _ => fInt g
  | .vsubs _ _ _ _ _ g _ => fInt g
  | .vmul _ _ _ _ _ g _ => fMul g
  | .vmulh _ _ _ _ _ g _ => fMul g
  | .vmulw _ _ _ _ _ _ => 8
  | .vmac _ _ _ _ _ g _ => fMul g
  | .vmacw _ _ _ _ _ _ => 8
  | .vabsd _ _ _ _ _ g _ => fInt g
  | .vavg _ _ _ _ _ g _ => fInt g
  | .vmin _ _ _ _ _ g _ => fInt g
  | .vmax _ _ _ _ _ g _ => fInt g
  | .vand _ _ _ _ _ g _ => fInt g
  | .vor _ _ _ _ _ g _ => fInt g
  | .vxor _ _ _ _ _ g _ => fInt g
  | .vandn _ _ _ _ _ g _ => fInt g
  | .vshl _ _ _ _ _ g _ => fInt g
  | .vshr _ _ _ _ _ g _ => fInt g
  | .vsra _ _ _ _ _ g _ => fInt g
  | .vclz _ _ _ _ g => fInt g
  | .vpopc _ _ _ _ g => fInt g
  | .vcmp _ _ _ _ _ _ => 2
  | .vsel _ _ _ _ _ g _ => fInt g
  | .vfadd _ _ _ _ _ _ => 4
  | .vfsub _ _ _ _ _ _ => 4
  | .vfmul _ _ _ _ _ _ => 4
  | .vfma _ _ _ _ _ _ => 4
  | .vfmin _ _ _ _ _ => 2
  | .vfmax _ _ _ _ _ => 2
  | .vfsgn _ _ _ _ _ _ => 2
  | .vfcmp _ _ _ _ _ _ => 2
  | .vfclass _ _ _ _ => 2
  | .vcvt _ _ _ _ _ _ => 4
  | .vcvtRes _ _ _ _ _ _ => 4
  | .vpack _ _ _ _ _ _ => 4
  | .vunpack _ _ _ _ x => (match x with | .x2 => 4 | .x4 => 8)
  | .vperm _ _ _ _ _ => 4
  | .vperm2 _ _ _ _ _ => 4
  | .vslide _ _ _ _ _ _ => 4
  | .vrot _ _ _ _ _ _ => 4
  | .vbcast _ _ _ _ => 2
  | .vbcastEl _ _ _ _ _ => 2
  | .vextr _ _ _ _ => 2
  | .vins _ _ _ _ => 2
  | .viota _ _ _ => 2
  | .viotaIdx _ _ => 2
  | .vcompress _ _ _ _ => 4
  | .vexpand _ _ _ _ => 4
  | .vmov _ _ _ _ g _ => fInt g
  | .vzip _ _ _ _ => 4
  | .vunzip _ _ _ => 4
  | .mlog _ _ _ _ => 2
  | .mpopc _ _ _ _ => 2
  | .mfirst _ _ _ _ _ => 2
  | .mfromNz _ _ _ _ => 2
  | .mfromPre _ _ _ _ => 2
  | .mfromSuf _ _ _ _ => 2
  | .vexp2 _ _ _ _ => 16
  | .vlog2 _ _ _ _ => 16
  | .vrcp _ _ _ _ => 16
  | .vrsqrt _ _ _ _ => 16
  | .vsqrt _ _ _ _ => 16
  | .vsincos _ _ _ _ _ => 16
  | .vtanh _ _ _ _ => 16
  | .redSum _ _ _ _ _ => 8
  | .redMax _ _ _ _ _ _ => 8
  | .redmvGet _ _ _ => 2
  | .redmvIdx _ _ => 2
  | .redmvAdd _ _ => 8
  | .redmvSet _ _ => 2
  | .redclr _ _ => 1
  | .vcvtsxTo _ _ _ _ _ => 8
  | .vcvtsxFrom _ _ _ _ _ _ => 8
  | .vmatch _ _ _ _ _ _ => 8
  | .mshape _ => 1
  | .mldw _ _ _ => 0
  | .mldwExpand _ _ _ _ _ _ => 0
  | .mma _ _ _ _ _ => 0
  | .mmaAbsorb _ _ _ _ _ _ _ => 0
  | .mzero _ => 8
  | .mdrain _ _ _ _ _ _ => 0
  | .msync => 0
  | .cpy _ _ _ => 0
  | .cpyPeer _ _ _ _ => 0
  | .cpym _ _ _ _ => 0
  | .gath _ _ _ _ _ => 0
  | .gathList _ _ _ _ _ _ => 0
  | .kvput _ _ _ => 0
  | .kvalloc _ _ => 0
  | .kvgrow _ _ => 0
  | .kvfree _ _ => 0
  | .coll _ _ _ _ _ => 0
  | .strm _ _ _ => 0
  | .strmTag _ _ _ => 0
  | .steepld _ _ _ => 0
  | .mupdBegin _ _ => 0
  | .mupdWrite _ _ _ => 0
  | .mupdCommit _ _ => 0
  | .mupdAbort _ _ => 0
  | .engqStat _ _ _ => 0
  | .engqVmask _ _ _ => 0
  | .engqDepth _ _ => 0
  | .engqLast _ _ => 0
  | .resultWriteback _ => 0
  | .asyncCauseTaken _ => 0
  | .feTagOperation _ => 0
  | .feTimeout _ => 0
  | .pipeWaitComplete _ => 0
  | .pipeTimeout _ => 0
  | .barrierEpisodeComplete _ _ => 0
  | .gangYieldRendezvous _ _ => 0
  | .holdOverrun _ => 0
  | .engineCommandStart _ _ => 0
  | .engineCommandComplete _ _ => 0
  | .kvMapCommand _ _ => 0
  | .kvgrowChunkMove _ => 0
  | .strmTagTimeout _ => 0
  | .collectiveAllArrived _ => 0
  | .collectiveTimeout _ => 0
  | .mmaRowCommit _ => 0
  | .mldwLatchLoaded _ _ => 0
  | .mdrainComplete _ => 0
  | .steepldSlotLoaded _ => 0
  | .bandIdleGate _ _ => 0
  | .bandWakeComplete _ _ => 0
  | .parknextRead _ => 0
  | .parkansRetry _ _ => 0
  | .parkansFail _ _ => 0
  | .parkTimeout _ _ => 0
  | .spawnJoinCheck _ => 0
  | .spawnCheckReturn _ => 0
  | .spawnRecordEnqueue _ => 0
  | .joinEndArrival _ => 0
  | .graceExpiry _ => 0
  | .killNotice _ => 0
  | .killTaken _ => 0
  | .agingStep _ _ => 0
  | .steal _ => 0
  | .gangReservation _ => 0
  | .quantumExpiry _ => 0
  | .deepPreemption _ => 0
  | .quotaStopTimeout _ => 0
  | .quotaCharge _ _ => 0
  | .quotaRefill _ => 0
  | .boostEdge _ => 0
  | .frequencyRequest _ _ => 0
  | .railStep _ => 0
  | .thermalCapStep _ _ => 0
  | .overCurrent _ => 0
  | .idleTargetReached _ => 0
  | .tileWakeComplete _ => 0
  | .notify _ _ => 0
  | .launchRecordFetch _ => 0
  | .stampRefetch _ => 0
  | .cqhead _ _ => 0
  | .contextActivate _ => 0
  | .contextEnd _ => 0
  | .contextEndComplete _ => 0
  | .segmentOwnerWrite _ _ _ => 0
  | .segmentZeroComplete _ _ => 0
  | .caddyRegionWrite _ _ _ _ => 0
  | .controlRegionWrite _ _ => 0
  | .hostApertureAccess _ _ => 0
  | .peerWriteInbound _ _ _ => 0
  | .attestationGo => 0
  | .pwrcmdWarmOff => 0
  | .pwrcmdColdOff => 0
  | .powerFailWarning => 0
  | .peatSave _ => 0
  | .modulePowerDown _ => 0
  | .powerRestore => 0
  | .channelTrained _ => 0
  | .clusterReady _ => 0
  | .cdwrReady _ => 0
  | .tileResume _ => 0
  | .mupdComplete _ => 0
  | .retrainWindowStart _ => 0
  | .retrainWindowEnd _ _ => 0
  | .ageingReplan _ _ _ => 0
  | .timingStretch _ => 0
  | .marginVoltageRaise _ => 0
  | .caddyPatrol _ _ _ => 0
  | .writeReachesHome _ _ => 0
  | .yaltanLinkFailure _ => 0
  | .yaltanLinkReady _ => 0

/-- The vector unit an instruction runs on and the cycles it occupies it (R194, R225). -/
def Instr.unit : Instr → Option (VUnit × Nat)
  | .noOpBundle _ => none
  | .paddingHeader _ => none
  | .add _ _ _ => none
  | .addi _ _ _ => none
  | .sub _ _ _ => none
  | .and _ _ _ => none
  | .andi _ _ _ => none
  | .or _ _ _ => none
  | .ori _ _ _ => none
  | .xor _ _ _ => none
  | .xori _ _ _ => none
  | .shl _ _ _ => none
  | .shli _ _ _ => none
  | .shr _ _ _ => none
  | .shri _ _ _ => none
  | .sra _ _ _ => none
  | .srai _ _ _ => none
  | .min _ _ _ => none
  | .max _ _ _ => none
  | .minn _ _ _ => none
  | .maxn _ _ _ => none
  | .addx _ _ _ _ => none
  | .movi _ _ => none
  | .movhi _ _ => none
  | .bfx _ _ _ _ => none
  | .bfxs _ _ _ _ => none
  | .bfi _ _ _ _ => none
  | .clz _ _ => none
  | .ctz _ _ => none
  | .popc _ _ => none
  | .cmp _ _ _ _ => none
  | .cmpi _ _ _ _ => none
  | .sel _ _ _ _ _ => none
  | .plog _ _ _ _ => none
  | .movp _ => none
  | .movpSet _ => none
  | .mul _ _ _ => none
  | .mulh _ _ _ => none
  | .mulhn _ _ _ => none
  | .div _ _ _ => none
  | .divn _ _ _ => none
  | .rem _ _ _ => none
  | .remn _ _ _ => none
  | .sfadd _ _ _ _ _ => none
  | .sfsub _ _ _ _ _ => none
  | .sfmul _ _ _ _ _ => none
  | .sfma _ _ _ _ _ => none
  | .sfmin _ _ _ _ => none
  | .sfmax _ _ _ _ => none
  | .sfcmp _ _ _ _ _ => none
  | .sfcvt _ _ _ _ _ => none
  | .br _ _ _ => none
  | .brp _ _ _ => none
  | .jr _ _ _ => none
  | .call _ _ _ => none
  | .callr _ _ _ => none
  | .ret _ _ _ => none
  | .loop _ _ _ => none
  | .loopi _ _ _ => none
  | .brk _ => none
  | .movc _ _ => none
  | .movcw _ _ => none
  | .spawn _ => none
  | .spawng _ _ => none
  | .jinit _ _ => none
  | .qinit _ _ => none
  | .jwait _ => none
  | .jwaitHere _ => none
  | .yield => none
  | .endTask => none
  | .hold => none
  | .unhold => none
  | .waitt _ _ => none
  | .barg => none
  | .sysc _ => none
  | .trap _ => none
  | .rett _ _ => none
  | .rettSkip _ _ => none
  | .sleepCg => none
  | .sleepRetain => none
  | .sleepOff => none
  | .wake _ => none
  | .ckpt _ => none
  | .savex _ => none
  | .restx _ => none
  | .restxKeep _ => none
  | .restxDrop _ => none
  | .tlbinvPage _ _ _ => none
  | .tlbinvAsid _ _ => none
  | .tlbinvAll _ => none
  | .icinv _ => none
  | .abort => none
  | .ld _ _ _ _ _ _ => none
  | .st _ _ _ _ _ => none
  | .ldx _ _ _ _ _ _ _ => none
  | .stx _ _ _ _ _ _ => none
  | .vld _ _ _ _ => none
  | .vst _ _ _ _ => none
  | .vlds _ _ _ _ _ _ => none
  | .vsts _ _ _ _ _ _ => none
  | .vldx _ _ _ _ _ _ _ => none
  | .vstx _ _ _ _ _ _ _ => none
  | .vldd _ _ _ _ => none
  | .vstd _ _ _ _ => none
  | .ldfe _ _ _ _ _ => none
  | .ldfeV _ _ _ _ _ => none
  | .ldfec _ _ _ _ _ => none
  | .ldfecV _ _ _ _ _ => none
  | .stfe _ _ _ _ _ => none
  | .stfeV _ _ _ _ _ => none
  | .feset _ _ _ => none
  | .feclr _ _ _ => none
  | .amo _ _ _ _ _ _ _ => none
  | .amof _ _ _ _ _ _ _ => none
  | .cas _ _ _ _ _ _ => none
  | .vamo _ _ _ _ _ _ _ => none
  | .fence _ _ => none
  | .stp _ _ _ _ _ => none
  | .vstp _ _ _ _ => none
  | .contrib _ _ _ => none
  | .pipep _ _ => none
  | .pipeg _ _ => none
  | .pref _ _ _ _ => none
  | .vpark _ _ _ => none
  | .vunpark _ _ _ _ => none
  | .dset _ _ _ => none
  | .dsetImg _ _ _ => none
  | .dget _ _ _ => none
  | .dgetImg _ _ _ => none
  | .vadd _ _ _ _ _ g _ => some (.int, g.size)
  | .vsub _ _ _ _ _ g _ => some (.int, g.size)
  | .vadds _ _ _ _ _ g _ => some (.int, g.size)
  | .vsubs _ _ _ _ _ g _ => some (.int, g.size)
  | .vmul _ _ _ _ _ g _ => some (.int, g.size)
  | .vmulh _ _ _ _ _ g _ => some (.int, g.size)
  | .vmulw _ _ _ _ _ _ => some (.int, 2)
  | .vmac _ _ _ _ _ g _ => some (.int, g.size)
  | .vmacw _ _ _ _ _ _ => some (.int, 2)
  | .vabsd _ _ _ _ _ g _ => some (.int, g.size)
  | .vavg _ _ _ _ _ g _ => some (.int, g.size)
  | .vmin _ _ _ _ _ g _ => some (.int, g.size)
  | .vmax _ _ _ _ _ g _ => some (.int, g.size)
  | .vand _ _ _ _ _ g _ => some (.int, g.size)
  | .vor _ _ _ _ _ g _ => some (.int, g.size)
  | .vxor _ _ _ _ _ g _ => some (.int, g.size)
  | .vandn _ _ _ _ _ g _ => some (.int, g.size)
  | .vshl _ _ _ _ _ g _ => some (.int, g.size)
  | .vshr _ _ _ _ _ g _ => some (.int, g.size)
  | .vsra _ _ _ _ _ g _ => some (.int, g.size)
  | .vclz _ _ _ _ g => some (.int, g.size)
  | .vpopc _ _ _ _ g => some (.int, g.size)
  | .vcmp _ _ _ _ _ _ => some (.int, 1)
  | .vsel _ _ _ _ _ g _ => some (.int, g.size)
  | .vfadd _ _ _ _ _ _ => some (.float, 1)
  | .vfsub _ _ _ _ _ _ => some (.float, 1)
  | .vfmul _ _ _ _ _ _ => some (.float, 1)
  | .vfma _ _ _ _ _ _ => some (.float, 1)
  | .vfmin _ _ _ _ _ => some (.int, 1)
  | .vfmax _ _ _ _ _ => some (.int, 1)
  | .vfsgn _ _ _ _ _ _ => some (.int, 1)
  | .vfcmp _ _ _ _ _ _ => some (.int, 1)
  | .vfclass _ _ _ _ => some (.int, 1)
  | .vcvt _ _ _ _ _ _ => some (.float, 1)
  | .vcvtRes _ _ _ _ _ _ => some (.float, 1)
  | .vpack _ _ _ _ _ _ => some (.permute, 1)
  | .vunpack _ _ _ _ x => some (.permute, x.grp.size)
  | .vperm _ _ _ _ _ => some (.permute, 1)
  | .vperm2 _ _ _ _ _ => some (.permute, 1)
  | .vslide _ _ _ _ _ _ => some (.permute, 1)
  | .vrot _ _ _ _ _ _ => some (.permute, 1)
  | .vbcast _ _ _ _ => some (.permute, 1)
  | .vbcastEl _ _ _ _ _ => some (.permute, 1)
  | .vextr _ _ _ _ => some (.permute, 1)
  | .vins _ _ _ _ => some (.permute, 1)
  | .viota _ _ _ => some (.int, 1)
  | .viotaIdx _ _ => some (.int, 1)
  | .vcompress _ _ _ _ => some (.permute, 1)
  | .vexpand _ _ _ _ => some (.permute, 1)
  | .vmov _ _ _ _ g _ => some (.int, g.size)
  | .vzip _ _ _ _ => some (.permute, 2)
  | .vunzip _ _ _ => some (.permute, 2)
  | .mlog _ _ _ _ => some (.mask, 1)
  | .mpopc _ _ _ _ => some (.mask, 1)
  | .mfirst _ _ _ _ _ => some (.mask, 1)
  | .mfromNz _ _ _ _ => some (.mask, 1)
  | .mfromPre _ _ _ _ => some (.mask, 1)
  | .mfromSuf _ _ _ _ => some (.mask, 1)
  | .vexp2 _ _ _ _ => some (.special, 2)
  | .vlog2 _ _ _ _ => some (.special, 2)
  | .vrcp _ _ _ _ => some (.special, 2)
  | .vrsqrt _ _ _ _ => some (.special, 2)
  | .vsqrt _ _ _ _ => some (.special, 2)
  | .vsincos _ _ _ _ _ => some (.special, 2)
  | .vtanh _ _ _ _ => some (.special, 2)
  | .redSum _ _ _ _ _ => some (.reduce, 1)
  | .redMax _ _ _ _ _ _ => some (.reduce, 1)
  | .redmvGet _ _ _ => some (.reduce, 1)
  | .redmvIdx _ _ => some (.reduce, 1)
  | .redmvAdd _ _ => some (.reduce, 1)
  | .redmvSet _ _ => some (.reduce, 1)
  | .redclr _ _ => some (.reduce, 1)
  | .vcvtsxTo _ _ _ _ _ => some (.float, 2)
  | .vcvtsxFrom _ _ _ _ _ _ => some (.float, 2)
  | .vmatch _ _ _ _ _ _ => some (.matchUnit, 2)
  | .mshape _ => none
  | .mldw _ _ _ => none
  | .mldwExpand _ _ _ _ _ _ => none
  | .mma _ _ _ _ _ => none
  | .mmaAbsorb _ _ _ _ _ _ _ => none
  | .mzero _ => none
  | .mdrain _ _ _ _ _ _ => none
  | .msync => none
  | .cpy _ _ _ => none
  | .cpyPeer _ _ _ _ => none
  | .cpym _ _ _ _ => none
  | .gath _ _ _ _ _ => none
  | .gathList _ _ _ _ _ _ => none
  | .kvput _ _ _ => none
  | .kvalloc _ _ => none
  | .kvgrow _ _ => none
  | .kvfree _ _ => none
  | .coll _ _ _ _ _ => none
  | .strm _ _ _ => none
  | .strmTag _ _ _ => none
  | .steepld _ _ _ => none
  | .mupdBegin _ _ => none
  | .mupdWrite _ _ _ => none
  | .mupdCommit _ _ => none
  | .mupdAbort _ _ => none
  | .engqStat _ _ _ => none
  | .engqVmask _ _ _ => none
  | .engqDepth _ _ => none
  | .engqLast _ _ => none
  | .resultWriteback _ => none
  | .asyncCauseTaken _ => none
  | .feTagOperation _ => none
  | .feTimeout _ => none
  | .pipeWaitComplete _ => none
  | .pipeTimeout _ => none
  | .barrierEpisodeComplete _ _ => none
  | .gangYieldRendezvous _ _ => none
  | .holdOverrun _ => none
  | .engineCommandStart _ _ => none
  | .engineCommandComplete _ _ => none
  | .kvMapCommand _ _ => none
  | .kvgrowChunkMove _ => none
  | .strmTagTimeout _ => none
  | .collectiveAllArrived _ => none
  | .collectiveTimeout _ => none
  | .mmaRowCommit _ => none
  | .mldwLatchLoaded _ _ => none
  | .mdrainComplete _ => none
  | .steepldSlotLoaded _ => none
  | .bandIdleGate _ _ => none
  | .bandWakeComplete _ _ => none
  | .parknextRead _ => none
  | .parkansRetry _ _ => none
  | .parkansFail _ _ => none
  | .parkTimeout _ _ => none
  | .spawnJoinCheck _ => none
  | .spawnCheckReturn _ => none
  | .spawnRecordEnqueue _ => none
  | .joinEndArrival _ => none
  | .graceExpiry _ => none
  | .killNotice _ => none
  | .killTaken _ => none
  | .agingStep _ _ => none
  | .steal _ => none
  | .gangReservation _ => none
  | .quantumExpiry _ => none
  | .deepPreemption _ => none
  | .quotaStopTimeout _ => none
  | .quotaCharge _ _ => none
  | .quotaRefill _ => none
  | .boostEdge _ => none
  | .frequencyRequest _ _ => none
  | .railStep _ => none
  | .thermalCapStep _ _ => none
  | .overCurrent _ => none
  | .idleTargetReached _ => none
  | .tileWakeComplete _ => none
  | .notify _ _ => none
  | .launchRecordFetch _ => none
  | .stampRefetch _ => none
  | .cqhead _ _ => none
  | .contextActivate _ => none
  | .contextEnd _ => none
  | .contextEndComplete _ => none
  | .segmentOwnerWrite _ _ _ => none
  | .segmentZeroComplete _ _ => none
  | .caddyRegionWrite _ _ _ _ => none
  | .controlRegionWrite _ _ => none
  | .hostApertureAccess _ _ => none
  | .peerWriteInbound _ _ _ => none
  | .attestationGo => none
  | .pwrcmdWarmOff => none
  | .pwrcmdColdOff => none
  | .powerFailWarning => none
  | .peatSave _ => none
  | .modulePowerDown _ => none
  | .powerRestore => none
  | .channelTrained _ => none
  | .clusterReady _ => none
  | .cdwrReady _ => none
  | .tileResume _ => none
  | .mupdComplete _ => none
  | .retrainWindowStart _ => none
  | .retrainWindowEnd _ _ => none
  | .ageingReplan _ _ _ => none
  | .timingStretch _ => none
  | .marginVoltageRaise _ => none
  | .caddyPatrol _ _ _ => none
  | .writeReachesHome _ _ => none
  | .yaltanLinkFailure _ => none
  | .yaltanLinkReady _ => none

/-- The registers a slot instruction needs ready, sources before destinations (R22, R39). -/
def Instr.needs (i : Instr) : List RegId := i.reads ++ i.writes

namespace Machine

/-- Two instructions of one bundle name the same destination; `s0` and `p0` take no writes (R21). -/
def RegId.takesWrites : RegId → Bool
  | .s a => a != 0
  | .p a => a != 0
  | _ => true

/-- The file and number of a register as SB_UNDERSIZE reports them (R39); other resources are of class V. -/
def RegId.code : RegId → Option Word
  | .s a => some (a.zeroExtend 64)
  | .p a => some (0x100 ||| a.zeroExtend 64)
  | .v a => some (0x200 ||| a.zeroExtend 64)
  | .m a => some (0x300 ||| a.zeroExtend 64)
  | .q a => some (0x400 ||| a.zeroExtend 64)
  | _ => none

/-- A write of a register makes volatile state of the task differ from its last save (R394). -/
def Tile.marks (x : Tile) : RegId → Bool
  | .v a => x.regs.ctl.livev.getLsbD a.toNat
  | .c _ => true
  | .cr n => n == 0x28 || n == 0x29 || n == 0x2A
  | _ => false

/-- The save directory after an instruction has written its registers (R394). -/
def Tile.touch (x : Tile) (i : Instr) : Tile :=
  if i.writes.any x.marks then { x with peat := { x.peat with dirty := true } } else x

end Machine
end Sys2Proof
end

