-- ==== Sys2Proof/Config.lean ====
section
/-! DEFINITION. What the module fixes once, and the free values: constants without a body, of which nothing can be
proved but what holds for every value. -/

namespace Sys2Proof

/-- The special functions of the vector space (R212). -/
inductive SpecialFn where
  | exp2 | log2 | rcp | rsqrt | sqrt | sin | cos | tanh
deriving DecidableEq, Repr

/-- Which of the representable values within the bound of R214 the device returns for an F32 operand of a special
function: its own fixed approximation, the same every time for one operand pattern. Free (log entry 10). -/
opaque Config.fnChoice : SpecialFn → BitVec 32 → Nat

/-- A choice among what the spec allows and does not fix, made afresh each time: the argument counts the choices made.
Free (log entry 11). -/
opaque Config.free : Nat → Nat

/-- The SM3 digest of a byte string, a function the spec names and does not define (R370, R371). Free (log entry 12). -/
opaque Config.sm3 : List Nat → BitVec 256

/-- An SM2 signature over a digest verifies under a public key (R370). Free (log entry 12). -/
opaque Config.verifies : BitVec 512 → BitVec 256 → BitVec 512 → Bool

/-- The SM3 digest of the Galwen key that is fused into the module, and the fused rollback counter (R370). Free (log entry
12). -/
opaque Config.fusedKey : BitVec 256
opaque Config.rollback : BitVec 32

/-- The SM2 signature of a report under the module's identity key (R372). Free (log entry 12). -/
opaque Config.sign : List Nat → BitVec 512

/-- The SM3 digest of the identity public key (R372). Free (log entry 12). -/
opaque Config.identity : BitVec 256

/-- What the address of a commit-buffer entry reads in a slot of the save area where the entry holds values of a
contribution from this buffer element up (R387). Free (log entry 82). -/
opaque Config.contribAddr : Nat → Nat

/-- The Yaltan link by which the module reaches a peer device. Free (log entry 13). -/
opaque Config.linkOf : BitVec 5 → BitVec 3

end Sys2Proof
end

