-- ==== Sys2Proof/Machine/Cells.lean ====
section
/-! DEFINITION. Memories as canonical lists of cells, sets of word numbers as rising lists, and byte strings. -/

namespace Sys2Proof.Machine

/-- The byte at an address: 0 where no cell is listed (R90, R97). -/
def cellGet : List Host.Cell → Nat → Byte
  | [], _ => 0
  | (k, b) :: r, a => if a = k then b else if a < k then 0 else cellGet r a

/-- The memory with one byte written; a zero byte has no cell. -/
def cellSet : List Host.Cell → Nat → Byte → List Host.Cell
  | [], a, b => if b = 0 then [] else [(a, b)]
  | (k, c) :: r, a, b =>
    if a = k then (if b = 0 then r else (a, b) :: r)
    else if a < k then (if b = 0 then (k, c) :: r else (a, b) :: (k, c) :: r)
    else (k, c) :: cellSet r a b

/-- No cell lies at or below `lo`, addresses rise, and no listed byte is zero. -/
def cellsAbove : Option Nat → List Host.Cell → Bool
  | _, [] => true
  | lo, (k, b) :: r => (match lo with
    | none => true
    | some l => decide (l < k)) && b != 0 && cellsAbove (some k) r

/-- The canonical form of a memory: addresses strictly rising, no entry equal to what an unlisted address reads as. -/
def Memory.wf (l : List Host.Cell) : Bool := cellsAbove none l

/-- `n` bytes from an address up. -/
def cellsRead (l : List Host.Cell) (a : Nat) : Nat → List Byte
  | 0 => []
  | n + 1 => cellGet l a :: cellsRead l (a + 1) n

/-- Bytes written from an address up; `none` leaves a byte as it is. -/
def cellsPut (l : List Host.Cell) (a : Nat) : List (Option Byte) → List Host.Cell
  | [] => l
  | none :: bs => cellsPut l (a + 1) bs
  | some b :: bs => cellsPut (cellSet l a b) (a + 1) bs

/-- Bytes written from an address up. -/
def cellsWrite (l : List Host.Cell) (a : Nat) (bs : List Byte) : List Host.Cell := cellsPut l a (bs.map some)

/-- A memory without the cells of `n` addresses from `a` up. -/
def cellsErase (l : List Host.Cell) (a n : Nat) : List Host.Cell := l.filter fun c => c.1 < a || a + n ≤ c.1

/-- The cells of `n` addresses from `a` up, by offset from `a`. -/
def cellsSlice (l : List Host.Cell) (a n : Nat) : List Host.Cell :=
  (l.filter fun c => decide (a ≤ c.1) && decide (c.1 < a + n)).map fun c => (c.1 - a, c.2)

/-- A member of a rising list of numbers. -/
def numIn (l : List Nat) (a : Nat) : Bool := l.any (· == a)

/-- A rising list with a number put in. -/
def numPut : List Nat → Nat → List Nat
  | [], a => [a]
  | k :: r, a => if a = k then k :: r else if a < k then a :: k :: r else k :: numPut r a

/-- A rising list with a number taken out. -/
def numDel (l : List Nat) (a : Nat) : List Nat := l.filter (· != a)

/-- A rising list with `n` numbers from `a` up taken out. -/
def numDelRange (l : List Nat) (a n : Nat) : List Nat := l.filter fun k => k < a || a + n ≤ k

/-- The number a little-endian byte string denotes (R1). -/
def leNat : List Byte → Nat
  | [] => 0
  | b :: bs => b.toNat + 256 * leNat bs

/-- The `n` little-endian bytes of a number (R1). -/
def leBytes : Nat → Nat → List Byte
  | 0, _ => []
  | n + 1, x => BitVec.ofNat 8 x :: leBytes n (x / 256)

/-- A list in pieces of `n`, as many as `k`. -/
def pieces {α : Type} (n : Nat) : Nat → List α → List (List α)
  | 0, _ => []
  | k + 1, l => l.take n :: pieces n k (l.drop n)

/-- The first `some` of a function on a list. -/
def firstOf {α β : Type} (f : α → Option β) : List α → Option β
  | [] => none
  | a :: l => (f a).orElse fun _ => firstOf f l

/-- The list with its element of index `n` changed. -/
def modNth {α : Type} (f : α → α) : Nat → List α → List α
  | _, [] => []
  | 0, a :: l => f a :: l
  | n + 1, a :: l => a :: modNth f n l

/-- An association list with a key set. -/
def assocSet {κ α : Type} [BEq κ] (l : List (κ × α)) (k : κ) (a : α) : List (κ × α) :=
  if l.any fun p => p.1 == k then l.map fun p => if p.1 == k then (k, a) else p else l ++ [(k, a)]

/-- An association list without a key. -/
def assocDel {κ α : Type} [BEq κ] (l : List (κ × α)) (k : κ) : List (κ × α) := l.filter fun p => !(p.1 == k)

/-- The value of a key. -/
def assocGet {κ α : Type} [BEq κ] (l : List (κ × α)) (k : κ) : Option α := (l.find? fun p => p.1 == k).map (·.2)

end Sys2Proof.Machine
end

