-- ==== Sys2Proof/Machine/Parts.lean ====
section
/-! DEFINITION. The parts of the module by number: clusters, dies, contexts, queues and segments. -/

namespace Sys2Proof.Machine

/-- The cluster of a tile (R8). -/
def clusterOf (t : TileIx) : ClusterIx := t.extractLsb' 3 5
/-- The die of a tile (R8). -/
def dieOf (t : TileIx) : DieIx := t.extractLsb' 6 2
/-- The die of a cluster (R254). -/
def dieOfCluster (c : ClusterIx) : DieIx := c.extractLsb' 3 2
/-- Tile i of a cluster (R8). -/
def tileOf (c : ClusterIx) (i : BitVec 3) : TileIx := c ++ i
/-- The clusters of a die. -/
def clustersOf (d : DieIx) : List ClusterIx := (List.range 8).map fun i => d ++ BitVec.ofNat 3 i
/-- The tiles of a cluster, ascending. -/
def tilesOf (c : ClusterIx) : List TileIx := (List.range 8).map fun i => c ++ BitVec.ofNat 3 i
/-- The tiles of a die, ascending. -/
def tilesOfDie (d : DieIx) : List TileIx := (List.range 64).map fun i => d ++ BitVec.ofNat 6 i
/-- Every tile of the module, ascending. -/
def allTiles : List TileIx := (List.range 256).map (BitVec.ofNat 8)
/-- Every cluster of the module, ascending. -/
def allClusters : List ClusterIx := (List.range 32).map (BitVec.ofNat 5)
/-- The dies. -/
def allDies : List DieIx := [0, 1, 2, 3]
/-- Tile 7 of cluster 7 of a die is its system tile (R9). -/
def isSystemTile (t : TileIx) : Bool := t.extractLsb' 0 6 == 0x3F

/-- A cluster. -/
def State.cluster (s : State) (c : ClusterIx) : Cluster := s.clusters[c.toNat]'c.isLt
/-- The state with a cluster changed. -/
def State.modCluster (s : State) (c : ClusterIx) (f : Cluster → Cluster) : State :=
  { s with clusters := s.clusters.set c.toNat (f (s.cluster c)) c.isLt }
/-- A die. -/
def State.die (s : State) (d : DieIx) : Die := s.dies[d.toNat]'d.isLt
/-- The state with a die changed. -/
def State.modDie (s : State) (d : DieIx) (f : Die → Die) : State :=
  { s with dies := s.dies.set d.toNat (f (s.die d)) d.isLt }
/-- A context. -/
def State.ctx (s : State) (x : CtxNo) : Context := s.ctxs[x.toNat]'x.isLt
/-- The state with a context changed. -/
def State.modCtx (s : State) (x : CtxNo) (f : Context → Context) : State :=
  { s with ctxs := s.ctxs.set x.toNat (f (s.ctx x)) x.isLt }

/-- The state with the running task of a tile changed. -/
def State.modRun (s : State) (t : TileIx) (f : Running → Running) : State :=
  s.modTile t fun x => { x with run := x.run.map f }
/-- The state with the control registers of a tile changed. -/
def State.modCtlOf (s : State) (t : TileIx) (f : Ctl → Ctl) : State :=
  s.modTile t fun x => { x with regs := { x.regs with ctl := f x.regs.ctl } }

/-- The context of the task on a tile. -/
def State.ctxOn (s : State) (t : TileIx) : CtxNo := (s.tile t).regs.ctl.ctxn

/-- The fabric delivers its messages: with power, and between a warning and the loss (R398). -/
def State.fabricUp (s : State) : Bool := s.phase == .up || s.phase == .warned

/-! ### Causes (R373) -/

def causeIllegalOp : BitVec 8 := 1
def causeReservedField : BitVec 8 := 2
def causeIllegalOverlap : BitVec 8 := 3
def causePriv : BitVec 8 := 4
def causeSbUndersize : BitVec 8 := 5
def causeMisalign : BitVec 8 := 6
def causeXlate : BitVec 8 := 7
def causeProt : BitVec 8 := 8
def causeCaddyDenied : BitVec 8 := 9
def causeFormatMismatch : BitVec 8 := 10
def causeAccParked : BitVec 8 := 11
def causeFeTimeout : BitVec 8 := 12
def causePipeTimeout : BitVec 8 := 13
def causeHoldOverrun : BitVec 8 := 14
def causeHoldDepth : BitVec 8 := 15
def causeQuorumUnsafe : BitVec 8 := 16
def causeCommitOverflow : BitVec 8 := 17
def causeIntegrity : BitVec 8 := 18
def causeEccUncorr : BitVec 8 := 19
def causeResumeLost : BitVec 8 := 20
def causeNested : BitVec 8 := 21
def causeBrk : BitVec 8 := 22
def causeTrapi : BitVec 8 := 23

/-! ### Tiles -/

/-- Every saved tile has been resumed or has ended, and a cluster is ready: RESUMED, on a warm start (R409, R411). -/
def State.checkResumed (s : State) : State :=
  if s.port.ready0.getLsbD 2 && s.port.ready0.getLsbD 1 && s.port.ready1.extractLsb' 0 32 != 0 &&
      !(s.tiles.toList.any fun x => x.peat.held) then
    { s with port := { s.port with ready0 := s.port.ready0 ||| 8 } }
  else s

/-- The timers of the module run: it has power, and no tile has still to resume (R402). -/
def State.timersRun (s : State) : Bool := s.phase == .up && s.tiles.all fun x => !x.peat.held

/-- A scratchpad that has been without power: zero, its tags full (R90). -/
def Tile.clearSp (x : Tile) : Tile := { x with sp := [], empties := [], poison := [] }

/-- The number of a queue (R149). -/
def QueueId.ix : QueueId → Fin 4
  | .cpy => 0 | .gath => 1 | .coll => 2 | .strm => 3
/-- An engine queue of a tile. -/
def Tile.queue (x : Tile) (q : QueueId) : EngQueue := x.eng[(QueueId.ix q).val]'(QueueId.ix q).isLt
/-- A tile with an engine queue changed. -/
def Tile.modQueue (x : Tile) (q : QueueId) (f : EngQueue → EngQueue) : Tile :=
  { x with eng := x.eng.set (QueueId.ix q).val (f (x.queue q)) (QueueId.ix q).isLt }

/-- A choice that the spec does not fix, among `n` numbers below `n`: a fresh free value each time. -/
def State.choose (s : State) (n : Nat) : Nat × State :=
  (Config.free s.freeCount % n, { s with freeCount := s.freeCount + 1 })

/-- Segment g of a tile. -/
def Tile.seg (x : Tile) (g : BitVec 5) : Segment := x.segs[g.toNat]'g.isLt
/-- A tile with a segment changed. -/
def Tile.modSeg (x : Tile) (g : BitVec 5) (f : Segment → Segment) : Tile :=
  { x with segs := x.segs.set g.toNat (f (x.seg g)) g.isLt }

/-- The segments of a tile that a context owns, as `SPSEG` shows them (R26, R89). -/
def Tile.spseg (x : Tile) (c : CtxNo) : BitVec 32 :=
  (List.range 32).foldl (fun w i =>
    if (x.seg (BitVec.ofNat 5 i)).owner == some c then w ||| (1#32 <<< i) else w) 0

end Sys2Proof.Machine
end

