-- ==== Sys2Proof/Machine/Space.lean ====
section
/-! DEFINITION. The memory spaces: scratchpads with their tags, the Caddy, translation, and global memory with the
caches and writes of a tile (R86 to R97, R353, R355, R356, R361, R362). -/

namespace Sys2Proof.Machine

/-! ### Scratchpads -/

/-- The tile a scratchpad address names; none for a malformed address (R87). -/
def spHome (t : TileIx) (a : Nat) : Option TileIx :=
  if 2 ^ 27 ≤ a then none
  else if a / 2 ^ 24 % 4 != 0 then none
  else if a.testBit 26 then some (clusterOf t ++ BitVec.ofNat 3 (a / 2 ^ 21))
  else if a / 2 ^ 21 % 8 != 0 then none
  else some t

/-- The context owns the segment of an offset (R89). -/
def Tile.owns (x : Tile) (c : CtxNo) (off : Nat) : Bool := (x.seg (BitVec.ofNat 5 (off / 2 ^ 16))).owner == some c

/-- The segment of an offset is being zeroed for the context that owns it (R89). -/
def Tile.zeroing (x : Tile) (c : CtxNo) (off : Nat) : Bool :=
  (x.seg (BitVec.ofNat 5 (off / 2 ^ 16))).owner == some c && (x.seg (BitVec.ofNat 5 (off / 2 ^ 16))).zeroing

/-- The offsets of `n` bytes of an access from `a` up in the scratchpad `x`; none for an offending byte (R87, R88). -/
def spOffsets (x : Tile) (c : CtxNo) (a n : Nat) : List (Option Nat) :=
  (List.range n).map fun j =>
    let off := a % 2 ^ 21 + j
    if off < 2 ^ 21 && x.owns c off then some off else none

/-- Where an access of `n` bytes to scratchpad address `a` goes: the tile and the offset of each byte (R87, R88). -/
def State.spLocs (s : State) (t : TileIx) (c : CtxNo) (a n : Nat) : TileIx × List (Option Nat) :=
  match spHome t a with
  | none => (t, List.replicate n none)
  | some h => (h, spOffsets (s.tile h) c a n)

/-- The first offending byte of an access (R29, R88). -/
def firstBad (a : Nat) : List (Option Nat) → Option Word
  | [] => none
  | none :: _ => some (BitVec.ofNat 64 a)
  | some _ :: l => firstBad (a + 1) l

/-- An access must wait for the zeroing of a segment (R89). -/
def State.spWaits (s : State) (t : TileIx) (c : CtxNo) (a n : Nat) : Bool :=
  let p := s.spLocs t c a n
  p.2.any fun o => match o with
    | none => false
    | some off => (s.tile p.1).zeroing c off

/-- An offence of the slot being executed takes the place of one that the C slot of its bundle recorded before it: the M slot
comes first (R29). -/
def Issue.oobYields (i : Issue) : Bool := i.oob.any (·.2.2) && i.slot != Slot.c.index

/-- Records an offence of the task on a tile, unless one is held (R29, R88). -/
def State.offend (s : State) (t : TileIx) (wr : Bool) (a : BitVec 32) : State :=
  let i := (s.tile t).issue
  let held := if i.oobYields then (i.src.getD .reset).ctl.oobFlag else (s.tile t).regs.ctl.oobFlag
  (s.modCtlOf t fun c => if held then c else { c with oobAddr := a, oobFlag := true, oobWr := wr }).modTile t fun x =>
    { x with issue := { x.issue with
        oob := if i.oobYields then some (a, wr, false) else i.oob.orElse fun _ => some (a, wr, i.slot == Slot.c.index) } }

/-- Records the first offending byte of an access, if it has one. -/
def State.offendIf (s : State) (t : TileIx) (wr : Bool) (o : Option Word) : State :=
  match o with
  | none => s
  | some a => s.offend t wr (a.setWidth 32)

/-- The provisional byte the task's own reads see, in a line of its commit buffer (R117, R144). -/
def CommitBuf.see (b : CommitBuf) (inGlobal host : Bool) (tile : TileIx) (a : Nat) : Option Byte :=
  match b.lines.find? fun l =>
      l.inGlobal == inGlobal && l.host == host && (inGlobal || l.tile == tile) && l.base == a / 64 * 64 with
  | none => none
  | some l => assocGet l.bytes a

/-- The commit buffer of the task on a tile. -/
def Tile.commit (x : Tile) : CommitBuf := (x.run.map (·.commit)).getD ⟨[], []⟩

/-- The bytes of a scratchpad access; offending ones read zero (R88). With `own`, provisional bytes of the task on tile
t are seen (R117). -/
def State.spRead (s : State) (t : TileIx) (c : CtxNo) (own : Bool) (a n : Nat) : List Byte :=
  let p := s.spLocs t c a n
  let x := s.tile p.1
  let b := (s.tile t).commit
  p.2.map fun o => match o with
    | none => 0
    | some off => ((if own then b.see false false p.1 off else none)).getD (cellGet x.sp off)

/-- The offending byte an access records. -/
def State.spBad (s : State) (t : TileIx) (c : CtxNo) (a n : Nat) : Option Word :=
  firstBad a (s.spLocs t c a n).2

/-- The first poisoned word an access reads, by the address of its first byte read there (R391). -/
def State.spPoisoned (s : State) (t : TileIx) (c : CtxNo) (a n : Nat) : Option Nat :=
  let p := s.spLocs t c a n
  let x := s.tile p.1
  if x.poison.isEmpty then none
  else firstOf (fun q : Nat × Option Nat => match q.2 with
    | none => none
    | some off => if numIn x.poison (off / 8) then some (a + q.1) else none) ((List.range n).zip p.2)

/-- The offset lies in the persist window of the task's tile (R30, R394). -/
def Tile.inWindow (x : Tile) (off : Nat) : Bool :=
  decide (x.regs.ctl.persb.toNat ≤ off) && decide (off < x.regs.ctl.persb.toNat + x.regs.ctl.persl.toNat)

/-- The words of a list of byte offsets, without repeats, ascending. -/
def wordsOf (l : List (Option Nat)) : List Nat :=
  l.foldl (fun w o => match o with
    | none => w
    | some off => numPut w (off / 8)) []

/-- A scratchpad with bytes written: tags full (R91), poison cleared in whole words (R392), and the save directory
dirty where the persist window was written (R394). -/
def Tile.spPut (x : Tile) (locs : List (Option Nat)) (bs : List Byte) : Tile :=
  let pairs := (locs.zip bs).filterMap fun p => p.1.map fun off => (off, p.2)
  let ws := wordsOf locs
  let whole (w : Nat) : Bool := (List.range 8).all fun j => locs.any fun o => o == some (8 * w + j)
  { x with
    sp := pairs.foldl (fun m p => cellSet m p.1 p.2) x.sp
    empties := ws.foldl numDel x.empties
    poison := if x.poison.isEmpty then [] else (ws.filter whole).foldl numDel x.poison
    peat := { x.peat with dirty := x.peat.dirty || pairs.any fun p => x.inWindow p.1 } }

/-- Writes the bytes of a scratchpad access that do not offend (R88, R91). -/
def State.spWrite (s : State) (t : TileIx) (c : CtxNo) (a : Nat) (bs : List Byte) : State :=
  let p := s.spLocs t c a bs.length
  s.modTile p.1 fun x => x.spPut p.2 bs

/-- The words that the elements of one store write whole lose their poison, whatever part of them each element writes (R392). -/
def State.clearPoison (s : State) (t : TileIx) (c : CtxNo) (els : List (Word × Nat)) : State :=
  let ps := els.flatMap fun e =>
    (s.spLocs t c e.1.toNat e.2).2.filterMap fun o => o.map fun off => ((s.spLocs t c e.1.toNat e.2).1, off)
  let whole (h : TileIx) (w : Nat) : Bool := (List.range 8).all fun j => ps.contains (h, 8 * w + j)
  ps.foldl (fun s p => if numIn (s.tile p.1).poison (p.2 / 8) && whole p.1 (p.2 / 8) then
    s.modTile p.1 fun x => { x with poison := numDel x.poison (p.2 / 8) } else s) s

/-- A tag set full or empty (R91, R136). -/
def Tile.setTag (x : Tile) (full : Bool) (off : Nat) : Tile :=
  { x with
    empties := if full then numDel x.empties (off / 8) else numPut x.empties (off / 8)
    peat := { x.peat with dirty := x.peat.dirty || x.inWindow off } }

/-- The tag of the word at an offset is full (R91). -/
def Tile.tagFull (x : Tile) (off : Nat) : Bool := !numIn x.empties (off / 8)

/-! ### The Caddy -/

/-- The region entry that holds an offset (R362). -/
def Caddy.regionAt (c : Caddy) (off : Nat) : Option Region :=
  c.regions.toList.find? fun r =>
    r.valid && decide (r.base.toNat * 65536 ≤ off) && decide (off < (r.base.toNat + r.len.toNat) * 65536)

/-- A context may read a region: its owner, or a context of a granted group (R362). -/
def State.mayRead (s : State) (c : CtxNo) (r : Region) : Bool :=
  r.owner == c || r.grant.getLsbD (s.ctx c).group.toNat

/-- What refuses a read of Caddy bytes, in the order of R93, with the offset it names. -/
inductive CdCheck where
  | ok
  | prot (off : Nat)
  | denied (off : Nat)
  | ecc (off : Nat)
deriving DecidableEq, Repr

/-- The check of a read of `n` Caddy bytes (R93): the bytes are checked at both ends of each 64 KiB unit. -/
def State.cdCheck (s : State) (t : TileIx) (c : CtxNo) (off n : Nat) : CdCheck :=
  let cd := (s.tile t).caddy
  let offs := (List.range n).map (off + ·)
  match offs.find? fun o => decide (0x1780000 ≤ o) with
  | some o => .prot o
  | none =>
    match offs.find? fun o => match cd.regionAt o with
        | none => true
        | some r => !s.mayRead c r with
    | some o => .denied o
    | none =>
      match offs.find? fun o => match cd.regionAt o with
          | none => false
          | some r => r.damaged with
      | some o => .ecc o
      | none => .ok

/-- What refuses some reads of Caddy bytes for a context on a tile: the range first, then a grant (R93, R362). -/
def State.cdRefused (s : State) (t : TileIx) (c : CtxNo) (els : List (Word × Nat)) : Option (BitVec 8 × Word) :=
  let rs := els.map fun e => s.cdCheck t c e.1.toNat e.2
  ((firstOf (fun r => match r with
    | .prot o => some o
    | _ => none) rs).map fun o => (causeProt, BitVec.ofNat 64 o)).orElse fun _ =>
  (firstOf (fun r => match r with
    | .denied o => some o
    | _ => none) rs).map fun o => (causeCaddyDenied, BitVec.ofNat 64 o)

/-- The first of `n` Caddy bytes that lies in a damaged region (R93, R244). -/
def State.cdDamaged (s : State) (t : TileIx) (off n : Nat) : Option Nat :=
  let cd := (s.tile t).caddy
  ((List.range n).map (off + ·)).find? fun o => (cd.regionAt o).any (·.damaged)

/-- The bytes of the Caddy. -/
def State.cdRead (s : State) (t : TileIx) (off n : Nat) : List Byte := cellsRead (s.tile t).caddy.bytes off n

/-! ### Translation (R355, R356) -/

/-- What an access does to a page (R356, R357). -/
inductive Acc where
  | read | write | fetch
deriving DecidableEq, Repr

/-- The access code of `PARKINFO` (R357). -/
def Acc.code : Acc → BitVec 2
  | .read => 0 | .write => 1 | .fetch => 2

/-- The outcome of a table walk (R355). -/
inductive WalkR where
  | leaf (e : Word) (large : Bool)
  | invalid
  | malformed
deriving DecidableEq, Repr

/-- The table entry at a physical address, read at its home (R355). -/
def State.pte (s : State) (a : Nat) : Word := BitVec.ofNat 64 (leNat (cellsRead s.gm a 8))

/-- The table address or page frame of an entry (R355). -/
def ptePa (e : Word) : Nat := (e.extractLsb' 12 34).toNat * 4096

/-- A reserved bit of an entry is set (R355). -/
def pteReserved (e : Word) : Bool := e.extractLsb' 46 18 != 0 || e.extractLsb' 7 5 != 0

/-- The walk of R355 from a root table. An entry with V clear is invalid whatever its reserved bits hold: which of the two PARKINFO
reports is the model's choice (log entry 109). -/
def State.walk (s : State) (root : Nat) (va : BitVec 48) : WalkR :=
  let e1 := s.pte (root + 8 * (va.extractLsb' 39 9).toNat)
  if !e1.getLsbD 0 then .invalid
  else if pteReserved e1 || e1.getLsbD 1 || ptePa e1 % 8192 != 0 then .malformed
  else
    let e2 := s.pte (ptePa e1 + 8 * (va.extractLsb' 29 10).toNat)
    if !e2.getLsbD 0 then .invalid
    else if pteReserved e2 then .malformed
    else if e2.getLsbD 1 then (if ptePa e2 % 2 ^ 29 != 0 then .malformed else .leaf e2 true)
    else if ptePa e2 % 65536 != 0 then .malformed
    else
      let e3 := s.pte (ptePa e2 + 8 * (va.extractLsb' 16 13).toNat)
      if !e3.getLsbD 0 then .invalid
      else if pteReserved e3 || !e3.getLsbD 1 || ptePa e3 % 65536 != 0 then .malformed
      else .leaf e3 false

/-- The address a leaf entry maps a virtual address to (R355). -/
def leafPa (e : Word) (large : Bool) (va : BitVec 48) : Nat :=
  if large then ptePa e + va.toNat % 2 ^ 29 else ptePa e + va.toNat % 65536

/-- A leaf entry allows an access: R, W or X (R356). -/
def leafAllows (e : Word) : Acc → Bool
  | .read => e.getLsbD 2
  | .write => e.getLsbD 3
  | .fetch => e.getLsbD 4

/-- A translation covers an address (R356). -/
def TlbEntry.covers (e : TlbEntry) (asid : BitVec 7) (va : BitVec 48) : Bool :=
  e.asid == asid && (if e.large then e.va.extractLsb' 29 19 == va.extractLsb' 29 19
    else e.va.extractLsb' 16 32 == va.extractLsb' 16 32)

/-- A list with an entry added and the oldest dropped past a capacity. -/
def addCapped {α : Type} (cap : Nat) (l : List α) (a : α) : List α :=
  (if cap ≤ l.length then l.drop 1 else l) ++ [a]

/-- The outcome of a translation: the leaf entry with the state whose TLBs hold it, or the failure that parks. -/
inductive TransR where
  | ok (pa : Nat) (e : Word) (s : State)
  | fail (malformed : Bool)

/-- The translation of an access through the tile TLB, the cluster TLB and the walker (R356). -/
def State.translate (s : State) (t : TileIx) (c : CtxNo) (acc : Acc) (va : BitVec 48) : TransR :=
  let asid := (s.ctx c).asid
  let use (e : Word) (large : Bool) (s' : State) : TransR :=
    if leafAllows e acc then .ok (leafPa e large va) e s' else .fail false
  let put (e : TlbEntry) : State := s.modTile t fun x => { x with tlb := addCapped 64 x.tlb e }
  match (s.tile t).tlb.find? (·.covers asid va) with
  | some e => use e.entry e.large s
  | none =>
    match (s.cluster (clusterOf t)).tlb.find? (·.covers asid va) with
    | some e => use e.entry e.large (put e)
    | none =>
      match s.walk ((s.ctx c).root.toNat * 4096) va with
      | .invalid => .fail false
      | .malformed => .fail true
      | .leaf e large =>
        let te : TlbEntry := ⟨asid, va, large, e⟩
        use e large ((put te).modCluster (clusterOf t) fun k => { k with tlb := addCapped 2048 k.tlb te })

/-- The translations of an address dropped from a tile and its cluster, so that the tables are walked again (R357). -/
def State.dropTranslation (s : State) (t : TileIx) (c : CtxNo) (va : BitVec 48) : State :=
  let asid := (s.ctx c).asid
  (s.modTile t fun x => { x with tlb := x.tlb.filter fun e => !e.covers asid va }).modCluster (clusterOf t) fun k =>
    { k with tlb := k.tlb.filter fun e => !e.covers asid va }

/-! ### Global memory -/

/-- A global address is valid: bits 63:48 all equal bit 47 (R94). -/
def canonical (a : Word) : Bool := (a.extractLsb' 0 48).signExtend 64 == a

/-- Every byte of an access has a valid address (R94). -/
def canonicalRange (a : Word) (n : Nat) : Bool :=
  canonical a && canonical (a + BitVec.ofNat 64 (n - 1))

/-- The pieces of an access that lie in one 64-byte line each: address and length. -/
def linePieces : Nat → BitVec 48 → Nat → List (BitVec 48 × Nat)
  | 0, _, _ => []
  | fuel + 1, va, n =>
    if n = 0 then []
    else
      let k := min n (64 - va.toNat % 64)
      (va, k) :: linePieces fuel (va + BitVec.ofNat 48 k) (n - k)

/-- The pieces of an access of `n` bytes. -/
def gPieces (va : BitVec 48) (n : Nat) : List (BitVec 48 × Nat) := linePieces (n / 64 + 2) va n

/-- Where a piece of an access lies. -/
inductive GSrc where
  /-- In the L1: the bytes of the line and its physical address (R95). -/
  | line (bytes : List Byte) (pa : Nat)
  | mem (pa : Nat)
  | host (pa : Nat)
  /-- In the control region, by offset (R353). -/
  | ctl (off : Nat)
deriving DecidableEq, Repr

/-- Why an access to global memory goes no further: a failed translation, or a control page outside system mode. -/
inductive GFail where
  | park (va : BitVec 48) (malformed : Bool)
  | prot (va : BitVec 48)
deriving DecidableEq, Repr

/-- Where the pieces of an access lie (R356): with `l1`, a load may hit the L1 of the tile. -/
def State.gPlan (t : TileIx) (c : CtxNo) (acc : Acc) (l1 : Bool) :
    State → List (BitVec 48 × Nat) → Except GFail (State × List (BitVec 48 × Nat × GSrc))
  | s, [] => .ok (s, [])
  | s, (va, n) :: rest =>
    let hit := if l1 then (s.tile t).l1.find? fun l =>
      l.asid == (s.ctx c).asid && l.va == va &&& 0xFFFFFFFFFFC0#48 && l.readable else none
    let go (s' : State) (src : GSrc) : Except GFail (State × List (BitVec 48 × Nat × GSrc)) :=
      match State.gPlan t c acc l1 s' rest with
      | .error e => .error e
      | .ok (s2, l) => .ok (s2, (va, n, src) :: l)
    match hit with
    | some l => go s (.line l.bytes l.pa)
    | none =>
      match s.translate t c acc va with
      | .fail m => .error (.park va m)
      | .ok pa e s' =>
        if e.getLsbD 6 then (if c == 0 then go s' (.ctl (pa % 2 ^ 18)) else .error (.prot va))
        else if e.getLsbD 5 then go s' (.host pa)
        else go s' (.mem pa)

/-- A byte after a patch. -/
def Patch.on (p : Patch) (b : Byte) : Byte := (b &&& ~~~p.mask) ||| (p.bits &&& p.mask)
/-- The patch that replaces a byte. -/
def Patch.full (b : Byte) : Patch := ⟨0xFF, b⟩
/-- The patch that keeps a byte. -/
def Patch.keep : Patch := ⟨0, 0⟩
/-- The patch of two writes of a byte, one after the other. -/
def Patch.after (q p : Patch) : Patch := ⟨p.mask ||| q.mask, (p.bits &&& ~~~q.mask) ||| (q.bits &&& q.mask)⟩

/-- The patch a write has for the byte at an address. -/
def PendingWrite.at (w : PendingWrite) (a : Nat) : Patch :=
  if w.addr ≤ a then w.bytes.getD (a - w.addr) .keep else .keep

/-- The bytes from an address up as a write leaves them. -/
def PendingWrite.over (w : PendingWrite) (a : Nat) (bs : List Byte) : List Byte :=
  ((List.range bs.length).zip bs).map fun p => (w.at (a + p.1)).on p.2

/-- The bytes from an address of device or host memory up as writes that are on their way leave them. -/
def overWrites (ws : List PendingWrite) (host : Bool) (a : Nat) (bs : List Byte) : List Byte :=
  ws.foldl (fun bs w => if w.host == host && !w.ctl then w.over a bs else bs) bs

/-- Two writes lie in one line of one memory. -/
def PendingWrite.sameLine (v w : PendingWrite) : Bool := v.host == w.host && v.ctl == w.ctl && v.addr / 64 == w.addr / 64

/-- Two writes of one access to one line made one, `w` after `v`. -/
def PendingWrite.join (v w : PendingWrite) : PendingWrite :=
  let lo := min v.addr w.addr
  let hi := max (v.addr + v.bytes.length) (w.addr + w.bytes.length)
  { v with addr := lo, bytes := (List.range (hi - lo)).map fun j => (w.at (lo + j)).after (v.at (lo + j)) }

/-- A write behind others: where the last of them to its line is of the same access, the two are one (R106). -/
def putWrite (w : PendingWrite) : List PendingWrite → List PendingWrite
  | [] => [w]
  | v :: l =>
    if v.sameLine w && !(l.any (·.sameLine w)) && v.access == w.access then v.join w :: l
    else v :: putWrite w l

/-- The writes on their way that a tile sees, in the order in which each line takes them: those performed at its die cache,
those performed towards its cluster, and its own (R107, R108). -/
def State.ahead (s : State) (t : TileIx) : List PendingWrite :=
  (s.die (dieOf t)).wbuf ++ (s.cluster (clusterOf t)).wbuf ++ (s.tile t).wbuf

/-- The line of a die cache at a physical address. -/
def Die.lineAt (d : Die) (pa : Nat) : Option DieLine := d.cache.find? fun l => l.pa == pa / 64 * 64

/-- The bytes of one line of device memory as the cache of a die has them, or else as they stand at their home (R95). -/
def State.dieBytes (s : State) (d : DieIx) (pa n : Nat) : List Byte :=
  match (s.die d).lineAt pa with
  | some l => (l.bytes.drop (pa % 64)).take n
  | none => cellsRead s.gm pa n

/-- A line of device memory brought into the cache of a die, which holds 32 MiB (R11, R95). -/
def State.fillDie (s : State) (d : DieIx) (pa : Nat) : State :=
  match (s.die d).lineAt pa with
  | some _ => s
  | none => s.modDie d fun x =>
    { x with cache := addCapped 524288 x.cache ⟨pa / 64 * 64, cellsRead s.gm (pa / 64 * 64) 64⟩ }

/-- Bytes of one line at a physical or host address as the tile sees them (R95, R107, R108). -/
def State.memBytes (s : State) (t : TileIx) (host : Bool) (pa n : Nat) : List Byte :=
  overWrites (s.ahead t) host pa (if host then cellsRead s.host pa n else s.dieBytes (dieOf t) pa n)

/-- Where the commit buffer places the control region: past the last physical address (R144, R355). -/
def ctlBase : Nat := 2 ^ 46

/-- Provisional bytes of the task laid over the bytes at a physical address (R117). -/
def Tile.overCommit (x : Tile) (host : Bool) (pa : Nat) (bs : List Byte) : List Byte :=
  let b := x.commit
  if b.lines.isEmpty then bs
  else ((List.range bs.length).zip bs).map fun p => (b.see true host 0 (pa + p.1)).getD p.2

/-- The L1 of a tile without the lines of a physical line (R109, R137). -/
def Tile.dropLine (x : Tile) (pa : Nat) : Tile := { x with l1 := x.l1.filter fun l => l.pa != pa / 64 * 64 }

/-- The L1 of a tile with a line filled; it holds 1,024 lines (R10, R95). A copy of the line under another address goes: the
tile has read past it (R109). -/
def Tile.fillL1 (x : Tile) (asid : BitVec 7) (va : BitVec 48) (pa : Nat) (bytes : List Byte) : Tile :=
  { x with l1 := addCapped 1024 (x.dropLine pa).l1 ⟨asid, va &&& 0xFFFFFFFFFFC0#48, pa, true, bytes⟩ }

/-- Reads the pieces of a plan. The cache of the die takes a line of device memory, and the L1 with `l1`; a read that passes
the L1 by leaves no copy there that could be older (R95, R109). With `own`, the task's provisional bytes are seen.
Control-region pieces read as `ctl` says. -/
def State.gFetch (t : TileIx) (c : CtxNo) (l1 own : Bool) (ctl : State → Nat → Nat → List Byte) :
    State → List (BitVec 48 × Nat × GSrc) → State × List Byte
  | s, [] => (s, [])
  | s, (va, n, src) :: rest =>
    let r : State × List Byte := match src with
      | .line bytes pa =>
        let bs := (bytes.drop (va.toNat % 64)).take n
        (s, if own then (s.tile t).overCommit false (pa + va.toNat % 64) bs else bs)
      | .mem pa =>
        let base := pa / 64 * 64
        let s1 := s.fillDie (dieOf t) pa
        let bs := s1.memBytes t false pa n
        (s1.modTile t fun x =>
          if l1 then x.fillL1 (s.ctx c).asid va base (s1.memBytes t false base 64) else x.dropLine pa,
         if own then (s.tile t).overCommit false pa bs else bs)
      | .host pa => (s, if own then (s.tile t).overCommit true pa (s.memBytes t true pa n) else s.memBytes t true pa n)
      | .ctl off => (s, if own then (s.tile t).overCommit false (ctlBase + off) (ctl s off n) else ctl s off n)
    let q := State.gFetch t c l1 own ctl r.1 rest
    (q.1, r.2 ++ q.2)

/-- The first piece of a plan on a poisoned line of device memory (R393). -/
def State.gPoisoned (s : State) (l : List (BitVec 48 × Nat × GSrc)) : Option (BitVec 48) :=
  if s.gmPoison.isEmpty then none
  else firstOf (fun p => match p.2.2 with
    | .mem pa => if numIn s.gmPoison (pa / 64) then some p.1 else none
    | _ => none) l

/-- What becomes of the poisoned lines that a read of some plans meets: they are reported to the memory manager, which refills a
page of which it holds a clean copy, so that the read completes with the refilled data (R393). -/
def State.refill (s : State) (ls : List (List (BitVec 48 × Nat × GSrc))) : State :=
  if s.gmPoison.isEmpty then s
  else ls.foldl (fun s l => l.foldl (fun s p => match p.2.2 with
    | .mem pa => if numIn s.gmPoison (pa / 64) then
        { s with
          reports := numPut s.reports (pa / 64)
          gmPoison := if numIn s.copies (pa / 65536) then s.gmPoison.filter fun q => q / 1024 != pa / 65536 else s.gmPoison }
      else s
    | _ => s) s) s

/-- The L1 of a tile after its own write: the line written is updated, lines of the same physical line under another
address are dropped (R109). -/
def Tile.updateL1 (x : Tile) (asid : BitVec 7) (va : BitVec 48) (w : PendingWrite) : Tile :=
  { x with l1 := x.l1.filterMap fun l =>
      if l.pa == w.addr / 64 * 64 then
        if l.asid == asid && l.va == va &&& 0xFFFFFFFFFFC0#48 then some { l with bytes := w.over l.pa l.bytes } else none
      else some l }

/-- The writes of the pieces of a plan, each with its address. -/
def planWrites (task : Nat) (access : Option (Bool × Nat)) : List (BitVec 48 × Nat × GSrc) → List Patch → List (BitVec 48 × PendingWrite)
  | [], _ => []
  | (va, n, src) :: rest, bs =>
    let w (host ctl : Bool) (a : Nat) : List (BitVec 48 × PendingWrite) := [(va, ⟨host, ctl, a, bs.take n, task, access⟩)]
    (match src with
    | .line _ _ => []
    | .mem pa => w false false pa
    | .host pa => w true false pa
    | .ctl off => w false true off) ++ planWrites task access rest (bs.drop n)

/-- The writes of one access of a tile, element by element in order, sent on their way to their homes: the bytes it writes in
one line go together (R106, R116). An access with a place in the order of issue goes on with what it has sent before. -/
def State.gSend (s : State) (t : TileIx) (c : CtxNo) (access : Option (Bool × Nat))
    (els : List (List (BitVec 48 × Nat × GSrc) × List Patch)) : State :=
  let ws := els.flatMap fun e => planWrites (((s.tile t).run.map (·.record.task)).getD 0) access e.1 e.2
  s.modTile t fun x =>
    let y := ws.foldl (fun x p => if p.2.host || p.2.ctl then x else x.updateL1 (s.ctx c).asid p.1 p.2) x
    { y with wbuf := match access with
      | some _ => ws.foldl (fun l p => putWrite p.2 l) x.wbuf
      | none => x.wbuf ++ ws.foldl (fun l p => putWrite p.2 l) [] }

/-- Every line of device memory that some patches from an address up write whole, by number (R393). -/
def wholeLines (pa : Nat) (ps : List Patch) : List Nat :=
  ((List.range (ps.length / 64 + 1)).map fun k => (pa + 63) / 64 + k).filter fun l =>
    decide (64 * l + 64 ≤ pa + ps.length) && ((ps.drop (64 * l - pa)).take 64).all fun p => p.mask == 0xFF

/-- Bytes performed at their home: host memory, or device memory, where a line written whole loses its poison, and the memory
manager's copy of the page is no longer clean (R393). -/
def State.memPut (s : State) (host : Bool) (pa : Nat) (ps : List Patch) : State :=
  let bs := (ps.zip (cellsRead (if host then s.host else s.gm) pa ps.length)).map fun p => p.1.on p.2
  if host then { s with host := cellsWrite s.host pa bs }
  else { s with
    gm := cellsWrite s.gm pa bs
    gmPoison := if s.gmPoison.isEmpty then [] else s.gmPoison.filter fun l => !(wholeLines pa ps).contains l
    copies := if s.copies.isEmpty then [] else s.copies.filter fun f => f != pa / 65536 && f != (pa + ps.length - 1) / 65536 }

/-- A write of a tile of die `d` performed at its home, behind which the die's cache is no older (R95, R109). -/
def State.atHome (s : State) (d : DieIx) (w : PendingWrite) : State :=
  let s1 := s.memPut w.host w.addr w.bytes
  if w.host then s1
  else s1.modDie d fun x => { x with cache := x.cache.map fun l =>
    if l.pa == w.addr / 64 * 64 then { l with bytes := w.over l.pa l.bytes } else l }

/-- Writes performed towards the cluster of a tile; those to host memory are performed there (R96, R143). -/
def State.toCluster (s : State) (t : TileIx) (ws : List PendingWrite) : State :=
  let s1 := (ws.filter (·.host)).foldl (fun s w => s.atHome (dieOf t) w) s
  s1.modCluster (clusterOf t) fun k => { k with wbuf := k.wbuf ++ ws.filter fun w => !w.host }

/-- What a release of a tile at a scope performs: the writes the tile sees on their way, at the scope's point: towards the
agents of its cluster, at the cache of its die, or at their homes (R107, R112, R138, R143). Writes to the control region
remain. -/
def State.releaseAt (s : State) (t : TileIx) (sc : Scope) : State :=
  let own := (s.tile t).wbuf.filter fun w => !w.ctl
  let near := (s.cluster (clusterOf t)).wbuf
  let keep (s : State) : State := s.modTile t fun x => { x with wbuf := x.wbuf.filter (·.ctl) }
  let bare (s : State) : State := (keep s).modCluster (clusterOf t) fun k => { k with wbuf := [] }
  match sc with
  | .tile => s
  | .cluster => (keep s).toCluster t own
  | .die =>
    let s1 := ((near ++ own).filter (·.host)).foldl (fun s w => s.atHome (dieOf t) w) (bare s)
    s1.modDie (dieOf t) fun x => { x with wbuf := x.wbuf ++ (near ++ own).filter fun w => !w.host }
  | _ =>
    let far := (s.die (dieOf t)).wbuf
    (far ++ near ++ own).foldl (fun s w => s.atHome (dieOf t) w)
      ((bare s).modDie (dieOf t) fun x => { x with wbuf := [] })

/-- Every write a tile sees on its way performed at its home (R108, R111). Writes to the control region remain. -/
def State.drain (s : State) (t : TileIx) : State := s.releaseAt t .device

/-- The tile has a write to the control region on its way. -/
def Tile.ctlPending (x : Tile) : Bool := x.wbuf.any (·.ctl)

/-- The L1 lines of a context dropped (R109, R138, R143). -/
def State.dropL1 (s : State) (t : TileIx) (asid : BitVec 7) : State :=
  s.modTile t fun x => { x with l1 := x.l1.filter fun l => l.asid != asid }

/-- The lines of a die cache given up, so that the next reads are made at the homes (R115). -/
def State.dropDie (s : State) (d : DieIx) : State := s.modDie d fun x => { x with cache := [] }

/-- What an acquire of a tile at a scope does: from CLUSTER scope up the L1 lines of the context are dropped (R109, R143);
from DEVICE scope up the reads that feed it and the reads that follow it are made at the homes, so the writes of other agents
that they may have returned, those of the tile's engines among them, are performed there and the die's cache gives up its lines
(R107, R115). -/
def State.acquireAt (s : State) (t : TileIx) (asid : BitVec 7) (sc : Scope) : State :=
  match sc with
  | .tile => s
  | .cluster => s.dropL1 t asid
  | .die =>
    let near := (s.cluster (clusterOf t)).wbuf
    ((s.modCluster (clusterOf t) fun k => { k with wbuf := [] }).modDie (dieOf t) fun x =>
      { x with wbuf := x.wbuf ++ near }).dropL1 t asid
  | _ =>
    let fed (w : PendingWrite) : Bool := !w.ctl && (s.tile t).wbuf.any fun v => v.access.any (·.1) && v.sameLine w
    let seen := (s.die (dieOf t)).wbuf ++ (s.cluster (clusterOf t)).wbuf ++ (s.tile t).wbuf.filter fed
    let s1 := ((s.modCluster (clusterOf t) fun k => { k with wbuf := [] }).modDie (dieOf t) fun x =>
      { x with wbuf := [] }).modTile t fun x => { x with wbuf := x.wbuf.filter fun w => !fed w }
    ((seen.foldl (fun s w => s.atHome (dieOf t) w) s1).dropDie (dieOf t)).dropL1 t asid

/-! ### The control region, as it reads (R353) -/

/-- The state code of a context (R354). -/
def CtxSt.code : CtxSt → BitVec 2
  | .free => 0 | .active => 1 | .ending => 2

/-- A word of a context block (R354); the block of context 0 reads STATE 1 and ASID 0, and its other fields as context 0 holds
them. -/
def State.ctxWord (s : State) (c : CtxNo) (k : Nat) : Word :=
    let x := s.ctx c
    let hi (a b : BitVec 32) : Word := a ++ b
    match k with
    | 0 => if c == 0 then 1 else (0#42 ++ x.group ++ 0#1 ++ x.asid ++ 0#5 ++ BitVec.ofBool x.err ++ CtxSt.code x.st : BitVec 64)
    | 1 => (0#18 ++ x.root ++ 0#12 : BitVec 64)
    | 2 => hi x.period x.allowance
    | 3 => (0#16 ++ x.save ++ 0#6 : BitVec 64).setWidth 64
    | 4 => hi 0 x.peers
    | 5 => (x.sqlog ++ 0#2 ++ x.sqbase ++ 0#7 : BitVec 64)
    | 6 => (x.cqlog ++ 0#2 ++ x.cqbase ++ 0#5 : BitVec 64)
    | 7 => hi x.quantum x.holdlim
    | 8 => hi x.kvReserve[0] x.kvFree[0]
    | 9 => hi x.kvReserve[1] x.kvFree[1]
    | 10 => hi x.kvReserve[2] x.kvFree[2]
    | 11 => hi x.kvReserve[3] x.kvFree[3]
    | 12 => hi x.pipewdog x.fewdog
    | _ => 0

/-- The owner byte of a segment (R361). -/
def Segment.byte (g : Segment) : Byte :=
  match g.owner with
  | none => 0
  | some c => 1#1 ++ c

/-- A word of a Caddy region entry (R362). -/
def Region.word (r : Region) (hi : Bool) : Word :=
  if hi then r.grant
  else (0#17 ++ r.owner ++ 0#5 ++ BitVec.ofBool r.updating ++ BitVec.ofBool r.damaged ++ BitVec.ofBool r.valid ++ 0#7 ++
    r.len ++ 0#7 ++ r.base : BitVec 64)

/-- The PARKINFO of a request (R357). -/
def Parked.info (p : Parked) : Word :=
  (0#36 ++ p.id ++ 0#13 ++ BitVec.ofBool p.malformed ++ p.access : BitVec 64)

/-- The PARKNEXT of a request (R357). -/
def Parked.next (p : Parked) : Word := (1#1 ++ p.ctx ++ p.tile ++ p.va : BitVec 64)

/-- The oldest request of a parking unit that has not been presented (R357). -/
def Die.unpresented (d : Die) : Option Parked := d.parked.find? fun p => !p.presented

/-- An aligned word of the control region (R353); a read of PARKNEXT takes the record (see `State.parkTake`). -/
def State.ctlWord (s : State) (off : Nat) : Word :=
  if off < 0x4000 then s.ctxWord (BitVec.ofNat 7 (off / 128)) (off % 128 / 8)
  else if 0x10000 ≤ off && off < 0x12000 then
    let i := off - 0x10000
    let x := s.tile (BitVec.ofNat 8 (i / 32))
    BitVec.ofNat 64 (leNat ((List.range 8).map fun j => Segment.byte (x.seg (BitVec.ofNat 5 (i % 32 + j)))))
  else if 0x20000 ≤ off && off < 0x30000 then
    let i := off - 0x20000
    Region.word ((s.tile (BitVec.ofNat 8 (i / 256))).caddy.regions[(i % 256 / 16) % 16]'(by omega)) (i % 16 == 8)
  else if 0x30000 ≤ off && off < 0x30400 then
    let d := s.die (BitVec.ofNat 2 ((off - 0x30000) / 256))
    match off % 256 with
    | 0 => ((Die.unpresented d).map Parked.next).getD 0
    | 8 => d.parkInfo
    | 24 => (d.parkBell.zeroExtend 64)
    | _ => 0
  else if 0x31000 ≤ off && off < 0x31400 then
    let a := s.port.apertures[((off - 0x31000) / 16) % 64]'(by omega)
    if off % 16 == 8 then a.base
    else (0#55 ++ BitVec.ofBool a.err ++ BitVec.ofBool a.valid ++ a.ctx : BitVec 64)
  else 0

/-- Bytes of the control region (R353). -/
def State.ctlBytes (s : State) (off n : Nat) : List Byte :=
  (List.range n).map fun j => (s.ctlWord ((off + j) / 8 * 8)).extractLsb' (8 * ((off + j) % 8)) 8

/-- A read of PARKNEXT removes the oldest unpresented record and makes PARKINFO its rest (R357). -/
def State.parkTake (s : State) (d : DieIx) : State :=
  match Die.unpresented (s.die d) with
  | none => s
  | some p => s.modDie d fun x =>
    { x with parkInfo := p.info, parked := x.parked.map fun q => if q.id == p.id then { q with presented := true } else q }

/-- The effect of reading pieces of the control region. -/
def State.ctlRead (s : State) (l : List (BitVec 48 × Nat × GSrc)) : State :=
  l.foldl (fun s p => match p.2.2 with
    | .ctl off =>
      if 0x30000 ≤ off && off < 0x30400 && off % 256 < 8 then s.parkTake (BitVec.ofNat 2 ((off - 0x30000) / 256)) else s
    | _ => s) s

/-! ### Parking (R357) -/

/-- The parking unit is full (R357). -/
def State.parkFull (s : State) (t : TileIx) : Bool := decide (4096 ≤ (s.die (dieOf t)).parked.length)

/-- The id of a parked request that no other holds: the next number in turn. -/
def freshPark (l : List Parked) (id : BitVec 12) : Nat → BitVec 12
  | 0 => id
  | n + 1 => if l.any (·.id == id) then freshPark l (id + 1) n else id

/-- A failed translation parked: a new record, 10 ms on its timer, and PARKBELL's word set full where the unit was
empty (R357). -/
def State.park (s : State) (t : TileIx) (c : CtxNo) (va : BitVec 48) (acc : Acc) (malformed : Bool) (k : ParkKind) :
    State :=
  let d := dieOf t
  let x := s.die d
  let id := freshPark x.parked x.nextPark 4096
  let bell := BitVec.ofNat 8 (64 * d.toNat + 63)
  let s1 := s.modDie d fun x =>
    { x with nextPark := id + 1, parked := x.parked ++ [⟨id, t, c, va, Acc.code acc, malformed, false, 10000000, k⟩] }
  if x.parked.isEmpty then
    match spHome bell x.parkBell.toNat with
    | none => s1
    | some h => s1.modTile h (·.setTag true (x.parkBell.toNat % 2 ^ 21))
  else s1

end Sys2Proof.Machine
end

