-- ==== Sys2Proof/Machine/Owners.lean ====
section
/-! DEFINITION. The owners of scratchpad segments: grants and revokes (R89, R361). -/

namespace Sys2Proof.Machine

/-- A segment after a write of its owner byte: a grant to a context other than the last owner begins the zeroing of R89. -/
def Segment.write (g : Segment) (o : Option CtxNo) : Segment :=
  match o with
  | none => { g with owner := none }
  | some c =>
    if g.owner == some c then g
    else { owner := some c, last := some c, zeroing := g.zeroing || g.last.any (· != c) }

/-- The owner an owner byte names (R361). -/
def ownerOf (b : Byte) : Option CtxNo := if b.getLsbD 7 then some (b.extractLsb' 0 7) else none

/-- A write of a segment owner byte; one of a system tile that names a context other than 0 is refused (R361). -/
def State.writeOwner (s : State) (t : TileIx) (g : BitVec 5) (b : Byte) : State :=
  if isSystemTile t && (ownerOf b).any (· != 0) then s else s.modTile t fun x => x.modSeg g (·.write (ownerOf b))

/-- A system-mode write of `SPSEG` as owner-byte writes, in ascending segment order (R361). -/
def State.writeSpseg (s : State) (t : TileIx) (w : Word) : State :=
  (List.range 32).foldl (fun s i =>
    let g := BitVec.ofNat 5 i
    if w.getLsbD i then s.writeOwner t g 0x80
    else if ((s.tile t).seg g).owner == some 0 then s.writeOwner t g 0 else s) s

/-- The persist window has bytes in a segment. -/
def Tile.windowMeets (x : Tile) (g : BitVec 5) : Bool :=
  let c := x.regs.ctl
  c.persl != 0 && decide (c.persb.toNat < 65536 * (g.toNat + 1)) && decide (65536 * g.toNat < c.persb.toNat + c.persl.toNat)

/-- The zeroing of a segment completes: every byte zero, every tag full (R89); a persist window there is dirty (R394). -/
def Tile.zeroSeg (x : Tile) (g : BitVec 5) : Tile :=
  { x with
    peat := { x.peat with dirty := x.peat.dirty || x.windowMeets g }
    sp := cellsErase x.sp (g.toNat * 65536) 65536
    empties := numDelRange x.empties (g.toNat * 8192) 8192
    poison := numDelRange x.poison (g.toNat * 8192) 8192 }.modSeg g fun y => { y with zeroing := false }

/-- The zeroing of the segments that an access touches completes before it: an access of the new owner interlocks until then
(R89). -/
def State.endZeroing (s : State) (t : TileIx) (c : CtxNo) (a n : Nat) : State :=
  let p := s.spLocs t c a n
  s.modTile p.1 fun x => p.2.foldl (fun x o => match o with
    | none => x
    | some off => if x.zeroing c off then x.zeroSeg (BitVec.ofNat 5 (off / 65536)) else x) x

end Sys2Proof.Machine
end

