-- ==== Sys2Proof/Machine/Descriptors.lean ====
section
/-! DEFINITION. Stream descriptors: their fields, the address of an element, the address of a block's scales, and the
checks where one is used (R98 to R101). -/

namespace Sys2Proof.Machine

/-- SPACE of a descriptor (R98). -/
def dSpace (d : Desc) : BitVec 2 := d.extractLsb' 48 2

/-- The space of a descriptor that has passed R101. -/
def dSpc (d : Desc) : Space :=
  match (dSpace d).toNat with
  | 0 => .sp
  | 1 => .g
  | _ => .cd

/-- BASE. -/
def dBase (d : Desc) : BitVec 48 := d.extractLsb' 0 48
/-- FMT. -/
def dFmt (d : Desc) : BitVec 4 := d.extractLsb' 50 4
/-- FK: FMT is a matrix-format code. -/
def dFk (d : Desc) : Bool := d.getLsbD 54
/-- SCALE. -/
def dScale (d : Desc) : Nat := (d.extractLsb' 55 17).toNat
/-- WRAP. -/
def dWrap (d : Desc) : Nat := (d.extractLsb' 72 24).toNat
/-- COUNTk as it stands. -/
def dCountBits (d : Desc) (k : Nat) : BitVec 16 := d.extractLsb' (96 + 40 * k) 16
/-- COUNTk; 0 is treated as 1. -/
def dCount (d : Desc) (k : Nat) : Nat := max 1 (dCountBits d k).toNat
/-- STRIDEk. -/
def dStrideBits (d : Desc) (k : Nat) : BitVec 24 := d.extractLsb' (112 + 40 * k) 24
/-- STRIDEk as a signed number of bytes. -/
def dStride (d : Desc) (k : Nat) : Int := (dStrideBits d k).toInt

/-- The SX format of a descriptor, if it names one. -/
def dSx (d : Desc) : Option SxFmt :=
  if dFk d then
    match (dFmt d).toNat with
    | 4 => some .sx8
    | 5 => some .sx4
    | 6 => some .sx2
    | _ => none
  else none

/-- The bits of an element (R44, R134, R178). -/
def dBits (d : Desc) : Nat :=
  if dFk d then
    match (dFmt d).toNat with
    | 3 => 16
    | 5 => 4
    | 6 => 2
    | _ => 8
  else match ETy.ofCode (dFmt d) with
    | some t => t.width
    | none => 8

/-- The bytes of an SX block's elements (R100). -/
def sxBytes : SxFmt → Nat
  | .sx8 => 16
  | .sx4 => 8
  | .sx2 => 4

/-- The number of elements: the product of the counts (R134). -/
def dTotal (d : Desc) : Nat := dCount d 0 * dCount d 1 * dCount d 2 * dCount d 3

/-- The linear offset L of an element (R99). -/
def dLinear (d : Desc) (i0 i1 i2 i3 : Nat) : Int :=
  (if dBits d < 8 then ((i0 * dBits d / 8 : Nat) : Int) else i0 * dStride d 0) + i1 * dStride d 1 + i2 * dStride d 2 + i3 * dStride d 3

/-- The base a0 of R99: an offset in a segment space, or the address with bit 47 sign-extended. -/
def dStart (d : Desc) : Int :=
  match (dSpace d).toNat with
  | 0 => ((dBase d).extractLsb' 0 21).toNat
  | 1 => (dBase d).toInt
  | _ => (dBase d).toNat

/-- The address word for a of R99; an address in SP that passes offset 0x1F_FFFF is malformed (R87). -/
def dPlace (d : Desc) (a : Int) : Word :=
  if dSpace d == 0 then
    let x : Word := ((dBase d).extractLsb' 21 11).zeroExtend 64 <<< (21 : Nat) + BitVec.ofInt 64 a
    if a < 2 ^ 21 then x else 1#32 ++ x.extractLsb' 0 32
  else BitVec.ofInt 64 a

/-- The byte address of an element (R99). -/
def dAddr (d : Desc) (i0 i1 i2 i3 : Nat) : Word :=
  let l := dLinear d i0 i1 i2 i3
  let a0 := dStart d
  let w : Int := dWrap d
  dPlace d (if dWrap d = 0 then a0 + l else a0 - a0 % w + (a0 % w + l) % w)

/-- The bit within its byte at which an element begins (R99). -/
def dBitOff (d : Desc) (i0 : Nat) : Nat := if dBits d < 8 then i0 * dBits d % 8 else 0

/-- The address of the two scale bytes of the block that holds linear offset L (R100). -/
def dScaleAddr (d : Desc) (f : SxFmt) (l : Int) : Word :=
  let bb : Int := sxBytes f
  let a0 := dStart d
  let w : Int := dWrap d
  let sl := 2 * (l / bb)
  dPlace d (if dWrap d = 0 then a0 + 64 * dScale d + sl
    else a0 - a0 % w + 64 * dScale d + (a0 % w / bb * 2 + sl) % (w / bb * 2))

/-- The bit of the micro-exponent byte for the element at linear offset L: its place in its block, by pairs (R100, R178). -/
def sxPair (f : SxFmt) (l : Int) (bit : Nat) : Nat := ((l % (sxBytes f : Int)).toNat * 8 + bit) * 16 / (sxBytes f * 8) / 2

/-- The index of element k, innermost first (R134). -/
def dIndex (d : Desc) (k : Nat) : Nat × Nat × Nat × Nat :=
  let c0 := dCount d 0
  let c1 := dCount d 1
  let c2 := dCount d 2
  (k % c0, k / c0 % c1, k / (c0 * c1) % c2, k / (c0 * c1 * c2))

/-- The address of element k (R99, R134). -/
def dAt (d : Desc) (k : Nat) : Word :=
  let i := dIndex d k
  dAddr d i.1 i.2.1 i.2.2.1 i.2.2.2

/-- The descriptor passes the checks of R101 for a user: `matrix` for a matrix stream, `writes` for a writer. -/
def dOk (d : Desc) (matrix writes : Bool) : Bool :=
  dSpace d != 3 && (if dFk d then decide ((dFmt d).toNat ≤ 6) else dFmt d != 15) && (dFk d || !matrix) &&
  !(writes && dSpace d == 2) &&
  (match dSx d with
  | some f =>
    dWrap d % sxBytes f == 0 && dCount d 0 % 16 == 0 &&
      [1, 2, 3].all fun k => dStride d k % (sxBytes f : Int) == 0
  | none => dWrap d % max 1 (dBits d / 8) == 0)

/-- Field f of a descriptor as `DGET` reads it (R98, R148). -/
def dGet (d : Desc) (f : Nat) : Word :=
  match f with
  | 0 => (dBase d).zeroExtend 64
  | 1 => (dSpace d).zeroExtend 64
  | 2 => (dFmt d).zeroExtend 64
  | 3 => (d.extractLsb' 54 1).zeroExtend 64
  | 4 => (d.extractLsb' 55 17).zeroExtend 64
  | 5 => (d.extractLsb' 72 24).zeroExtend 64
  | _ => if f < 10 then (dCountBits d (f - 6)).zeroExtend 64 else (dStrideBits d (f - 10)).signExtend 64

/-- The place of field f: its lowest bit and its width (R98). -/
def dField (f : Nat) : Nat × Nat :=
  match f with
  | 0 => (0, 48)
  | 1 => (48, 2)
  | 2 => (50, 4)
  | 3 => (54, 1)
  | 4 => (55, 17)
  | 5 => (72, 24)
  | _ => if f < 10 then (96 + 40 * (f - 6), 16) else (112 + 40 * (f - 10), 24)

/-- Field f of a descriptor replaced by the low bits of a word (R148). -/
def dSet (d : Desc) (f : Nat) (w : Word) : Desc :=
  let m : Desc := (BitVec.ofNat 256 (2 ^ (dField f).2 - 1)) <<< (dField f).1
  (d &&& ~~~m) ||| ((w.zeroExtend 256 <<< (dField f).1) &&& m)

end Sys2Proof.Machine
end

