-- ==== Sys2Proof/Machine/Image.lean ====
section
/-! DEFINITION. Control registers as words, and the image of a task's state in a slot of the save area (R26, R29, R386,
R387). -/

namespace Sys2Proof.Machine

/-! ### Task-scoped control registers as words (R26, R29) -/

/-- `CTX` (R29). -/
def Ctl.ctxWord (c : Ctl) : Word :=
  (0#46 ++ BitVec.ofBool c.sys ++ BitVec.ofBool c.hnd ++ 0#1 ++ c.asid ++ 0#1 ++ c.ctxn : BitVec 64)
/-- `HOLD` (R26). -/
def Ctl.holdWord (c : Ctl) : Word := (c.holdLeft ++ 0#29 ++ c.holdDepth : BitVec 64)
/-- `RMODE` (R29). -/
def Ctl.rmodeWord (c : Ctl) : Word := (0#59 ++ c.rCvt ++ c.rArith : BitVec 64)
/-- `OOBFLAG` (R29). -/
def Ctl.oobWord (c : Ctl) : Word := (0#62 ++ BitVec.ofBool c.oobWr ++ BitVec.ofBool c.oobFlag : BitVec 64)
/-- `MXPROG` (R29). -/
def Ctl.mxWord (c : Ctl) : Word := (0#52 ++ BitVec.ofBool c.mxAct ++ c.mxAcc ++ 0#1 ++ c.mxRows : BitVec 64)
/-- `QMEMB` (R26). -/
def Ctl.qmembWord (c : Ctl) : Word := (c.qmembWt ++ 0#26 ++ c.qmembIx : BitVec 64)
/-- `QFRAME` (R26). -/
def Ctl.qframeWord (c : Ctl) : Word := (0#16 ++ c.qframeSize ++ 0#11 ++ c.qframeBase : BitVec 64)
/-- `WSRC0` and `WSRC1` (R29). -/
def WLatch.srcWord (w : WLatch) : Word :=
  (w.addr ++ 0#2 ++ w.slot ++ 0#1 ++ BitVec.ofBool w.expand ++ w.space ++ BitVec.ofBool w.full ++ 0#3 ++ w.fmt : BitVec 64)

/-- The sequence number of a command of a queue (R150). -/
def seqNum (t : TileIx) (q : QueueId) (count : BitVec 54) : Word := (t ++ QueueId.code q ++ count : BitVec 64)

/-- The task-scoped control registers but the fault banks, in ascending number, as the image holds them (R387). -/
def Tile.ctlWords (x : Tile) : List Word :=
  let c := x.regs.ctl
  [c.task, c.ctxWord, (c.prio.zeroExtend 64), c.holdWord, c.rmodeWord, c.fpflags.zeroExtend 64,
   (BitVec.ofBool c.sbchk).zeroExtend 64, c.srseed.zeroExtend 64, c.oobAddr.zeroExtend 64, c.oobWord,
   c.ashape.zeroExtend 64, c.mxWord, x.mx.w[0].srcWord, x.mx.w[1].srcWord, c.persb.zeroExtend 64, c.persl.zeroExtend 64,
   c.livev.zeroExtend 64, c.loop0.lc.zeroExtend 64, c.loop0.ls.zeroExtend 64, c.loop0.le.zeroExtend 64,
   c.loop1.lc.zeroExtend 64, c.loop1.ls.zeroExtend 64, c.loop1.le.zeroExtend 64, c.qjoin.zeroExtend 64, c.qmembWord,
   c.qframeWord]

/-! ### The image of a slot (R387) -/

/-- The little-endian bytes of a bit vector. -/
def bvBytes {n : Nat} (k : Nat) (x : BitVec n) : List Byte := leBytes k x.toNat

/-- The sequence number an engine command will write to a register it holds as its token; `hnd` says whether a banked register is
the handler's copy (R151, R377, R387). -/
def Tile.tokenValue (x : Tile) (t : TileIx) (hnd : Bool) (r : SReg) : Option Word :=
  firstOf (fun q => firstOf (fun (c : EngCmd) =>
    if c.live && c.token == r && r != 0 && (r.toNat < 56 || c.hnd == hnd) then some (seqNum t q c.count) else none) (x.queue q).cmds)
    [.cpy, .gath, .coll, .strm]

/-- The registers of R377, as they stand. -/
def Regs.bank (r : Regs) : Banked :=
  { s := Vector.ofFn fun i : Fin 8 => r.s[56 + i.val]
    p7 := r.p.getLsbD 7, loop0 := r.ctl.loop0, loop1 := r.ctl.loop1, fpflags := r.ctl.fpflags }

/-- The registers with other copies of those of R377 in place. -/
def Regs.unbank (r : Regs) (b : Banked) : Regs :=
  { r with
    s := (((((((r.s.set 56 b.s[0]).set 57 b.s[1]).set 58 b.s[2]).set 59 b.s[3]).set 60 b.s[4]).set 61 b.s[5]).set 62
      b.s[6]).set 63 b.s[7]
    p := if b.p7 then r.p ||| 0x80 else r.p &&& 0x7F
    ctl := { r.ctl with loop0 := b.loop0, loop1 := b.loop1, fpflags := b.fpflags } }

/-- The registers of the task itself, with its own copies of those of R377 (R387). -/
def Tile.ownRegs (x : Tile) : Regs :=
  match x.banked with
  | none => x.regs
  | some b => x.regs.unbank b

/-- The handler's copies of the registers of R377, with the tokens it waits for (R387). -/
def Tile.handlerCopies (x : Tile) (t : TileIx) : Banked :=
  let b := x.regs.bank
  { b with s := Vector.ofFn fun i : Fin 8 => (x.tokenValue t true (BitVec.ofNat 6 (56 + i.val))).getD b.s[i] }

/-- The record of a weight latch in the image: the descriptor value, ROW0 and CNT, then mode, slots and chain (R387). -/
def WLatch.bytes (w : WLatch) : List Byte :=
  bvBytes 32 w.desc ++ bvBytes 8 w.ss ++
    [if w.full then 1 else 0, if w.expand then 1 else 0, w.slot.zeroExtend 8, w.chain.zeroExtend 8, w.groups.zeroExtend 8] ++
    List.replicate 19 0

/-- The record of a Steep slot in the image: Caddy offset, format and a valid bit (R387). -/
def SteepSlot.bytes (w : SteepSlot) : List Byte :=
  bvBytes 8 w.src ++ [w.fmt.zeroExtend 8, if w.valid then 1 else 0] ++ List.replicate 6 0

/-- The record of a matrix instruction the image keeps: its slot word, then its descriptor, register, `ASHAPE` and seed
values (R387). -/
def MxOp.bytes (m : MxOp) : List Byte :=
  bvBytes 4 m.word ++ bvBytes 32 m.desc ++ bvBytes 8 m.ss ++ [m.ashape.zeroExtend 8, 0, 0, 0] ++ bvBytes 4 m.seed ++
    List.replicate 12 0

/-- It is an `MMA`. -/
def MxOp.isMma (m : MxOp) : Bool :=
  match m.kind with
  | .mma .. => true
  | _ => false

/-- It is an `MDRAIN`. -/
def MxOp.isDrain (m : MxOp) : Bool :=
  match m.kind with
  | .mdrain .. => true
  | _ => false

/-- Matrix work as a save records it: an `MMA` goes on at its row, a drain or a load is redone whole (R248). -/
def MxOp.again (m : MxOp) : MxOp :=
  match m.kind with
  | .mma .. => { m with parked := false, rows := [], held := [] }
  | .mdrain .. => { m with parked := false, done := 0, flags := 0, held := [], redone := true }
  | _ => { m with parked := false, done := 0, rows := [], held := [] }

/-- The matrix work that the save of a deep pre-emption records: an `MMA` and a drain; a load is redone from its latch record.
An instruction that a fault stopped stays recorded; it is marked parked (R248). -/
def Tile.redo (x : Tile) : List MxOp :=
  ((x.mx.ops.filter fun m => m.isMma || m.isDrain).map (·.again)) ++ x.mx.stopped.map fun m => { m with parked := true }

/-- `MXPROG` of a tile that is saved: a recorded drain is described, unless an `MMA` is (R246). -/
def Tile.recorded (x : Tile) : Tile :=
  if (x.mx.ops ++ x.mx.stopped).any (·.isMma) then x
  else match firstOf (fun (m : MxOp) => match m.kind with
    | .mdrain c .. => some c
    | _ => none) x.mx.ops with
    | some c =>
      { x with
        regs := { x.regs with ctl := { x.regs.ctl with mxAct := true, mxAcc := c, mxRows := 0 } }
        mx := { x.mx with stopped := x.mx.stopped.map fun m => { m with shown := false } } }
    | none => x

/-- The instruction of some that the in-flight matrix record holds: a stopped `MMA`, or else a drain (R31, R387). -/
def recordOf (ops : List MxOp) : Option MxOp := (ops.find? (·.isMma)).orElse fun _ => ops.find? (·.isDrain)

/-- A loop's registers in the handler part of the image. -/
def LoopRegs.bytes (l : LoopRegs) : List Byte := bvBytes 4 l.lc ++ bvBytes 6 l.ls ++ bvBytes 6 l.le

/-- The handler part of the image (R377, R387). -/
def Banked.bytes (b : Banked) : List Byte :=
  (b.s.toList.flatMap (bvBytes 8)) ++ LoopRegs.bytes b.loop0 ++ LoopRegs.bytes b.loop1 ++
    [if b.p7 then 1 else 0, b.fpflags.zeroExtend 8]

/-- A line of the commit buffer in the image: the line and its 8-byte address (R387). -/
def CommitLine.image (l : CommitLine) : List Byte :=
  ((List.range 64).map fun j => (assocGet l.bytes (l.base + j)).getD 0) ++ leBytes 8 l.base

/-- The lines of a contribution in the image, 16 values to a line (R310); what the address of such a line reads is not
stated. -/
def Contribution.image (k : Contribution) : List Byte :=
  (List.range ((k.values.length + 15) / 16)).flatMap fun i =>
    (List.range 16).flatMap (fun j => bvBytes 4 ((k.values[16 * i + j]?).getD 0)) ++ leBytes 8 (Config.contribAddr (k.offset + 16 * i))

/-- A commit buffer in the image (R310, R311, R387). -/
def CommitBuf.image (b : CommitBuf) : List Byte := b.lines.flatMap CommitLine.image ++ b.contribs.flatMap Contribution.image

/-- The parts of the image of the task on tile t, each with its offset: `ops` is the matrix work the save records,
`pc` the address execution continues at (R387). -/
def Tile.image (x : Tile) (t : TileIx) (pc : Addr48) (ops : List MxOp) : List (Nat × List Byte) :=
  let r := x.ownRegs
  let sval (i : Nat) : Word := (x.tokenValue t false (BitVec.ofNat 6 i)).getD (r.getS (BitVec.ofNat 6 i))
  [(0x0000, (List.range 64).flatMap fun i => bvBytes 8 (sval i)),
   (0x0200, (List.range 7).flatMap fun i => bvBytes 128 (r.getM (BitVec.ofNat 3 (i + 1)))),
   (0x0580, (List.range 16).flatMap fun i => bvBytes 32 (r.getD (BitVec.ofNat 4 i))),
   (0x0780, bvBytes 8 (BitVec.ofBool r.ctl.hnd ++ 0#15 ++ pc) ++ bvBytes 8 (r.p &&& 0xFE) ++ { x with regs := r }.ctlWords.flatMap (bvBytes 8)),
   (0x0900, x.commit.image),
   (0x1200, r.q.toList.flatMap fun q => bvBytes 8 q.value ++ bvBytes 4 q.index ++ [0, 0, 0, 0]),
   (0x1240, x.mx.w.toList.flatMap WLatch.bytes),
   (0x12C0, x.mx.st.toList.flatMap SteepSlot.bytes),
   (0x1300, bvBytes 8 x.mx.spill ++ bvBytes 8 x.mx.written),
   (0x1310, ((x.run.map (·.openJoins)).getD []).flatMap (bvBytes 4)),
   (0x1340, if x.banked.isSome then (x.handlerCopies t).bytes else []),
   (0x13C0, ((recordOf ops).map MxOp.bytes).getD []),
   (0x2000, r.v.toList.flatMap (bvBytes 512))] ++
  ((List.range 8).filter fun i => x.mx.written.getLsbD i).map fun i =>
    (0x6000 + 28672 * i, bvBytes 28672 (r.getC (BitVec.ofNat 3 i)))

/-- The parts of an image below 0x6000 with the bytes between them written as zero (R387). -/
def padParts (at' : Nat) : List (Nat × List Byte) → List (Nat × List Byte)
  | [] => []
  | (o, bs) :: rest =>
    if 0x6000 ≤ o then (o, bs) :: padParts at' rest
    else
      let bs' := List.replicate (o - at') 0 ++ bs
      (at', bs') :: padParts (at' + bs'.length) rest

/-- Everything a save writes: the image with its zero bytes (R387). -/
def Tile.fullImage (x : Tile) (t : TileIx) (pc : Addr48) (ops : List MxOp) : List (Nat × List Byte) :=
  padParts 0 (x.image t pc ops) ++ [(0x3E000, List.replicate 0x2000 0)]

/-- The bits of a part of an image: `n` bytes at offset `o`. -/
def imgNat (l : List Host.Cell) (o n : Nat) : Nat := leNat (cellsRead l o n)

/-- A word of the control-register part of an image: k = 2 is the first register (R387). -/
def imgWord (l : List Host.Cell) (k : Nat) : Word := BitVec.ofNat 64 (imgNat l (0x780 + 8 * k) 8)

/-- A loop as an image holds it, from word k of the control-register part. -/
def imgLoop (l : List Host.Cell) (k : Nat) : LoopRegs :=
  ⟨(imgWord l k).extractLsb' 0 32, (imgWord l (k + 1)).extractLsb' 0 48, (imgWord l (k + 2)).extractLsb' 0 48⟩

/-- A loop of the handler part of an image, at an offset. -/
def imgBankedLoop (l : List Host.Cell) (o : Nat) : LoopRegs :=
  ⟨BitVec.ofNat 32 (imgNat l o 4), BitVec.ofNat 48 (imgNat l (o + 4) 6), BitVec.ofNat 48 (imgNat l (o + 10) 6)⟩

/-- The handler's copies from an image (R377, R387). -/
def imgBanked (l : List Host.Cell) : Banked :=
  { s := Vector.ofFn fun i : Fin 8 => BitVec.ofNat 64 (imgNat l (0x1340 + 8 * i.val) 8)
    loop0 := imgBankedLoop l 0x1380, loop1 := imgBankedLoop l 0x1390
    p7 := imgNat l 0x13A0 1 == 1, fpflags := BitVec.ofNat 6 (imgNat l 0x13A1 1) }

/-- The control registers of an image laid over those of the issuing task. With `identity`, `TASK`, `PRIO`, `QJOIN`,
`QMEMB` and `QFRAME` come from the image too (R389, R390). `CTX` keeps the context the device gave the task. -/
def Ctl.load (c : Ctl) (l : List Host.Cell) (identity : Bool) (holdlim : BitVec 32) : Ctl :=
  let w (k : Nat) := imgWord l k
  let d := (w 5).extractLsb' 0 3
  { c with
    task := if identity then w 2 else c.task
    prio := if identity then (w 4).extractLsb' 0 6 else c.prio
    holdDepth := d
    holdLeft := if identity then (w 5).extractLsb' 32 32 else if d == 0 then 0xFFFFFFFF else holdlim
    rArith := (w 6).extractLsb' 0 2
    rCvt := (w 6).extractLsb' 2 3
    fpflags := (w 7).extractLsb' 0 6
    sbchk := (w 8).getLsbD 0
    srseed := (w 9).extractLsb' 0 32
    oobAddr := (w 10).extractLsb' 0 32
    oobFlag := (w 11).getLsbD 0
    oobWr := (w 11).getLsbD 1
    ashape := (w 12).extractLsb' 0 4
    mxAct := (w 13).getLsbD 11
    mxAcc := (w 13).extractLsb' 8 3
    mxRows := (w 13).extractLsb' 0 7
    persb := (w 16).extractLsb' 0 21
    persl := (w 17).extractLsb' 0 17
    livev := (w 18).extractLsb' 0 32
    loop0 := imgLoop l 19
    loop1 := imgLoop l 22
    qjoin := if identity then (w 25).extractLsb' 0 32 else c.qjoin
    qmembIx := if identity then (w 26).extractLsb' 0 6 else c.qmembIx
    qmembWt := if identity then (w 26).extractLsb' 32 32 else c.qmembWt
    qframeBase := if identity then (w 27).extractLsb' 0 21 else c.qframeBase
    qframeSize := if identity then (w 27).extractLsb' 32 16 else c.qframeSize
    hnd := identity && (w 0).getLsbD 63 }

/-- The registers of an image (R387); accumulator tiles that were not written read zero. -/
def Regs.load (r : Regs) (l : List Host.Cell) (identity : Bool) (holdlim : BitVec 32) : Regs :=
  let wm := imgNat l 0x1308 1
  { s := (Vector.ofFn fun i : Fin 64 => BitVec.ofNat 64 (imgNat l (8 * i.val) 8)).set 0 0
    p := (BitVec.ofNat 8 (imgNat l 0x788 1)) ||| 1
    v := Vector.ofFn fun i : Fin 32 => BitVec.ofNat 4096 (imgNat l (0x2000 + 512 * i.val) 512)
    m := Vector.ofFn fun i : Fin 8 => if i.val = 0 then 0 else BitVec.ofNat 1024 (imgNat l (0x200 + 128 * (i.val - 1)) 128)
    q := Vector.ofFn fun i : Fin 4 =>
      ⟨BitVec.ofNat 56 (imgNat l (0x1200 + 16 * i.val) 7), BitVec.ofNat 32 (imgNat l (0x1208 + 16 * i.val) 4)⟩
    c := Vector.ofFn fun i : Fin 8 =>
      if wm.testBit i.val then BitVec.ofNat 229376 (imgNat l (0x6000 + 28672 * i.val) 28672) else 0
    d := Vector.ofFn fun i : Fin 16 => BitVec.ofNat 256 (imgNat l (0x580 + 32 * i.val) 32)
    pc := (imgWord l 0).extractLsb' 0 48
    ctl := r.ctl.load l identity holdlim }

/-- The descriptor of a latch record, read in the window form of a tile where its source is a scratchpad (R269, R389). -/
def imgLatchDesc (l : List Host.Cell) (i : Nat) (win : Option TileIx) : Desc :=
  let d : Desc := BitVec.ofNat 256 (imgNat l (0x1240 + 64 * i) 32)
  match win with
  | none => d
  | some t =>
    if d.extractLsb' 48 2 == 0 && !d.getLsbD 26 then
      (d.extractLsb' 32 224 ++ (0x04#8 ++ t.extractLsb' 0 3 ++ d.extractLsb' 0 21 : BitVec 32)).setWidth 256
    else d

/-- A latch record of an image, with the `WSRC` register that shows part of it; its columns are yet to be loaded (R387,
R389). -/
def imgLatch (l : List Host.Cell) (i : Nat) (win : Option TileIx) : WLatch :=
  let at' (k : Nat) := imgNat l (0x1240 + 64 * i + k) 1
  let w := imgWord l (14 + i)
  { full := at' 40 == 1, fmt := w.extractLsb' 0 4, addr := w.extractLsb' 16 48, space := w.extractLsb' 8 2
    expand := at' 41 == 1, slot := BitVec.ofNat 2 (at' 42), chain := BitVec.ofNat 2 (at' 43)
    groups := BitVec.ofNat 2 (at' 44), desc := imgLatchDesc l i win
    ss := BitVec.ofNat 64 (imgNat l (0x1240 + 64 * i + 32) 8), elems := 0, scales := 0 }

/-- A reload of a latch or slot (R248, R389). -/
def reloadOp (k : MxKind) (d : Desc) (ss : Word) (order : Nat) : MxOp :=
  { kind := k, desc := d, ss := ss, ashape := 0xF, pc := 0, slot := 0, word := 0, order := order, hnd := false,
    reload := true, shown := false, redone := false, done := 0, rows := [], held := [], flags := 0, epi := none, seed := 0, parked := false }

/-- The load that a latch record asks for (R389, R400). -/
def WLatch.reload (w : WLatch) (i : Nat) : Option MxOp :=
  if w.full then some (reloadOp (.mldw (BitVec.ofNat 1 i) w.expand w.slot w.chain w.groups) w.desc w.ss (4 + i)) else none

/-- The matrix format of a code byte; I8 for an unused code. -/
def mfmtOf (x : Nat) : MFmt := (MFmt.ofCode (BitVec.ofNat 4 x)).getD .i8

/-- A Steep slot record of an image; its columns are yet to be loaded (R387, R389). -/
def imgSlot (l : List Host.Cell) (i : Nat) : SteepSlot :=
  let o := 0x12C0 + 16 * i
  { valid := imgNat l (o + 9) 1 == 1, fmt := BitVec.ofNat 4 (imgNat l (o + 8) 1), src := BitVec.ofNat 64 (imgNat l o 8)
    elems := 0, scales := 0 }

/-- The load that a Steep slot record asks for (R389, R400). -/
def SteepSlot.reload (w : SteepSlot) (i : Nat) : Option MxOp :=
  if w.valid then some (reloadOp (.steepld (mfmtOf w.fmt.toNat) (1#4 <<< i)) 0 w.src i) else none

/-- The loads of Steep slots, then of weight latches, that records ask for (R389, R400). -/
def reloads (st : Vector SteepSlot 4) (w : Vector WLatch 2) : List MxOp :=
  ((List.range 4).zip st.toList).filterMap (fun p => p.2.reload p.1) ++
    ((List.range 2).zip w.toList).filterMap fun p => p.2.reload p.1

/-- The matrix side of a task restored from an image: records, reloads, spill map and recorded work (R248, R389). -/
def imgMatrix (l : List Host.Cell) (win : Option TileIx) (redo : List MxOp) : Matrix :=
  let w := Vector.ofFn fun i : Fin 2 => imgLatch l i.val win
  let st := Vector.ofFn fun i : Fin 4 => imgSlot l i.val
  { Matrix.empty with
    w := w, st := st, ops := reloads st w ++ redo.filter (fun m => !m.parked), stopped := (redo.filter (·.parked)).map fun m => { m with parked := false }
    spill := BitVec.ofNat 8 (imgNat l 0x1300 1), written := BitVec.ofNat 8 (imgNat l 0x1308 1) }

/-- The kind of the `MMA` whose slot word the in-flight record holds (R387). -/
def imgKind (l : List Host.Cell) : Option MxKind :=
  match decodeSlot .x (BitVec.ofNat 32 (imgNat l 0x13C0 4)) with
  | .ok (.mma c w _ _ acc) => some (.mma c w false 0 0 acc)
  | .ok (.mmaAbsorb c w _ j _ n acc) => some (.mma c w true j n acc)
  | _ => none

/-- An instruction with the values of the in-flight record of an image (R387). -/
def MxOp.fromImage (m : MxOp) (l : List Host.Cell) : MxOp :=
  { m with
    kind := (imgKind l).getD m.kind, word := BitVec.ofNat 32 (imgNat l 0x13C0 4), desc := BitVec.ofNat 256 (imgNat l 0x13C4 32)
    ss := BitVec.ofNat 64 (imgNat l 0x13E4 8), ashape := BitVec.ofNat 4 (imgNat l 0x13EC 1), seed := BitVec.ofNat 32 (imgNat l 0x13F0 4) }

/-- Recorded work with the values of the image: the record beside it keeps what the image has no place for. -/
def redoFrom (l : List Host.Cell) (redo : List MxOp) : List MxOp :=
  match recordOf redo with
  | none => redo
  | some o => redo.map fun m => if m.order == o.order then m.fromImage l else m

/-- The stopped `MMA` that an image records, at row ROWS of its `MXPROG`; the image has no place for its bundle (R387, R389). -/
def imgStopped (l : List Host.Cell) : List MxOp :=
  (imgKind l).toList.map fun k =>
    { (reloadOp k 0 0 0).fromImage l with
      reload := false, parked := true, shown := (imgWord l 13).getLsbD 11, done := ((imgWord l 13).extractLsb' 0 7).toNat }

/-- A commit buffer with the bytes and values that the entries of an image hold; which bytes of a line an entry writes, and
where, stays beside the record (R310, R311, R387). -/
def CommitBuf.load (b : CommitBuf) (l : List Host.Cell) : CommitBuf :=
  let n := b.lines.length
  let at' (i : Nat) := 0x900 + 72 * i
  let start (i : Nat) : Nat := n + ((b.contribs.take i).map fun k => (k.values.length + 15) / 16).foldl (· + ·) 0
  { lines := b.lines.zipIdx.map fun p =>
      { p.1 with bytes := p.1.bytes.map fun e => (e.1, cellGet l (at' p.2 + (e.1 - p.1.base))) }
    contribs := b.contribs.zipIdx.map fun p =>
      { p.1 with values := (List.range p.1.values.length).map fun k =>
          BitVec.ofNat 32 (imgNat l (at' (start p.2 + k / 16) + 4 * (k % 16)) 4) } }

/-- An image needs the Caddy of its tile: a latch with its source in space CD, or a Steep slot (R269, R389). -/
def imgNeedsCaddy (l : List Host.Cell) : Bool :=
  ((List.range 4).any fun i => (imgSlot l i).valid) ||
    (List.range 2).any fun i => (imgLatch l i none).full && (imgLatch l i none).desc.extractLsb' 48 2 == 2

/-- A latch of an image has its source in a scratchpad (R269, R389). -/
def imgNeedsCluster (l : List Host.Cell) : Bool :=
  (List.range 2).any fun i => (imgLatch l i none).full && (imgLatch l i none).desc.extractLsb' 48 2 == 0

/-! ### The save area (R386) -/

/-- The virtual address of a slot (R386). -/
def slotVa (x : Context) (i : BitVec 10) : BitVec 48 :=
  (x.save.zeroExtend 48 <<< (6 : Nat)) + (i.zeroExtend 48 <<< (18 : Nat))

/-- The lowest free slot of a context's save area (R386). -/
def freeSlot (x : Context) : Option (BitVec 10) :=
  ((List.range 1024).map (BitVec.ofNat 10)).find? fun i => !x.slots.any fun p => p.1 == i

/-- The handle of a slot (R386). -/
def slotHandle (restored record : Bool) (c : CtxNo) (i : BitVec 10) : Word :=
  (BitVec.ofBool restored ++ 0#38 ++ BitVec.ofBool record ++ 0#1 ++ c ++ 0#6 ++ i : BitVec 64)

/-- The pieces of a slot that a part of its image covers: address, length and place. -/
def State.slotPut (s : State) (t : TileIx) (c : CtxNo) (va : BitVec 48) (parts : List (Nat × List Byte)) :
    Except GFail State :=
  parts.foldl (fun r p => match r with
    | .error e => .error e
    | .ok s' =>
      match s'.gPlan t c .write false (gPieces (va + BitVec.ofNat 48 p.1) p.2.length) with
      | .error e => .error e
      | .ok (s2, l) => .ok (s2.gSend t c none [(l, p.2.map Patch.full)])) (.ok s)

/-- A part of a slot read at its home into the cells of its image: `n` bytes at offset `o`. -/
def State.slotPart (s : State) (t : TileIx) (c : CtxNo) (va : BitVec 48) (o n : Nat) (l : List Host.Cell) :
    Except GFail (List Host.Cell) :=
  match s.gPlan t c .read false (gPieces (va + BitVec.ofNat 48 o) n) with
  | .error e => .error e
  | .ok (s1, p) =>
    .ok (cellsWrite l o ((s1.dropDie (dieOf t)).gFetch t c false false (fun _ _ n => List.replicate n 0) p).2)

/-- The cells of a slot by offset: the part below the accumulator tiles, and the tiles written (R387). A failure names the
address. -/
def State.slotGet (s : State) (t : TileIx) (c : CtxNo) (va : BitVec 48) : Except GFail (List Host.Cell) :=
  match s.slotPart t c va 0 0x6000 [] with
  | .error e => .error e
  | .ok l =>
    ((List.range 8).filter fun i => (imgNat l 0x1308 1).testBit i).foldl (fun r i => match r with
      | .error e => .error e
      | .ok l => s.slotPart t c va (0x6000 + 28672 * i) 28672 l) (.ok l)

end Sys2Proof.Machine
end

