-- ==== Sys2Proof/Machine/Work.lean ====
section
/-! DEFINITION. The accesses of a task that are still to be performed, as its other accesses meet them: what an instruction
has still to read or write, and what waits for it (R108, R111 to R114, R118, R128, R143). -/

namespace Sys2Proof.Machine

/-! ### Matrix streams (R226, R229, R240, R241) -/

/-- ROW0 of an operand register (R229). -/
def ssRow0 (ss : Word) : Nat := (ss.extractLsb' 16 32).toNat
/-- CNT of an operand register (R229). -/
def ssCnt (ss : Word) : Nat := (ss.extractLsb' 0 7).toNat
/-- CNT of the register of an `MDRAIN` (R240). -/
def ssDrainCnt (ss : Word) : Nat := (ss.extractLsb' 40 7).toNat

/-- Column n belongs to a participating band (R226, R228). -/
def participates (shape : BitVec 4) (n : Nat) : Bool := shape.getLsbD (n / 16)

/-- The participating columns, ascending. -/
def columns (shape : BitVec 4) : List Nat := (List.range 64).filter (participates shape)

/-- The elements of operand row j: the addresses of its COUNT0 elements (R229). -/
def rowElems (d : Desc) (ss : Word) (j : Nat) : List (Word × Nat) :=
  (List.range (dCount d 0)).map fun k => (dAddr d k (ssRow0 ss + j) 0 0, (dBits d + 7) / 8)

/-- The linear offset of element k of operand row j (R99, R229). -/
def rowLinear (d : Desc) (ss : Word) (j k : Nat) : Int := dLinear d k (ssRow0 ss + j) 0 0

/-- The first elements of the groups of a row that share a pair of scale bytes whatever the strides: every element of a format
of 8 bits, and sixteen packed elements of a smaller one (R99, R100). -/
def scaleStep (d : Desc) : Nat := if dBits d < 8 then 16 else 1

/-- The scale bytes of operand row j: two for each element, or for each packed block (R100, R229). -/
def rowScales (d : Desc) (ss : Word) (j : Nat) : List (Word × Nat) :=
  match dSx d with
  | none => []
  | some f => (List.range (dCount d 0 / scaleStep d)).map fun b => (dScaleAddr d f (rowLinear d ss j (scaleStep d * b)), 2)

/-- The bytes an `MLDW` reads: the elements of rows 0 to CNT - 1 with the scale bytes of their blocks (R229, R236). -/
def loadBytes (d : Desc) (ss : Word) : List (Word × Nat) :=
  (List.range (ssCnt ss)).flatMap fun j => rowElems d ss j ++ rowScales d ss j

/-- The bytes of row r of a drain: its participating elements, then the scale bytes of an SX destination (R240, R241). -/
def drainRowTargets (d : Desc) (shape : BitVec 4) (r : Nat) : List (Word × Nat) :=
  ((columns shape).map fun n => (dAddr d n r 0 0, (dBits d + 7) / 8)) ++
    match dSx d with
    | none => []
    | some f => (columns shape).map fun n => (dScaleAddr d f (dLinear d n r 0 0), 2)

/-- The vectors of the epilogue block that are present (R240). -/
def epiReads (ss : Word) : List (Word × Nat) :=
  ((List.range 3).filter fun i => ss.getLsbD (32 + i)).map fun i => ((ss.extractLsb' 0 32).zeroExtend 64 + BitVec.ofNat 64 (256 * i), 256)

/-- The rows or columns of an instruction. -/
def MxOp.count (m : MxOp) : Nat :=
  match m.kind with
  | .mdrain .. => ssDrainCnt m.ss
  | .steepld _ ms => ((List.range 4).filter fun i => ms.getLsbD i).length
  | _ => ssCnt m.ss

/-- The instruction has still to read scratchpad or global memory (R118). -/
def MxOp.reading (m : MxOp) : Bool :=
  match m.kind with
  | .mdrain .. => m.epi.isNone
  | .steepld .. => false
  | _ => dSpc m.desc != .cd && decide (m.done + m.rows.length < m.count)

/-- The instruction has still to write memory (R241). -/
def MxOp.writing (m : MxOp) : Bool :=
  match m.kind with
  | .mdrain .. => decide (m.done < m.count)
  | _ => false

/-- The bytes of an access by space. -/
def inSpace (spc : Space) (l : List (Word × Nat)) : List (Space × Word × Nat) := l.map fun e => (spc, e.1, e.2)

/-- The bytes of rows k to n - 1. -/
def rowsFrom (k n : Nat) (f : Nat → List (Word × Nat)) : List (Word × Nat) := (List.range (n - k)).flatMap fun j => f (k + j)

/-- What a matrix instruction has still to read. -/
def MxOp.toRead (m : MxOp) : MemAcc :=
  { els := if !m.reading then []
      else match m.kind with
        | .mdrain .. => inSpace .sp (epiReads m.ss)
        | _ => inSpace (dSpc m.desc) (rowsFrom (m.done + m.rows.length) m.count fun j => rowElems m.desc m.ss j ++ rowScales m.desc m.ss j)
    reads := m.reading, writes := false, acq := false, rel := false }

/-- What a matrix instruction has still to write. -/
def MxOp.toWrite (m : MxOp) : MemAcc :=
  { els := if m.writing then inSpace (dSpc m.desc) (rowsFrom m.done m.count (drainRowTargets m.desc m.ashape)) else []
    reads := false, writes := m.writing, acq := false, rel := false }

/-! ### Order (R108, R111 to R114, R118, R128) -/

/-- Where an access touches memory: the scratchpads by tile, device memory 256, host memory 257, the control region 258, and a
global access by its virtual address too, 259, for one that does not translate yet; each place with its length. -/
def State.places (s : State) (t : TileIx) (c : CtxNo) (e : Space × Word × Nat) : List (Nat × Nat × Nat) :=
  match e.1 with
  | .cd => []
  | .sp => match spHome t e.2.1.toNat with
    | none => []
    | some h => [(h.toNat, e.2.1.toNat % 2 ^ 21, e.2.2)]
  | .g => (gPieces (e.2.1.extractLsb' 0 48) e.2.2).flatMap fun p =>
      (259, p.1.toNat, p.2) :: match s.translate t c .read p.1 with
        | .fail _ => []
        | .ok pa e _ => [(if e.getLsbD 6 then 258 else if e.getLsbD 5 then 257 else 256, pa, p.2)]

/-- Two places share a byte. -/
def overlap (a b : Nat × Nat × Nat) : Bool :=
  a.1 == b.1 && decide (a.2.1 < b.2.1 + b.2.2) && decide (b.2.1 < a.2.1 + a.2.2)

/-- It touches no memory of its own: a fence, or an access to a pipe. -/
def MemAcc.bare (m : MemAcc) : Bool := !m.reads && !m.writes

/-- An access waits for one before it: for an acquire; as a release, for every access; as an acquire fence, for a read; as a
write, for a read or a release; and for an access to a location of its own (R108, R111, R118, R143). -/
def State.accWaits (s : State) (t : TileIx) (c : CtxNo) (a b : MemAcc) : Bool :=
  a.acq || (b.rel && (a.reads || a.writes || a.rel)) || (b.acq && b.bare && a.reads) || (b.writes && (a.reads || a.rel)) ||
    ((a.els.flatMap (s.places t c)).any fun p => (b.els.flatMap (s.places t c)).any (overlap p))

/-- The accesses of the task on a tile from before a place in the order of issue that are still to be performed: those of the M
slot, a full/empty or pipe access that waits, and those of matrix instructions (R108, R128). -/
def Tile.before (x : Tile) (order : Nat) : List MemAcc :=
  ((x.accs.filter fun a => decide (a.order < order)).map (·.mem)) ++
  ((x.wait.toList.filter fun w => decide (w.order < order)).map (·.mem)) ++
  (x.mx.ops.filter fun m => !m.reload && decide (m.order < order)).flatMap fun m =>
    (if m.reading then [m.toRead] else []) ++ if m.writing then [m.toWrite] else []

/-- An access of the task on a tile with a place in the order of issue waits for one before it (R108, R118, R128). -/
def State.orderHolds (s : State) (t : TileIx) (m : MemAcc) (order : Nat) : Bool :=
  ((s.tile t).before order).any fun a => s.accWaits t (s.ctxOn t) a m

/-- A matrix instruction waits for an access before it in order to read (R108, R128). -/
def State.readBehind (s : State) (t : TileIx) (m : MxOp) : Bool := !m.reload && m.reading && s.orderHolds t m.toRead m.order

/-- A matrix instruction waits for an access before it in order to write (R108, R128). -/
def State.writeBehind (s : State) (t : TileIx) (m : MxOp) : Bool := !m.reload && m.writing && s.orderHolds t m.toWrite m.order

/-- Every access of the task on a tile from before a place in the order of issue has been performed: an engine command of that
place starts after them (R111, R117, R118, R128). -/
def Tile.quietBefore (x : Tile) (order : Nat) : Bool := (x.before order).isEmpty

/-- Every access that the task on a tile has issued has been performed, or is on its way: what a release, a suspension point or
the end of the task waits for (R108, R112, R113). -/
def Tile.quiet (x : Tile) : Bool := x.accs.isEmpty && x.mx.ops.all fun m => !m.reading && !m.writing

/-! ### What can go on, and reloads (R108, R245, R248, R362, R389) -/

/-- An instruction no longer in flight. -/
def Tile.dropOp (x : Tile) (m : MxOp) : Tile :=
  { x with mx := { x.mx with ops := x.mx.ops.filter fun o => o.order != m.order } }

/-- The `MMA` instructions in flight. -/
def Tile.mmas (x : Tile) : List MxOp := x.mx.ops.filter (·.isMma)

/-- A weight latch changed. -/
def Tile.modLatch (x : Tile) (l : LReg) (f : WLatch → WLatch) : Tile :=
  { x with mx := { x.mx with w := x.mx.w.set l.toNat (f (x.mx.w[l.toNat]'l.isLt)) l.isLt } }

/-- A reload of a Steep slot is in flight: after a resume or a restore the slots come before the latches (R248). -/
def Tile.slotsReloading (x : Tile) : Bool :=
  x.mx.ops.any fun m => m.reload && (match m.kind with
    | .steepld .. => true
    | _ => false)

/-- Reloads that an `MMA` with latch l waits for: the slots, then the latches, but for another latch whose reload is parked
(R248, R400). -/
def Tile.reloadsBefore (x : Tile) (l : LReg) : Bool :=
  x.slotsReloading || x.mx.ops.any fun m => m.reload && (match m.kind with
    | .mldw a .. => a == l || !m.parked
    | _ => false)

/-- A matrix instruction cannot go on now: it is parked, or it waits for an access, for a reload or for the `MMA` before it (R108,
R245, R248). -/
def State.mxStands (s : State) (t : TileIx) (m : MxOp) : Bool :=
  let x := s.tile t
  m.parked || match m.kind with
    | .mma _ l .. => (x.mmas.head?.any fun o => o.order != m.order) || x.reloadsBefore l || (m.rows.isEmpty && s.readBehind t m)
    | .mldw .. => s.readBehind t m || (m.reload && x.slotsReloading)
    | .mdrain .. => s.readBehind t m || s.writeBehind t m
    | .steepld .. => false

/-- Some matrix instruction of a tile can go on: a deep pre-emption and a `CKPT` wait for it (R248). -/
def State.mxGoing (s : State) (t : TileIx) : Bool := (s.tile t).mx.ops.any fun m => !s.mxStands t m

/-- The bytes of a slot image: elements, then scale bytes (R244). -/
def mfImageBytes (f : BitVec 4) : Nat :=
  match f.toNat with
  | 4 => 4096 + 512
  | 5 => 4096 + 1024
  | 6 => 4096 + 2048
  | _ => 4096

/-- The Caddy bytes that a reload reads (R227, R244). -/
def MxOp.cdSource (m : MxOp) : List (Word × Nat) :=
  match m.kind with
  | .mldw .. => if dSpc m.desc == .cd then loadBytes m.desc m.ss else []
  | .steepld f _ => [(m.ss, mfImageBytes (MFmt.code f))]
  | _ => []

/-- A reload that fails leaves its latch or slots empty (R248, R389). -/
def Tile.loseReload (x : Tile) (m : MxOp) : Tile :=
  let y := x.dropOp m
  match m.kind with
  | .mldw l .. => y.modLatch l fun _ => .empty
  | .steepld _ ms =>
    { y with mx := { y.mx with st := Vector.ofFn fun i : Fin 4 => if ms.getLsbD i.val then .empty else y.mx.st[i] } }
  | _ => y

end Sys2Proof.Machine
end

