-- ==== Sys2Proof/Machine/Tasks.lean ====
section
/-! DEFINITION. Tasks, queues, joins, gangs and launches: dispatch and selection, the end of a task, and what a join does
when a task it counts has ended (R23, R253 to R274, R278 to R293, R367, R368). -/

namespace Sys2Proof.Machine

/-! ### Fields of a continuation record (R254) -/

/-- Word i of a record. -/
def Rec.w (r : Rec) (i : Fin 8) : Word := r.words[i]
/-- The entry or resume address. -/
def Rec.entry (r : Rec) : Addr48 := (r.w 0).extractLsb' 0 48
/-- GM: the task is a gang member. -/
def Rec.gm (r : Rec) : Bool := (r.w 0).getLsbD 49
/-- QM: the parent is a quorum join. -/
def Rec.qm (r : Rec) : Bool := (r.w 0).getLsbD 50
/-- DEEP: the state is in the save area. -/
def Rec.deep (r : Rec) : Bool := (r.w 0).getLsbD 51
/-- The context. -/
def Rec.ctxn (r : Rec) : CtxNo := (r.w 1).extractLsb' 0 7
/-- The record priority. -/
def Rec.prio (r : Rec) : BitVec 3 := (r.w 1).extractLsb' 8 3
/-- AFFK. -/
def Rec.affk (r : Rec) : BitVec 2 := (r.w 1).extractLsb' 12 2
/-- AFFC. -/
def Rec.affc (r : Rec) : ClusterIx := (r.w 1).extractLsb' 16 5
/-- AFFM. -/
def Rec.affm (r : Rec) : BitVec 8 := (r.w 1).extractLsb' 24 8
/-- GANG. -/
def Rec.gang (r : Rec) : GangNo := (r.w 1).extractLsb' 32 16
/-- STAGE. -/
def Rec.stage (r : Rec) : BitVec 3 := (r.w 1).extractLsb' 48 3
/-- QIDX. -/
def Rec.qidx (r : Rec) : BitVec 6 := (r.w 1).extractLsb' 54 6
/-- The parent handle. -/
def Rec.parent (r : Rec) : Handle := (r.w 2).extractLsb' 0 32
/-- The contribution weight, F32. -/
def Rec.weight (r : Rec) : BitVec 32 := (r.w 2).extractLsb' 32 32

/-- Word 0 from its fields: ENTRY, SUSP, GM, QM and DEEP (R254). -/
def word0 (entry : Addr48) (susp gm qm deep : Bool) : Word :=
  (0#12 ++ BitVec.ofBool deep ++ BitVec.ofBool qm ++ BitVec.ofBool gm ++ BitVec.ofBool susp ++ entry : BitVec 64)

/-- A record with nothing held beside it. -/
def Rec.plain (words : Vector Word 8) (task : Nat) (launch : Option LaunchRef) : Rec :=
  { words := words, launch := launch, slot := none, commit := ⟨[], []⟩, onTile := none, inCluster := none, savedOn := none, task := task,
    wait := none, openJoins := [], redo := [], async := [], asyncHeld := 0, accs := [], replay := none, owed := [],
    armed := false, bargs := 0, bargOpen := false }

/-! ### Eligibility and order (R9, R256, R267, R270, R271) -/

/-- The tiles of the queue's cluster that a record's affinity and the system-tile rule allow (R256). -/
def tileAllowed (c : CtxNo) (affk : BitVec 2) (affc : ClusterIx) (affm : BitVec 8) (t : TileIx) : Bool :=
  (c == 0 || !isSystemTile t) &&
  (match affk.toNat with
  | 0 => true
  | 1 => clusterOf t == affc
  | 2 => clusterOf t == affc && affm.getLsbD (t.toNat % 8)
  | _ => false)

/-- A tile is eligible for a record: its affinity, and the place a deep restore needs (R256, R269). -/
def Rec.eligible (r : Rec) (t : TileIx) : Bool :=
  tileAllowed r.ctxn r.affk r.affc r.affm t && (r.onTile.all (· == t)) && (r.inCluster.all (· == clusterOf t))

/-- The effective priority of a queued record (R271). -/
def Queued.priority (q : Queued) : Nat := if q.record.prio == 7 then 7 else min 6 (q.record.prio.toNat + q.aged)

/-- A queued record as old as it is: it has gained a step of priority for each aging step it has waited (R271). -/
def Queued.age (q : Queued) (agingNs : Nat) : Queued := { q with aged := q.waited / agingNs }

/-- The affinity rank of a record (R270). -/
def Rec.rank (r : Rec) : Nat := r.affk.toNat

/-- One queued record is chosen before another (R270). -/
def Queued.before (a b : Queued) : Bool :=
  a.priority > b.priority ||
  (a.priority == b.priority && (a.record.rank > b.record.rank || (a.record.rank == b.record.rank && a.order < b.order)))

/-- The record chosen first among a list (R270). -/
def bestQueued : List Queued → Option Queued
  | [] => none
  | q :: l =>
    match bestQueued l with
    | none => some q
    | some r => if r.before q then some r else some q

/-- The context is not blocked by quota (R322). -/
def State.hasQuota (s : State) (c : CtxNo) : Bool := decide (0 < (s.ctx c).quota)

/-- The tile is awake, free and not halted (R317, R379). -/
def Tile.idleAwake (x : Tile) : Bool :=
  x.run.isNone && x.halted.isNone && x.power.waking.isNone && !x.peat.held && (x.power.st == .on || x.power.st == .gated)

/-- The contexts at work on a tile: that of a task running there, and those of engine commands under way. A tile that idles or
wakes works for none (R16, R317, R320). -/
def Tile.workers (x : Tile) : List CtxNo :=
  (match x.run with
  | none => []
  | some r => if x.power.st == .on && !x.peat.held then [r.record.ctxn] else []) ++
  (x.eng.toList.flatMap fun q => q.cmds.filterMap fun c => if c.started then some c.ctx else none) ++
  x.mupd.filterMap fun m => if m.result.isNone then some m.ctx else none

/-- The contexts at work on the module (R320). -/
def State.workers (s : State) : List CtxNo := s.tiles.toList.flatMap Tile.workers

/-- The cells of the slot of a record that its dispatch reads: the whole saved state of a DEEP record, and otherwise the commit
buffer (R311, R387, R390). -/
def State.slotRead (s : State) (t : TileIx) (r : Rec) : Except GFail (List Host.Cell) :=
  match r.slot with
  | none => .ok []
  | some i =>
    let va := slotVa (s.ctx r.ctxn) i
    if r.deep then s.slotGet t r.ctxn va else s.slotPart t r.ctxn va 0x900 2304 []

/-- The slot of a record can be read: its pages translate (R311, R386, R390). -/
def State.slotReady (s : State) (t : TileIx) (r : Rec) : Bool :=
  match s.slotRead t r with
  | .ok _ => true
  | .error _ => false

/-- A queued record may be chosen: its context is active and not blocked by quota (R270, R322). -/
def State.choosable (s : State) (q : Queued) : Bool := s.hasQuota q.record.ctxn && (s.ctx q.record.ctxn).st == .active

/-- The tiles of a cluster that members of a gang may take: idle, and not reserved by another gang (R262, R273). `home` is
the cluster whose queue holds the gang. -/
def State.gangTiles (s : State) (c home : ClusterIx) (g : GangNo) : List TileIx :=
  let k := s.cluster c
  (tilesOf c).filter fun t =>
    (s.tile t).idleAwake && (!k.reserved.contains t || (c == home && k.reserving == some g))

/-- The queued members of a gang (R262). -/
def Cluster.gangMembers (k : Cluster) (c : CtxNo) (g : GangNo) : List Queued :=
  k.queue.filter fun q => q.record.gm && q.record.gang == g && q.record.ctxn == c

/-- A distinct eligible tile for each member of a gang, the first in the order of the tiles given; none where there is no
such assignment (R262). -/
def placeGang (tiles : List TileIx) : List Queued → Option (List (Queued × TileIx))
  | [] => some []
  | q :: l => firstOf (fun t => (placeGang (tiles.filter (· != t)) l).map ((q, t) :: ·)) (tiles.filter q.record.eligible)

/-- Each of some tiles can be given a distinct member of a gang (R262). -/
def matchTiles : List TileIx → List Queued → Bool
  | [], _ => true
  | t :: l, ms => ms.any fun m => m.record.eligible t && matchTiles l (ms.filter fun o => o.order != m.order)

/-- The tiles of a list that a gang can use together, each with a member of its own: the first of them, in order, and as many
as there can be (R262, R270, R273). -/
def gangBase (ms : List Queued) (tiles : List TileIx) : List TileIx :=
  tiles.foldl (fun b t => if decide (b.length < ms.length) && matchTiles (b ++ [t]) ms then b ++ [t] else b) []

/-- A list in an order the spec does not fix (R262). -/
def State.shuffle : Nat → State → List TileIx → State × List TileIx
  | 0, s, l => (s, l)
  | n + 1, s, l =>
    if l.length ≤ 1 then (s, l)
    else
      let r := s.choose l.length
      let t := l.getD r.1 0
      let q := State.shuffle n r.2 (l.filter (· != t))
      (q.1, t :: q.2)

/-- The gang of a record in the queue of cluster `home` can start in cluster c: every member that has not ended is queued,
and each has a tile (R262). -/
def State.gangFits (s : State) (c home : ClusterIx) (r : Rec) : Bool :=
  let ms := (s.cluster home).gangMembers r.ctxn r.gang
  ((s.cluster home).gangs.any fun g => g.num == r.gang && g.ctx == r.ctxn && g.tiles.isEmpty && g.size == ms.length) &&
  (placeGang (s.gangTiles c home r.gang) ms).isSome

/-- The records of its cluster's queue that a tile may take now (R262, R270, R273). -/
def State.candidates (s : State) (t : TileIx) : List Queued :=
  let c := clusterOf t
  let k := s.cluster c
  k.queue.filter fun q =>
    q.record.eligible t && s.choosable q && (if q.record.gm then s.gangFits c c q.record else true) &&
    (!k.reserved.contains t || (q.record.gm && k.reserving == some q.record.gang))

/-- The saved gangs of other clusters that can be restored in the cluster of a tile, and need it (R264). -/
def State.foreignGangs (s : State) (t : TileIx) : List (ClusterIx × Queued) :=
  (allClusters.filter (· != clusterOf t)).flatMap fun c =>
    ((s.cluster c).queue.filter fun q =>
      q.record.gm && q.record.deep && q.record.eligible t && s.choosable q && s.gangFits (clusterOf t) c q.record).map fun q =>
        (c, q)

/-- The queued records of other clusters of the die that a tile may steal: AFFK = 0, and waiting at least the steal delay
(R272). Where the delays of two clusters differ, that of the cluster whose queue holds the record applies, the model's choice
(log entry 106). -/
def State.stealable (s : State) (t : TileIx) : List (ClusterIx × Queued) :=
  ((clustersOf (dieOf t)).filter (· != clusterOf t)).flatMap fun c =>
    ((s.cluster c).queue.filter fun q =>
      q.record.affk == 0 && !q.record.gm && decide ((s.cluster c).stealNs ≤ q.waited) && q.record.eligible t &&
      s.choosable q).map fun q => (c, q)

/-- The record chosen first under R270 among records of several queues, with its cluster. -/
def bestFrom (l : List (ClusterIx × Queued)) : Option (ClusterIx × Queued) :=
  (bestQueued (l.map (·.2))).bind fun q => l.find? fun p => p.2.order == q.order

/-- The record an idle tile steals: its own queue holds none eligible for it, and no gang has reserved it (R272, R273). -/
def State.stealFor (s : State) (t : TileIx) : Option (ClusterIx × Queued) :=
  let k := s.cluster (clusterOf t)
  if (k.queue.any fun q => q.record.eligible t) || k.reserved.contains t then none else bestFrom (s.stealable t)

/-! ### Join records (R257) -/

/-- The join unit of a handle. -/
def joinCluster (h : Handle) : ClusterIx := h.extractLsb' 27 5
/-- The record index of a handle. -/
def joinIndex (h : Handle) : BitVec 10 := h.extractLsb' 16 10
/-- The generation of a handle. -/
def joinGen (h : Handle) : BitVec 16 := h.extractLsb' 0 16
/-- The handle of a record (R257). -/
def joinHandle (c : ClusterIx) (i : BitVec 10) (g : BitVec 16) : Handle := c ++ 0#1 ++ i ++ g

/-- The join a handle names, if its generation is current (R257). -/
def State.join (s : State) (h : Handle) : Option JoinRec :=
  if h.getLsbD 26 || joinGen h == 0 then none
  else match assocGet (s.cluster (joinCluster h)).joins (joinIndex h) with
    | none => none
    | some sl => if sl.gen == joinGen h then sl.join else none

/-- The join a handle names for a context (R257). -/
def State.joinOf (s : State) (c : CtxNo) (h : Handle) : Option JoinRec :=
  match s.join h with
  | none => none
  | some j => if j.ctx == c then some j else none

/-- The state with a join record changed. -/
def State.setJoin (s : State) (h : Handle) (j : JoinRec) : State :=
  s.modCluster (joinCluster h) fun k => { k with joins := assocSet k.joins (joinIndex h) ⟨joinGen h, some j⟩ }

/-- The generation after another, skipping 0 (R257). -/
def nextGen (g : BitVec 16) : BitVec 16 := if g + 1 == 0 then 1 else g + 1

/-- The record of a join freed: its generation advances (R257, R258). -/
def State.freeJoin (s : State) (h : Handle) : State :=
  s.modCluster (joinCluster h) fun k => { k with joins := assocSet k.joins (joinIndex h) ⟨nextGen (joinGen h), none⟩ }

/-! ### Launches (R367, R368) -/

/-- The status word of R261. -/
def statusWord (weight : BitVec 32) (arrived failed killed late : Nat) : Word :=
  (weight ++ BitVec.ofNat 14 (min arrived 16383) ++ BitVec.ofNat 6 (min failed 63) ++ BitVec.ofNat 6 (min killed 63) ++
    BitVec.ofNat 6 (min late 63) : BitVec 64)

/-- A completion entry written to the host's ring, word 0 last (R368). -/
def State.complete (s : State) (c : CtxNo) (stamp : BitVec 16) (code : BitVec 8) (w1 user : Word) : State :=
  let x := s.ctx c
  let n := 2 ^ x.cqlog.toNat
  let slot := x.cqbase.toNat * 32 + 32 * (x.completions % n)
  let phase := x.completions / n % 2 == 0
  let w0 : Word := (0#32 ++ BitVec.ofBool phase ++ 0#7 ++ code ++ stamp : BitVec 64)
  let h := cellsWrite s.host (slot + 8) (bvBytes 8 w1 ++ bvBytes 8 s.time ++ bvBytes 8 user)
  { s with host := cellsWrite h slot (bvBytes 8 w0) }.modCtx c fun x => { x with completions := x.completions + 1 }

/-- The status code of a launch, the condition that stands highest in the table of R368. -/
def Launch.code (l : Launch) : BitVec 8 :=
  if l.powerKilled then 3
  else if l.ended then 5
  else match l.first with
    | some .arrived => 0
    | some .failed => 1
    | _ => 2

/-- F32 1.0. -/
def f32One : BitVec 32 := 0x3F800000

/-- A launch whose live count has reached 0 releases its join and writes its completion entry (R367, R368). -/
def State.launchSettle (s : State) (r : LaunchRef) : State :=
  match (s.ctx r.ctx).launches.find? fun l => l.num == r.num with
  | none => s
  | some l =>
    if l.live = 0 then
      let w := statusWord (if l.first == some .arrived then f32One else 0) l.arrived l.failed l.killed 0
      (s.complete r.ctx l.stamp l.code w l.user).modCtx r.ctx fun x =>
        { x with launches := x.launches.filter fun m => m.num != r.num }
    else s

/-- A launch of a context changed. -/
def State.modLaunch (s : State) (r : LaunchRef) (f : Launch → Launch) : State :=
  s.modCtx r.ctx fun x => { x with launches := x.launches.map fun l => if l.num == r.num then f l else l }

/-- The live count of a launch raised (R367). -/
def State.launchAdd (s : State) (r : Option LaunchRef) (n : Nat) : State :=
  match r with
  | none => s
  | some r => s.modLaunch r fun l => { l with live := l.live + n }

/-- The live count lowered without an end: a withdrawn successor (R303, R367). -/
def State.launchDrop (s : State) (r : Option LaunchRef) : State :=
  match r with
  | none => s
  | some r => (s.modLaunch r fun l => { l with live := l.live - 1 }).launchSettle r

/-- The end of a task of a launch counted (R367). -/
def State.launchEnd (s : State) (r : Option LaunchRef) (task : Nat) (k : EndKind) (power : Bool) : State :=
  match r with
  | none => s
  | some r =>
    (s.modLaunch r fun l =>
      { l with
        live := l.live - 1
        first := if l.firstTask == task then some k else l.first
        arrived := l.arrived + (if k == EndKind.arrived then 1 else 0)
        failed := l.failed + (if k == .failed then 1 else 0)
        killed := l.killed + (if k == .killed then 1 else 0)
        powerKilled := l.powerKilled || power }).launchSettle r

/-! ### Dispatch (R23, R262, R270, R390) -/

/-- The context-scoped registers of a context (R26, R354). -/
def Context.view (x : Context) : CtxView := ⟨x.trapv, x.holdlim, x.fewdog, x.pipewdog, x.quantum⟩

/-- The control registers a record gives a task at dispatch (R23, R26, R280). -/
def State.ctlFor (s : State) (r : Rec) (effective : Nat) : Ctl :=
  let q := if r.qm then (s.join r.parent).bind (·.quorum) else none
  { Ctl.reset with
    task := (0#28 ++ BitVec.ofBool r.gm ++ r.stage ++ r.parent : BitVec 64)
    ctxn := r.ctxn
    asid := (s.ctx r.ctxn).asid
    sys := r.ctxn == 0
    prio := BitVec.ofNat 3 effective ++ r.prio
    qjoin := if r.qm then r.parent else 0
    qmembIx := if r.qm then r.qidx else 0
    qmembWt := if r.qm then r.weight else 0
    qframeBase := (q.map (·.fbase)).getD 0
    qframeSize := (q.map (·.fsize)).getD 0 }

/-- The registers of R23 for a record. -/
def State.regsFor (s : State) (r : Rec) (effective : Nat) : Regs :=
  { Regs.reset with
    s := ((((Regs.reset.s.set 1 (r.w 3)).set 2 (r.w 4)).set 3 (r.w 5)).set 4 (r.w 6)).set 5 (r.w 7)
    pc := r.entry
    ctl := s.ctlFor r effective }

/-- What the device knows of a task from its dispatch on. -/
def Rec.start (r : Rec) (home : ClusterIx) : Running :=
  { record := Rec.plain r.words r.task r.launch
    home := home, ranNs := 0, brokeNs := 0, openJoins := r.openJoins, commit := r.commit, killPending := false
    powerKill := false, deepDue := false, async := r.async, asyncHeld := r.asyncHeld, stopped := false, restoring := none, fresh := none, saving := none
    bargs := r.bargs, bargOpen := r.bargOpen }

/-- A tile that takes a task is ON, and the task displaces the ballast; a target that `SLEEP` set for an idle period that had
begun is used up (R317, R318, R328). -/
def TilePower.taken (p : TilePower) : TilePower :=
  { p with st := .on, idleNs := 0, prewarmed := false, ballast := 0, idle := if p.st == .on then p.idle else .none }

/-- A tile takes a record whose slot it cannot read yet: the task runs, and its first turn reads the slot (R311, R357,
R390). -/
def State.occupy (s : State) (t : TileIx) (q : Queued) (home : ClusterIx) : State :=
  let r := q.record
  let x := s.ctx r.ctxn
  (s.acquireAt t x.asid .device).modTile t fun y =>
    { y with
      regs := s.regsFor r q.priority, issue := .idle, first := true, view := x.view
      peat := { y.peat with valid := false, dirty := true }
      power := y.power.taken
      run := some { r.start home with restoring := some q } }

/-- An asynchronous cause of the task on a tile, pending until the next bundle boundary (R153, R375). -/
def State.raiseAsync (s : State) (t : TileIx) (cause : BitVec 8) (slot : BitVec 4) (addr : Word) : State :=
  s.modRun t fun r =>
    { r with async := r.async ++ [{ cause := cause, sub := 0, slot := slot, replay := false, step := false, addr := addr, pc := 0 }] }

/-- A reload fails (R248, R389): its latch or slots are empty, and the task takes the cause at its next bundle boundary. -/
def State.failReload (s : State) (t : TileIx) (m : MxOp) (cause : BitVec 8) (addr : Word) : State :=
  (s.modTile t (·.loseReload m)).raiseAsync t cause 9 addr

/-- The range and grant checks of the reloads of a restored task; one that fails raises its cause at the first bundle (R362,
R389). -/
def State.checkReloads (s : State) (t : TileIx) : State :=
  ((s.tile t).mx.ops.filter (·.reload)).foldl (fun s m => match s.cdRefused t (s.ctxOn t) m.cdSource with
    | none => s
    | some (c, a) => s.failReload t m c a) s

/-- The slot of a context freed. -/
def State.freeSaveSlot (s : State) (c : CtxNo) (i : Option (BitVec 10)) : State :=
  match i with
  | none => s
  | some i => s.modCtx c fun x => { x with slots := assocDel x.slots i }

/-- A record dispatched on a tile: the state of R23, or for a DEEP record the saved state of R390; what its slot holds is read,
and the slot is freed (R311). A handler that a deep pre-emption took is armed as it was (log entry 81). -/
def State.dispatch (s : State) (t : TileIx) (q : Queued) (home : ClusterIx) : State :=
  match s.slotRead t q.record with
  | .error _ => s.occupy t q home
  | .ok l =>
    let r := q.record
    let x := s.ctx r.ctxn
    let base := s.regsFor r q.priority
    let deep := r.deep && r.slot.isSome
    let own := if deep then base.load l true x.holdlim else base
    let regs := if own.ctl.hnd then own.unbank (imgBanked l) else own
    let mx := if deep then imgMatrix l r.savedOn (redoFrom l r.redo) else .empty
    let s1 := (((s.freeSaveSlot r.ctxn r.slot).acquireAt t x.asid .device).modTile t fun y =>
      { y with
        regs := { regs with ctl := { regs.ctl with bank1 := .none, bank2 := .none } }, issue := .idle
        mx := { mx with
          gated := y.mx.gated, waking := y.mx.waking ||| (y.mx.gated &&& regs.ctl.ashape), idle := y.mx.idle }
        banked := if own.ctl.hnd then some own.bank else none, armed := r.armed, view := x.view
        accPoison := [], regPoison := [], pending := [], late := [], first := true
        peat := { y.peat with valid := false, dirty := r.deep }
        wait := r.wait, accs := r.accs, replay := r.replay, owed := r.owed, power := y.power.taken
        run := some { r.start home with
          commit := if r.slot.isSome then r.commit.load l else r.commit
          fresh := if r.slot.isSome || r.gm then none else some q } })
    s1.checkReloads t

/-- A record taken out of a cluster's queue. -/
def State.unqueue (s : State) (c : ClusterIx) (order : Nat) : State :=
  s.modCluster c fun k => { k with queue := k.queue.filter fun q => q.order != order }

/-- A distinct eligible tile for each member of a gang. The tiles it has reserved are used first; which others, and which
member goes to which, is not fixed (R262, R273). -/
def State.gangPlaces (s : State) (c home : ClusterIx) (g : GangNo) (ms : List Queued) :
    State × Option (List (Queued × TileIx)) :=
  let free := State.shuffle 8 s (s.gangTiles c home g)
  let own (t : TileIx) : Bool := c == home && (s.cluster c).reserved.contains t
  match placeGang (free.2.filter own ++ free.2.filter fun t => !own t) ms with
  | none => (s, none)
  | some pl =>
    let sh := State.shuffle 8 free.1 (pl.map (·.2))
    (sh.1, placeGang sh.2 ms)

/-- All the members of a gang start together on distinct tiles of cluster c (R262). -/
def State.startGang (s : State) (c home : ClusterIx) (r : Rec) : State :=
  let ms := (s.cluster home).gangMembers r.ctxn r.gang
  match s.gangPlaces c home r.gang ms with
  | (_, none) => s
  | (s0, some pl) =>
    let s1 := pl.foldl (fun s p => (s.unqueue home p.1.order).dispatch p.2 p.1 home) s0
    s1.modCluster home fun k =>
      { k with
        gangs := k.gangs.map fun g =>
          if g.num == r.gang && g.ctx == r.ctxn then
            { g with tiles := pl.map fun p => (p.1.record.stage, p.2) }
          else g
        reserving := if c == home && k.reserving == some r.gang then none else k.reserving
        reserved := if c == home && k.reserving == some r.gang then [] else k.reserved }

/-- A free tile chooses among the queued tasks eligible for it and dispatches the choice. Where there is none it takes
part in the restore of a saved gang, or steals; with nothing to do it is clock-gated (R264, R270, R272, R317). Between the
restore and the steal the spec does not decide: the restore goes first, the model's choice (log entry 105). -/
def State.select (s : State) (t : TileIx) : State :=
  let c := clusterOf t
  if s.phase == .up && (s.tile t).idleAwake then
    match bestQueued (s.candidates t), bestFrom (s.foreignGangs t), s.stealFor t with
    | some q, _, _ => if q.record.gm then s.startGang c c q.record else (s.unqueue c q.order).dispatch t q c
    | none, some (home, q), _ => s.startGang c home q.record
    | none, none, some (home, q) => (s.unqueue home q.order).dispatch t q home
    | none, none, none => s.modTile t fun x => { x with power := { x.power with st := .gated } }
  else s

/-- A reserving gang takes a tile that has become free and that it can use beside those it has, until it fits (R273). -/
def State.reserve (s : State) (t : TileIx) : State :=
  let c := clusterOf t
  let k := s.cluster c
  match k.reserving with
  | none => s
  | some g =>
    let ms := k.queue.filter fun q => q.record.gm && q.record.gang == g
    if k.reserved.contains t then s
    else s.modCluster c fun k => { k with reserved := gangBase ms (k.reserved ++ [t]) }

/-- The wake of a tile of a ready cluster starts: 0.6 µs from RETAIN, 2.4 µs from OFF; a wake in progress is not repeated
(R14, R16, R317, R410). -/
def State.wake (s : State) (t : TileIx) (prewarm : Bool) : State :=
  s.modTile t fun x =>
    if x.power.waking.isSome || x.peat.held || s.phase != .up || !s.port.ready1.getLsbD (clusterOf t).toNat then x
    else match x.power.st with
      | .retain => { x with power := { x.power with waking := some 600, prewarmed := prewarm } }
      | .off => { x with power := { x.power with waking := some 2400, prewarmed := prewarm } }
      | _ => x

/-- A tile that has become free: a reserving gang takes it, or it chooses (R270, R273). -/
def State.freed (s : State) (t : TileIx) : State := (s.reserve t).select t

/-- The tiles in RETAIN, then those in OFF, that one of some records may use, lowest first; a tile that is waking stays in
its state until it is awake (R16, R270, R317). -/
def State.wakeOrder (s : State) (c : ClusterIx) (l : List Rec) : List TileIx :=
  let ok := (tilesOf c).filter fun t =>
    (l.any fun r => r.eligible t) && (s.tile t).run.isNone && (s.tile t).halted.isNone && !(s.tile t).peat.held
  (ok.filter fun t => (s.tile t).power.st == .retain) ++ ok.filter fun t => (s.tile t).power.st == .off

/-- The sleeping tiles woken for a gang that cannot be dispatched: as many as it lacks beside the tiles it could use now
(R270). -/
def State.wakeGang (s : State) (c : ClusterIx) (r : Rec) : State :=
  let ms := (s.cluster c).gangMembers r.ctxn r.gang
  let free := s.gangTiles c c r.gang
  ((gangBase ms (free ++ s.wakeOrder c (ms.map (·.record)))).filter fun t => !free.contains t).foldl (fun s t => s.wake t false) s

/-- The sleeping tile woken for a task whose eligible tiles are all busy: the lowest in RETAIN, or else in OFF. One that is
waking already is not woken twice (R16, R270). -/
def State.wakeOne (s : State) (c : ClusterIx) (r : Rec) : State :=
  if (tilesOf c).any fun t => r.eligible t && (s.tile t).idleAwake && !(s.cluster c).reserved.contains t then s
  else match s.wakeOrder c [r] with
    | [] => s
    | t :: _ => s.wake t false

/-- Another cluster in which a saved gang that does not fit at home can be restored (R264). Of several the lowest-numbered is
taken, the model's choice (log entry 104). -/
def State.gangElsewhere (s : State) (c : ClusterIx) (r : Rec) : Option ClusterIx :=
  if r.gm && r.deep && s.choosable ⟨r, 0, 0, 0⟩ then
    allClusters.find? fun k => k != c && s.gangFits k c r
  else none

/-- Work has come to a queue: an idle tile takes it, a saved gang is restored in another cluster, or a sleeping tile is
woken (R16, R264, R270). Which of several idle tiles takes it is not fixed. -/
def State.offer (s : State) (c : ClusterIx) (r : Rec) : State :=
  if !(s.cluster c).queue.any fun q => q.record.task == r.task then s else
  let idle := (tilesOf c).filter fun t => (s.tile t).idleAwake && (s.candidates t).any fun q => q.record.task == r.task
  match idle, s.gangElsewhere c r with
  | [t], _ => s.select t
  | t :: _, _ =>
    let ch := s.choose idle.length
    ch.2.select (idle.getD ch.1 t)
  | [], some k => if s.phase == .up then s.startGang k c r else s
  | [], none => if r.gm then s.wakeGang c r else s.wakeOne c r

/-- The slot that a save of the task on a tile takes: the one it has taken already, or the lowest free one (R311, R386). -/
def State.saveSlot (s : State) (t : TileIx) (c : CtxNo) : Option (BitVec 10) :=
  ((s.tile t).run.bind (·.saving)).orElse fun _ => freeSlot (s.ctx c)

/-- A save under way takes its slot, which no instruction names (R311, R386). -/
def State.takeSlot (s : State) (t : TileIx) (c : CtxNo) (i : BitVec 10) : State :=
  (s.modCtx c fun k => { k with slots := assocSet k.slots i .beside }).modRun t fun r => { r with saving := some i }

/-- A save has been written: its slot is in use (R386). -/
def State.keepSlot (s : State) (t : TileIx) (c : CtxNo) (i : BitVec 10) (u : SaveSlot) : State :=
  (s.modCtx c fun k => { k with slots := assocSet k.slots i u }).modRun t fun r => { r with saving := none }

/-- A save that ends early frees its slot (R311, R386). -/
def State.dropSaving (s : State) (t : TileIx) : State :=
  match (s.tile t).run with
  | none => s
  | some r => (s.freeSaveSlot r.record.ctxn r.saving).modRun t fun r => { r with saving := none }

/-- An end sent to its join and its launch. -/
def State.sendEnd (s : State) (m : EndMsg) : State :=
  if m.handle == 0 && m.launch.isNone && m.joins.isEmpty then s
  else { s with ends := s.ends ++ [(s.nextMsg, m)], nextMsg := s.nextMsg + 1 }

/-- The end of the task of a record, as the tile that ran it or the queue that held it reports it (R259). -/
def Rec.endMsg (r : Rec) (k : EndKind) (power : Bool) (source : EndFrom) : EndMsg :=
  { handle := r.parent, task := r.task, kind := k, weight := r.weight, source := source, ctx := r.ctxn,
    quorum := if r.qm then some r.qidx else none, commit := ⟨[], []⟩, launch := r.launch, power := power,
    joins := r.openJoins }

/-- The parent join of a member has cut (R286). -/
def State.parentCut (s : State) (r : Rec) : Bool :=
  r.qm && (match (s.join r.parent).bind (·.quorum) with
    | some q => q.cut
    | none => false)

/-- The engine commands of a task that ends off its tile and that have not started are cancelled (R154, R275). -/
def State.cancelCommands (s : State) (task : Nat) : State :=
  { s with tiles := s.tiles.map fun x =>
    { x with eng := x.eng.map fun q =>
        { q with cmds := q.cmds.map fun k => if k.task == task && !k.started then { k with live := false, cancelled := true } else k } } }

/-- A record enqueued at the end of a cluster's queue, its age fresh (R268, R298). The continuation of a member whose join
has cut is removed at the enqueue and counted killed (R286). -/
def State.enqueueOnly (s : State) (c : ClusterIx) (r : Rec) : State :=
  if s.parentCut r then
    ((s.freeSaveSlot r.ctxn r.slot).cancelCommands r.task).sendEnd (r.endMsg .killed false (.queue c s.nextOrder))
  else { s.modCluster c fun k => { k with queue := k.queue ++ [⟨r, s.nextOrder, 0, 0⟩] } with nextOrder := s.nextOrder + 1 }

/-- A record enqueued, and offered to the cluster's tiles. -/
def State.enqueue (s : State) (c : ClusterIx) (r : Rec) : State := (s.enqueueOnly c r).offer c r

/-- Every queued record offered again, after a refill, a wake or a readiness bit. -/
def State.offerAll (s : State) (c : ClusterIx) : State :=
  ((s.cluster c).queue.map (·.record)).foldl (fun s r =>
    if (s.cluster c).queue.any fun q => q.record.task == r.task then s.offer c r else s) s

/-! ### Release of a join (R258, R261, R284 to R291) -/

/-- The value of a finite F32 weight in units of 2^-149; none for an infinity. -/
def f32Units (w : BitVec 32) : Option Nat :=
  match readNum .f32 w.toNat with
  | .fin _ m e => some (m * 2 ^ (e + 149).toNat)
  | _ => none

/-- The F32 sum of two weights under RNE (R259, R279). -/
def f32Add (a b : BitVec 32) : BitVec 32 := BitVec.ofNat 32 (floatOp .add .f32 .rne a.toNat b.toNat 0).1

/-- The members that have not ended. -/
def Quorum.open (q : Quorum) : List Member := q.members.filter fun m => m.st == .running

/-- The quorum is met (R284). -/
def quorumMet (q : Quorum) (arrived : Nat) (aw : BitVec 32) : Bool :=
  if q.weighted then
    match f32Units aw, f32Units q.total with
    | none, _ => true
    | some a, some t => decide (q.frac.toNat * t ≤ 256 * a)
    | some _, none => false
  else decide (q.frac.toNat * q.members.length ≤ 256 * arrived)

/-- The quorum is unreachable (R284). -/
def quorumUnreachable (q : Quorum) (arrived : Nat) (aw : BitVec 32) : Bool :=
  if q.weighted then
    match f32Units aw, f32Units q.total with
    | none, _ => false
    | some a, some t =>
      let p := (q.open.map fun m => (f32Units m.weight).getD 0).foldl (· + ·) 0
      decide (256 * (a + p) < q.frac.toNat * t)
    | some _, none => true
  else decide (256 * (arrived + q.open.length) < q.frac.toNat * q.members.length)

/-- The outcome code of R288. -/
def quorumOutcome (q : Quorum) (arrived : Nat) (aw : BitVec 32) : BitVec 2 :=
  if q.members.all fun m => m.st == .arrived then 0
  else if !quorumMet q arrived aw then 3
  else if q.rule == 3 then 2
  else 1

/-- The value x * T / D rounded once to F32 under RNE, T and D being positive finite values or D infinite (R289). -/
def f32Scale (x : BitVec 32) (t d : Num) : BitVec 32 :=
  let ratio0 := match d with
    | .inf _ => true
    | _ => false
  let r : Num := if ratio0 then ((readNum .f32 x.toNat).mul (.fin false 0 0)).1
    else match readNum .f32 x.toNat, t, d with
      | .fin n m e, .fin _ tm te, .fin _ dm de =>
        let num := m * tm * 2 ^ 160
        let qt := num / dm
        .fin n (2 * qt + (if num % dm = 0 then 0 else 1)) (e + te - de - 161)
      | y, _, _ => y
  BitVec.ofNat 32 (convert .f32 .rne false r).1

/-- A word of a scratchpad read by the join unit at the home tile, 4 bytes at an own-tile offset, behind the zeroing of its
segment (R89, R289). -/
def State.joinRead (s : State) (home : TileIx) (c : CtxNo) (a : Nat) : BitVec 32 :=
  BitVec.ofNat 32 (leNat ((s.endZeroing home c a 4).spRead home c false a 4))

/-- A write of the join unit at the home tile, behind the zeroing of its segment (R89, R289). -/
def State.joinWrite (s : State) (home : TileIx) (c : CtxNo) (a : Nat) (bs : List Byte) : State :=
  (s.endZeroing home c a bs.length).spWrite home c a bs

/-- The buffer of a quorum join rewritten element by element (R289). -/
def State.mapBuffer (s : State) (q : Quorum) (c : CtxNo) (f : State → Nat → BitVec 32 → BitVec 32) : State :=
  (List.range q.len.toNat).foldl (fun s e =>
    let a := q.cbase.toNat + 64 + 4 * e
    s.joinWrite q.home c a (bvBytes 4 (f s e (s.joinRead q.home c a)))) s

/-- b + w * x, an exact product and one rounding (R283, R289). -/
def f32Fma (b w x : BitVec 32) : BitVec 32 :=
  BitVec.ofNat 32 (floatOp .fma .f32 .rne w.toNat x.toNat b.toNat).1

/-- The fill of R289 for the outcome FILLED. -/
def State.fill (s : State) (q : Quorum) (c : CtxNo) (arrived : Nat) (aw : BitVec 32) : State :=
  match q.rule.toNat with
  | 1 =>
    let t : Num := if q.weighted then readNum .f32 q.total.toNat else numOfInt q.members.length
    let d : Num := if q.weighted then readNum .f32 aw.toNat else numOfInt arrived
    let zero := match d with
      | .fin _ m _ => m == 0
      | _ => false
    if zero then s else s.mapBuffer q c fun _ _ b => f32Scale b t d
  | 2 =>
    (List.range q.members.length).foldl (fun s i =>
      match q.members[i]? with
      | none => s
      | some m =>
        if m.st == .arrived then s
        else s.mapBuffer q c fun s e b =>
          f32Fma b m.weight (s.joinRead q.home c (q.sbase.toNat + 4 * q.len.toNat * i + 4 * e))) s
  | _ => s

/-- The members as a mask (R291). -/
def memberMask (q : Quorum) (arrived : Bool) : Word :=
  (List.range q.members.length).foldl (fun w i =>
    match q.members[i]? with
    | none => w
    | some m => if (m.st == .arrived) == arrived then w ||| (1#64 <<< i) else w) 0

/-- The quorum status word of R290. -/
def quorumWord (q : Quorum) (outcome : BitVec 2) : Word :=
  (q.total ++ outcome ++ q.rule ++ BitVec.ofBool q.cutByGrace ++ BitVec.ofBool q.weighted ++ 0#1 ++ q.frac ++ q.home ++
    0#1 ++ BitVec.ofNat 7 q.members.length : BitVec 64)

/-- The release of a join: the fill and header of a quorum join, the status words, the successor enqueued, the record
freed (R258, R261, R288 to R291). -/
def State.release (s : State) (h : Handle) (j : JoinRec) : State :=
  let st := statusWord j.weight j.arrived j.failed j.killed j.late
  let s1 := match j.quorum with
    | none => s
    | some q =>
      let out := quorumOutcome q j.arrived j.weight
      let s' := if out == 1 then s.fill q j.ctx j.arrived j.weight else s
      s'.joinWrite q.home j.ctx q.cbase.toNat
        (bvBytes 8 (memberMask q true) ++ bvBytes 8 (memberMask q false) ++ List.replicate 48 0)
  let s2 := s1.freeJoin h
  match j.succ with
  | none => s2
  | some (r, c) =>
    let w := r.words.set 7 st
    let w' := match j.quorum with
      | none => w
      | some q => w.set 6 (quorumWord q (quorumOutcome q j.arrived j.weight))
    s2.enqueue c { r with words := w' }

/-- A task's queued record, wherever it lies: the cluster and the record. -/
def State.findQueued (s : State) (task : Nat) : Option (ClusterIx × Queued) :=
  firstOf (fun c => ((s.cluster c).queue.find? fun q => q.record.task == task).map fun q => (c, q)) allClusters

/-- The tile that runs a task. -/
def State.tileOfTask (s : State) (task : Nat) : Option TileIx :=
  allTiles.find? fun t => match (s.tile t).run with
    | none => false
    | some r => r.record.task == task

/-- The tasks of a context that slots of `SYSC` hold, with the slot, and with the cluster and place by which their ends are
ordered (R259, R385). -/
def Context.held (x : Context) : List (BitVec 10 × Rec × EndFrom) :=
  x.slots.filterMap fun p => match p.2 with
    | .sysc r _ ran n => some (p.1, r, .queue ran n)
    | _ => none

/-- A record removed from a queue or a slot of `SYSC`, its place in the save area freed and its commands cancelled. -/
def State.removeQueued (s : State) (c : CtxNo) (task : Nat) : Option (State × Rec × EndFrom) :=
  match s.findQueued task with
  | some (k, q) =>
    some (((s.unqueue k q.order).freeSaveSlot c q.record.slot).cancelCommands task, q.record, .queue k q.order)
  | none =>
    match (s.ctx c).held.find? fun p => p.2.1.task == task with
    | none => none
    | some (i, r, o) => some ((s.freeSaveSlot c (some i)).cancelCommands task, r, o)

/-- The cut (R286): each member not yet ended is removed from its queue and counted killed, or is sent a kill notice. -/
def State.cut (s : State) (h : Handle) (j : JoinRec) (q : Quorum) (grace : Bool) : State :=
  let start := s.setJoin h { j with quorum := some { q with cut := true, cutByGrace := grace, graceLeft := none } }
  (List.range q.members.length).foldl (fun s i =>
    match (s.join h).bind fun j => j.quorum.map fun q => (j, q) with
    | none => s
    | some (j, q) =>
      match q.members[i]? with
      | none => s
      | some m =>
        if m.st != .running then s
        else match s.removeQueued j.ctx m.task with
          | some (s', r, o) =>
            let s2 := s'.setJoin h
              { j with pending := j.pending - 1, killed := j.killed + 1,
                       quorum := some { q with members := modNth (fun m => { m with st := .killed }) i q.members } }
            (s2.launchEnd r.launch m.task .killed false).sendEnd { (r.endMsg .killed false o) with handle := 0, launch := none }
          | none =>
            match s.tileOfTask m.task with
            | none => s
            | some t =>
              { s with kills := s.kills ++ [(s.nextMsg, ⟨t, m.task⟩)], nextMsg := s.nextMsg + 1 }) start

/-- A join looked at after a change or, with `expired`, at the expiry of its grace timer: a plain join sealed with nothing pending
releases (R258); a sealed quorum join is evaluated under R285, and releases once every member has ended after the cut (R288). -/
def State.evalJoin (s : State) (h : Handle) (expired : Bool) : State :=
  match s.join h with
  | none => s
  | some j =>
    if j.st != .sealed then s
    else match j.quorum with
      | none => if j.pending = 0 then s.release h j else s
      | some q =>
        let cutNow (grace : Bool) : State :=
          let s' := s.cut h j q grace
          match s'.join h with
          | none => s'
          | some j' => match j'.quorum with
            | none => s'
            | some q' => if q'.open.isEmpty then s'.release h j' else s'
        if q.cut then (if q.open.isEmpty then s.release h j else s)
        else if q.open.isEmpty then cutNow false
        else if quorumUnreachable q j.arrived j.weight then cutNow false
        else if q.graceLeft.isNone && quorumMet q j.arrived j.weight then
          (if q.grace == 0 then cutNow false
          else s.setJoin h { j with quorum := some { q with graceLeft := some q.grace.toNat } })
        else if expired && q.graceLeft == some 0 && q.grace != 0xFFFFFFFF then cutNow true
        else s

/-- A join looked at after a change: the ends of the cycle in which its grace timer expires are all counted first (R285). -/
def State.settleJoin (s : State) (h : Handle) : State := s.evalJoin h false

/-! ### The commit buffer applied (R117, R144, R260, R283) -/

/-- The words of the control region that a provisional line writes, by offset, each with the bytes written (R144, R353). -/
def CommitLine.ctlWords (l : CommitLine) : List (Nat × List (Option Byte)) :=
  ((List.range 8).map fun k =>
    (l.base - ctlBase + 8 * k, (List.range 8).map fun j => assocGet l.bytes (l.base + 8 * k + j))).filter fun p => p.2.any (·.isSome)

/-- The bytes a provisional line writes, from its base. -/
def CommitLine.patches (l : CommitLine) : List Patch :=
  (List.range 64).map fun j => ((assocGet l.bytes (l.base + j)).map Patch.full).getD .keep

/-- A provisional line of a task of a context performed: scratchpad words become full, where the context still owns the
segment, and global bytes reach their home (R89, R144). -/
def State.applyLine (c : CtxNo) (s : State) (l : CommitLine) : State :=
  if l.inGlobal then
    if ctlBase ≤ l.base then { s with ctlDue := s.ctlDue ++ l.ctlWords }
    else s.atHome (dieOf l.tile) ⟨l.host, false, l.base, l.patches, 0, none⟩
  else s.modTile l.tile fun x =>
    x.spPut (l.bytes.map fun p => if x.owns c p.1 then some p.1 else none) (l.bytes.map (·.2))

/-- The provisional stores of a task of a context performed. -/
def State.applyLines (s : State) (c : CtxNo) (b : CommitBuf) : State := b.lines.foldl (State.applyLine c) s

/-- A provisional store of a task waits for the zeroing of its segment (R89). -/
def State.linesWait (s : State) (c : CtxNo) (b : CommitBuf) : Bool :=
  b.lines.any fun l => !l.inGlobal && l.bytes.any fun p => (s.tile l.tile).zeroing c p.1

/-- A contribution applied to the buffer (R283). -/
def State.applyContribution (q : Quorum) (c : CtxNo) (w : BitVec 32) (s : State) (k : Contribution) : State :=
  ((List.range k.values.length).zip k.values).foldl (fun s p =>
    let e := k.offset + p.1
    if e < q.len.toNat then
      let a := q.cbase.toNat + 64 + 4 * e
      s.joinWrite q.home c a (bvBytes 4 (f32Fma (s.joinRead q.home c a) w p.2))
    else s) s

/-! ### The end of a task (R259, R260, R263, R302) -/

/-- How an end leaves a member (R259, R287). -/
def EndKind.member : EndKind → MemberSt
  | .arrived => .arrived
  | .failed => .failed
  | .killed => .killed

/-- An open join sealed with its `JINIT` successor, or with none (R258, R302). -/
def State.sealJoin (s : State) (c : CtxNo) (h : Handle) : State :=
  match s.joinOf c h with
  | none => s
  | some j => if j.st == .open then (s.setJoin h { j with st := .sealed }).settleJoin h else s

/-- An end reaches the join unit and is counted (R259); an accepted member's stores and contributions are applied, and a
late one is refused (R283, R287), as is one whose join has ended with its context (R293). The launch of the task counts it too
(R367). -/
def State.countEnd (s0 : State) (m : EndMsg) : State :=
  let s := m.joins.foldl (fun s h => s.sealJoin m.ctx h) s0
  let s1 := match s.joinOf m.ctx m.handle with
    | none => s
    | some j =>
      match j.quorum, m.quorum with
      | some q, some ix =>
        let late := q.cut && m.kind == EndKind.arrived
        let st : MemberSt := if late then .late else EndKind.member m.kind
        let ms := modNth (fun (x : Member) => { x with st := st }) ix.toNat q.members
        let s' := if m.kind == EndKind.arrived && !late then
            m.commit.contribs.foldl (State.applyContribution q j.ctx m.weight) (s.applyLines m.ctx m.commit)
          else s
        let j' : JoinRec :=
          { j with
            pending := j.pending - 1
            arrived := j.arrived + (if st == MemberSt.arrived then 1 else 0)
            weight := if st == MemberSt.arrived then f32Add j.weight m.weight else j.weight
            failed := j.failed + (if st == MemberSt.failed then 1 else 0)
            killed := j.killed + (if st == MemberSt.killed then 1 else 0)
            late := j.late + (if st == MemberSt.late then 1 else 0)
            quorum := some { q with members := ms } }
        (s'.setJoin m.handle j').settleJoin m.handle
      | _, _ =>
        let s' := if m.kind == EndKind.arrived then s.applyLines m.ctx m.commit else s
        let j' : JoinRec :=
          { j with
            pending := j.pending - 1
            arrived := j.arrived + (if m.kind == EndKind.arrived then 1 else 0)
            weight := if m.kind == EndKind.arrived then f32Add j.weight m.weight else j.weight
            failed := j.failed + (if m.kind == EndKind.failed then 1 else 0)
            killed := j.killed + (if m.kind == EndKind.killed then 1 else 0) }
        (s'.setJoin m.handle j').settleJoin m.handle
  s1.launchEnd m.launch m.task m.kind m.power

/-- The engine commands of a tile's task: all lose their tokens; with `cancel`, those not started are cancelled (R151,
R154). -/
def Tile.dropTokens (x : Tile) (cancel : Bool) : Tile :=
  match x.run with
  | none => x
  | some r =>
    let f (c : EngCmd) : EngCmd :=
      if c.task == r.record.task then
        { c with live := false, cancelled := c.cancelled || (cancel && !c.started) }
      else c
    { x with
      eng := x.eng.map fun q => { q with cmds := q.cmds.map f }
      mupd := x.mupd.map fun m => if m.task == r.record.task then { m with live := false } else m }

/-- A tile whose task has left it: registers, latches, slots and waits are gone (R23, R24, R247). -/
def Tile.vacate (x : Tile) : Tile :=
  { x with
    run := none, wait := none, accs := [], replay := none, owed := [], first := true, banked := none, armed := false, issue := .idle, regs := .reset
    mx := { Matrix.empty with gated := x.mx.gated, waking := x.mx.waking, idle := x.mx.idle }
    accPoison := [], regPoison := [], pending := [], late := [], peat := { x.peat with valid := false, dirty := false, held := false, saved := false } }

/-- The parked requests of a tile's task dropped; those of its engines stay (R357). -/
def State.dropParked (s : State) (t : TileIx) : State :=
  s.modDie (dieOf t) fun d =>
    { d with parked := d.parked.filter fun p => p.tile != t || (match p.kind with
      | .engine _ => true
      | _ => false) }

/-- The gang of a task that runs on a tile. -/
def State.gangOf (s : State) (t : TileIx) : Option Gang :=
  match (s.tile t).run with
  | none => none
  | some r =>
    if r.record.gm then
      (s.cluster r.home).gangs.find? fun g => g.num == r.record.gang && g.ctx == r.record.ctxn
    else none

/-- A gang changed; `none` removes it. -/
def State.modGang (s : State) (home : ClusterIx) (x : CtxNo) (n : GangNo) (f : Gang → Option Gang) : State :=
  s.modCluster home fun k =>
    { k with gangs := k.gangs.filterMap fun y => if y.num == n && y.ctx == x then f y else some y }

/-- A member of a gang has ended; a gang without members is gone (R263). -/
def State.shrinkGang (s : State) (home : ClusterIx) (x : CtxNo) (n : GangNo) : State :=
  s.modGang home x n fun y => if y.size ≤ 1 then none else some { y with size := y.size - 1 }

/-- A member has left its tile, with its gang or alone. -/
def State.offGang (s : State) (t : TileIx) (g : Gang) : State :=
  s.modGang g.home g.ctx g.num fun y => some { y with tiles := y.tiles.filter fun p => p.2 != t }

/-- A member ends; with `terminate`, every other running member is to be killed at its next kill point and what the pipes
hold is discarded (R263). -/
def State.leaveGang (s : State) (t : TileIx) (g : Gang) (terminate : Bool) : State :=
  let s1 := (s.offGang t g).shrinkGang g.home g.ctx g.num
  if terminate then
    let s2 := s1.modGang g.home g.ctx g.num fun y =>
      some { y with pipes := y.pipes.map fun p => (p.1, { p.2 with entries := [] }) }
    (g.tiles.filter fun p => p.2 != t).foldl (fun s p => s.modRun p.2 fun r => { r with killPending := true }) s2
  else s1

/-- Spawn checks of a task that have not returned (R297). -/
def State.spawnsOf (s : State) (task : Nat) : Nat := (s.spawns.filter fun m => m.2.task == task && !m.2.returned).length

/-- The task on a tile ends (R253, R260, R263, R302, R306, R383): its end goes to its join, its commit buffer is applied or
discarded, and the tile is free. Its open joins are sealed, once the spawns it has on their way have reached their join
units (R279, R297). The tile of a task that is killed runs the ballast pattern, which decays within 20 µs (R328). -/
def State.endTask (s : State) (t : TileIx) (k : EndKind) (power : Bool) : State :=
  match (s.tile t).run with
  | none => s
  | some r =>
    let rec' := r.record
    let s0 := ((if k == EndKind.arrived then s else s.cancelCommands rec'.task).drain t).modTile t (·.dropTokens (k != EndKind.arrived))
    let s1 := if k == EndKind.arrived && !rec'.qm then s0.applyLines rec'.ctxn r.commit else s0
    let quiet := decide (s.spawnsOf rec'.task = 0)
    let s2 := if quiet then r.openJoins.foldl (fun s h => s.sealJoin rec'.ctxn h) s1 else s1
    let s3 := match s.gangOf t with
      | none => s2
      | some g => s2.leaveGang t g (k != EndKind.arrived)
    let s4 := s3.sendEnd
      { (rec'.endMsg k power (.tile t)) with
        commit := if k == EndKind.arrived && rec'.qm then r.commit else ⟨[], []⟩
        joins := if quiet then [] else r.openJoins }
    let s5 := (s4.freeSaveSlot rec'.ctxn r.saving).freeSaveSlot rec'.ctxn (r.restoring.bind (·.record.slot))
    (((s5.dropParked t).modTile t (·.vacate)).modTile t fun x =>
      { x with power := { x.power with ballast := if k == EndKind.killed then 20000 else x.power.ballast } }).freed t

/-- The continuation record a suspension writes: the resume address with SUSP, the words of the record, `s1` to `s5`
(R268, R303). -/
def Running.continuation (r : Running) (regs : Regs) (pc : Addr48) : Rec :=
  let o := r.record
  { o with
    bargs := r.bargs, bargOpen := r.bargOpen
    words := Vector.ofFn fun i : Fin 8 =>
      if i.val = 0 then word0 pc true o.gm o.qm false
      else if i.val ≤ 2 then o.words[i]
      else regs.getS (BitVec.ofNat 6 (i.val - 2)) }

/-- A suspended task leaves its tile: its accesses are performed, its tokens and its open joins are gone, and the tile is
free (R24, R151, R302). -/
def State.leaveTile (s : State) (t : TileIx) (keep : Option Handle) : State :=
  match (s.tile t).run with
  | none => s
  | some r =>
    let s0 := (s.drain t).modTile t (·.dropTokens false)
    let s1 := r.openJoins.foldl (fun s h => if keep == some h then s else s.sealJoin r.record.ctxn h) s0
    let s2 := match s1.gangOf t with
      | none => s1
      | some g => s1.offGang t g
    ((s2.dropParked t).modTile t (·.vacate)).reserve t

end Sys2Proof.Machine
end

