-- ==== Sys2Proof/Machine/Ops.lean ====
section
/-! DEFINITION. The shared operations of the meanings: the outcome of an instruction, taking an exception and returning
from one, holding a bundle, parking an access, and loads and stores over the spaces. -/

namespace Sys2Proof.Machine

/-- The outcome of an instruction. -/
abbrev Out := Host.Outcome State Fault Refusal

/-! ### Taking an exception (R376 to R383) -/

/-- `FCAUSE` from a fault (R374). -/
def TrapRec.word (f : TrapRec) (hmode : Bool) : Word :=
  (0#40 ++ f.sub ++ f.slot ++ 0#1 ++ BitVec.ofBool f.replay ++ BitVec.ofBool f.step ++ BitVec.ofBool hmode ++ f.cause :
    BitVec 64)

/-- The bank of a fault (R374). -/
def TrapRec.bank (f : TrapRec) (hmode : Bool) : FaultBank := ⟨f.word hmode, f.addr, f.pc⟩

/-- The lowest-numbered segment of a tile that a context owns (R378). -/
def Tile.lowestSeg (x : Tile) (c : CtxNo) : Option (BitVec 5) :=
  ((List.range 32).map (BitVec.ofNat 5)).find? fun g => (x.seg g).owner == some c

/-- The registers of a handler at its entry, with the stack top of R378 in `s56` (R377). -/
def Regs.handler (r : Regs) (top : Word) (pc : Addr48) : Regs :=
  { r with
    s := (((((((r.s.set 56 top).set 57 0).set 58 0).set 59 0).set 60 0).set 61 0).set 62 0).set 63 0
    p := r.p &&& 0x7F
    pc := pc
    ctl := { r.ctl with hnd := true, loop0 := .off, loop1 := .off, fpflags := 0 } }

/-- Entry to the handler of the task on a tile, with bank 1 and bank 2 as given; the task's copies are banked unless a
handler already runs (R376, R377, R380). -/
def Tile.enterHandler (x : Tile) (bank1 bank2 : FaultBank) (g : BitVec 5) : Tile :=
  let top : Word := (g.zeroExtend 64 <<< (16 : Nat)) + 0x10000
  let r := x.regs.handler top x.view.trapv
  { x with
    banked := if x.regs.ctl.hnd then x.banked else some x.regs.bank
    armed := false, wait := none, replay := none, issue := .idle, first := true
    regs := { r with ctl := { r.ctl with bank1 := bank1, bank2 := bank2 } } }

/-- A request is one that a trap withdraws: that of a wait, of the fetch or of a save. The accesses of the M slot that are
parked stay so (R357, R376). -/
def Tile.withdraws (x : Tile) : ParkKind → Bool
  | .access n => !x.accs.any fun a => a.order == n
  | .fetch => true
  | .save => true
  | _ => false

/-- The requests of the task on a tile that a trap withdraws (R376). -/
def State.dropAccess (s : State) (t : TileIx) : State :=
  s.modDie (dieOf t) fun d => { d with parked := d.parked.filter fun p => p.tile != t || !(s.tile t).withdraws p.kind }

/-- The banks posted to the die's system tile (R379, R383). -/
def State.post (s : State) (t : TileIx) (b1 b2 : FaultBank) : State :=
  s.modDie (dieOf t) fun d => { d with posts := d.posts ++ [((s.tile t).regs.ctl.ctxn, t, b1, b2)] }

/-- A member of the gang of the task on a tile has stopped for the gang's deep pre-emption (R264). -/
def State.gangStopping (s : State) (t : TileIx) : Bool :=
  match s.gangOf t with
  | none => false
  | some g => g.tiles.any fun p => (s.tile p.2).run.any (·.stopped)

/-- What taking an exception first does to the task on a tile: the asynchronous causes still pending wait for `RETT` (R375),
and a deep pre-emption that is due lapses unless the gang of the task is stopping (R264, R275). -/
def State.keepCauses (s : State) (t : TileIx) : State :=
  s.modRun t fun r => { r with asyncHeld := r.async.length, deepDue := r.deepDue && s.gangStopping t, fresh := none }

/-- TAKING AN EXCEPTION: the task on tile t takes fault f (R376 to R380, R383). With a handler the task enters it; a fault
of an unarmed handler is NESTED, or halts the slot; without a handler, without a segment for its stack, or for a cause
never delivered, the task ends counted failed with bank 1 posted. -/
def State.takeTrap (s0 : State) (t : TileIx) (f : TrapRec) : State :=
  let s := s0.keepCauses t
  let x := s.tile t
  match x.run with
  | none => s
  | some _ =>
    let c := x.regs.ctl
    let setBanks (s : State) (b1 b2 : FaultBank) : State := s.modCtlOf t fun c => { c with bank1 := b1, bank2 := b2 }
    if c.hnd && !x.armed && c.bank2.cause.extractLsb' 0 8 != 0 then
      let s1 := s.post t c.bank1 c.bank2
      (s1.modTile t fun x => { x with halted := some c.ctxn }).endTask t .failed false
    else
      let b1 := if c.hnd && !x.armed then
          FaultBank.mk (TrapRec.word { f with cause := causeNested, sub := f.cause, replay := false, step := false } true)
            f.addr f.pc
        else f.bank c.hnd
      let b2 := if c.hnd then (if x.armed then .none else c.bank1) else c.bank2
      match (if x.view.trapv == 0 || f.cause == causeResumeLost then none else x.lowestSeg c.ctxn) with
      | some g => ((s.dropSaving t).dropAccess t).modTile t (·.enterHandler b1 b2 g)
      | none => ((setBanks s b1 b2).post t b1 b2).endTask t .failed false

/-! ### The end of a bundle (R36, R82, R373, R382) -/

/-- An instruction after which the task may leave its tile, leave its handler or stop: it takes effect behind a wait of its
bundle (R260, R268, R303, R388). -/
def leaves : Instr → Bool
  | .endTask | .abort | .yield | .jwait _ | .jwaitHere _ | .sysc _ | .barg | .trap _ => true
  | .rett .. | .rettSkip .. | .savex _ | .restx _ | .restxKeep _ | .ckpt _ => true
  | _ => false

/-- Where control goes after a bundle whose slots have executed: to the target of its transfer, where its first issue sent
it, or under the loops as they stood at its issue; a loop count that one of its slots has written stays (R36, R82, R382). -/
def Issue.after (i : Issue) : Flow :=
  let keep (f : Flow) : Flow := ⟨f.next, if i.wroteLc0 then none else f.lc0, if i.wroteLc1 then none else f.lc1⟩
  match i.npc, i.flow with
  | some a, _ => ⟨a, none, none⟩
  | none, some f => keep f
  | none, none =>
    let r := i.src.getD .reset
    let f := loopStep r.pc (r.pc + BitVec.ofNat 48 i.size) r.ctl.loop0 r.ctl.loop1
    keep ⟨f.1, some f.2.1, some f.2.2⟩

/-- The registers where a bundle has ended (R36, R82). -/
def Regs.goOn (r : Regs) (f : Flow) : Regs :=
  { r with
    pc := f.next
    ctl := { r.ctl with
      loop0 := { r.ctl.loop0 with lc := f.lc0.getD r.ctl.loop0.lc }
      loop1 := { r.ctl.loop1 with lc := f.lc1.getD r.ctl.loop1.lc } } }

/-- What a bundle leaves behind at a cause of one of its instructions kept for the `RETT` with REPLAY (R382). -/
def Tile.owe (x : Tile) (o : Owed) : Tile := { x with owed := o :: x.owed.filter fun p => p.hnd != o.hnd }

/-- The end of a bundle of the task on a tile: control goes on after it, with one further cycle for a taken transfer (R37),
or the cause its execution raised is taken (R373). `TRAP` ends its bundle first (R384). -/
def State.settle (s : State) (t : TileIx) (i : Issue) : State :=
  let f := i.after
  let r := i.src.getD .reset
  match i.pend with
  | none => s.modTile t fun x =>
    { x with issue := .idle, regs := x.regs.goOn f, nextIssue := x.nextIssue + (if i.npc.isSome then 1 else 0) }
  | some p =>
    if p.step then
      (s.modTile t fun x => { x with issue := .idle, regs := x.regs.goOn f }).takeTrap t { p with pc := f.next.zeroExtend 64 }
    else
      (s.modTile t fun x =>
        let y : Tile := { x with issue := .idle }
        if p.replay then y.owe ⟨x.regs.ctl.hnd, r.pc, f⟩ else y).takeTrap t p

/-- A slot of an issued bundle as it waits to be tried again, with the slots behind it. -/
def slotWait (si : SlotInstr) (i : Issue) (rest : List SlotInstr) (n : Nat) : Wait :=
  { instr := si.instr, issue := { i with slot := si.slot.index, word := si.word }, rest := rest, begun := false
    leftNs := 0, order := n, arrived := n, mem := .none }

/-- The task on a tile goes on past an instruction it has waited for: the next slot of its bundle is tried, or the bundle
ends. -/
def State.endWait (s : State) (t : TileIx) (w : Wait) : State :=
  match w.rest with
  | [] => (s.modTile t fun x => { x.touch w.instr with wait := none }).settle t w.issue
  | si :: l =>
    { (s.modTile t fun x => { x.touch w.instr with wait := some (slotWait si w.issue l s.nextOrder) }) with
      nextOrder := s.nextOrder + 1 }

/-- A cause that ends a wait of the task on a tile: the instruction had issued (R373, R374). -/
def State.waitTrap (s : State) (t : TileIx) (w : Wait) (cause : BitVec 8) (addr : Word) (sub : BitVec 8) : State :=
  let f : TrapRec :=
    { cause := cause, sub := sub, slot := BitVec.ofNat 4 w.slot, replay := true, step := false, addr := addr
      pc := w.src.pc.zeroExtend 64 }
  s.endWait t { w with issue := { w.issue with pend := w.issue.pend.orElse fun _ => some f } }

/-- A cause of an instruction that had issued and was performed later, pending for the next boundary. One that the task issued
waits while its handler runs (R373, R375). -/
def Running.later (r : Running) (own : Bool) (f : TrapRec) : Running :=
  if own then { r with async := r.async ++ [f] }
  else { r with async := r.async.take r.asyncHeld ++ f :: r.async.drop r.asyncHeld, asyncHeld := r.asyncHeld + 1 }

/-- The accesses of a task without one of them. -/
def Tile.dropAcc (x : Tile) (a : Wait) : Tile := { x with accs := x.accs.filter fun b => b.order != a.order }

/-- A cause of an access that was performed beside the task's bundles (R357, R373). -/
def State.accFault (s : State) (t : TileIx) (a : Wait) (cause : BitVec 8) (addr : Word) (sub : BitVec 8) : State :=
  let f : TrapRec :=
    { cause := cause, sub := sub, slot := BitVec.ofNat 4 a.slot, replay := true, step := false, addr := addr
      pc := a.src.pc.zeroExtend 64 }
  (s.modTile t (·.dropAcc a)).modRun t (·.later (a.src.ctl.hnd == (s.tile t).regs.ctl.hnd) f)

/-- The return from a handler: the task's copies come back and `CTX`.HND is clear (R377, R382). -/
def Tile.leaveHandler (x : Tile) : Tile :=
  { x with
    banked := none, armed := false
    regs :=
      let r := match x.banked with
        | none => x.regs
        | some b => x.regs.unbank b
      { r with ctl := { r.ctl with hnd := false } } }

/-! ### Outcomes of a slot -/

/-- A bundle is being issued on the current tile. -/
def State.inBundle (s : State) : Bool := s.t.issue.src.isSome

/-- The address of the bundle being issued. -/
def State.pc (s : State) : Addr48 := s.src.pc

/-- A fault of the slot being executed. -/
def State.fault (s : State) (cause : BitVec 8) (addr : Word) (sub : BitVec 8) (replay : Bool) : TrapRec :=
  { cause := cause, sub := sub, slot := BitVec.ofNat 4 s.t.issue.slot, replay := replay, step := false, addr := addr,
    pc := s.pc.zeroExtend 64 }

/-- A cause raised at issue: no slot of the bundle takes effect (R373). Outside a bundle it is taken at once. -/
def State.issueTrap (s : State) (cause : BitVec 8) (addr : Word) : Out :=
  let f := s.fault cause addr 0 false
  .next (if s.inBundle then s.modIssue fun i => { i with mark := .issueTrap, pend := some f } else s.takeTrap s.cur f)

/-- The value of `FADDR` where the spec states none: a free value (log entries 11 and 14). -/
def State.openAddr (s : State) : Word := BitVec.ofNat 64 (Config.free s.freeCount)

/-- A cause raised in execution: the other slots of the bundle take effect (R373). Outside a bundle it is taken at once. -/
def State.execTrap (s : State) (cause : BitVec 8) (addr : Word) (sub : BitVec 8) : State :=
  let f := s.fault cause addr sub true
  if s.inBundle then s.modIssue fun i => { i with pend := i.pend.orElse fun _ => some f } else s.takeTrap s.cur f

/-- The bundle waits: it has not issued (R22, R37). -/
def State.hold (s : State) : Out := .next (s.modIssue fun i => { i with mark := .wait })

/-- ILLEGAL_OP with the address word of R48. -/
def State.illegal (s : State) : Out := s.issueTrap causeIllegalOp s.whereWord

/-- A guard on the operands: an ill-formed instruction raises ILLEGAL_OP (R46). -/
def checked (i : Instr) (s : State) (k : Out) : Out := if i.wf then k else s.illegal

/-- The context of the task whose bundle is being executed. -/
def State.ctxn (s : State) : CtxNo := s.src.ctl.ctxn

/-- The task is a member of a quorum join outside a hold section (R129, R281). -/
def State.member (s : State) : Bool := s.src.ctl.qjoin != 0 && s.src.ctl.holdDepth == 0

/-- System mode (R351). -/
def State.system (s : State) : Bool := s.src.ctl.sys

/-- A guard on the mode: PRIV outside system mode (R351). -/
def systemOnly (s : State) (k : Out) : Out := if s.system then k else s.issueTrap causePriv s.whereWord

/-- The place of the instruction being executed in the order of issue (R108). -/
def State.ord (s : State) : Nat := s.t.issue.order.getD s.nextOrder

/-- The next number of the order of issue, once the instruction being executed has its own. -/
def State.ordered (s : State) : State := { s with nextOrder := max s.nextOrder (s.ord + 1) }

/-- An instruction that waits, at the bundle being issued. -/
def State.newWait (s : State) (i : Instr) (left : Nat) (m : MemAcc) (begun : Bool) : Wait :=
  { instr := i, issue := { s.t.issue with src := some s.src }, rest := [], begun := begun, leftNs := left, order := s.ord
    arrived := s.nextOrder, mem := m }

/-- An instruction that has issued waits, bounded by `left` ns (R92, R145, R156, R264, R308, R357). -/
def State.waitFor (s : State) (i : Instr) (left : Nat) (m : MemAcc) : State :=
  { (s.modT fun x => { x with wait := some (s.newWait i left m true) }) with nextOrder := s.nextOrder + 1 }

/-- An access of the task waits for those before it (R108, R118, R143). -/
def State.mustWait (s : State) (m : MemAcc) : Bool := s.orderHolds s.cur m s.ord

/-- An access that the task itself waits for is tried again later; the other slots of its bundle execute (R108, R118). -/
def State.later (s : State) (i : Instr) (m : MemAcc) : Out :=
  if s.t.issue.order.isSome then .next (s.modIssue fun x => { x with mark := .wait })
  else .next (s.modT fun x => { x with wait := some (s.newWait i 0 m false) }).ordered

/-- An access put in its place among those still to be performed. -/
def putAcc (w : Wait) : List Wait → List Wait
  | [] => [w]
  | a :: l => if a.order < w.order then a :: putAcc w l else w :: a :: l

/-- The bundle being issued and those after it go on without an access of the M slot, which is tried again later (R118,
R357). -/
def State.standAside (s : State) (i : Instr) (m : MemAcc) : State :=
  (s.modT fun x => { x with accs := putAcc (s.newWait i 10000000 m true) x.accs }).ordered

/-- An access of the M slot that cannot be performed yet (R108, R118, R357). -/
def State.aside (s : State) (i : Instr) (m : MemAcc) : Out :=
  if s.t.issue.order.isSome then s.hold else .next (s.standAside i m)

/-- An access of the M slot whose translation failed is parked, and what does not wait for it goes on (R356, R357). With the
unit full the request waits in the walker. -/
def State.parkAccess (s : State) (i : Instr) (m : MemAcc) (va : BitVec 48) (acc : Acc) (malformed : Bool) : Out :=
  if s.parkFull s.cur then s.aside i m
  else .next ((s.park s.cur s.ctxn va acc malformed (.access s.ord)).standAside i m)

/-- A read or write of the device for an instruction of the C slot, whose translation failed, is parked, and the task waits
(R356, R357). With the unit full the request waits in the walker. -/
def State.parkWait (s : State) (i : Instr) (c : CtxNo) (va : BitVec 48) (acc : Acc) (malformed : Bool) : Out :=
  if s.parkFull s.cur then s.hold
  else .next ((s.park s.cur c va acc malformed (.access s.ord)).waitFor i 10000000 .none)

/-- The instructions of the C slot that read memory: they hold their bundle rather than stand aside. -/
def isControl : Instr → Bool
  | .spawng .. | .qinit .. => true
  | _ => false

/-- A guard on an access: it waits for those before it (R108, R118). -/
def State.orderGuard (s : State) (i : Instr) (m : MemAcc) (k : Out) : Out :=
  if !s.mustWait m then k else if isControl i then s.hold else s.aside i m

/-- The memory of a plain load of elements. -/
def readsOf (spc : Space) (els : List (Word × Nat)) : MemAcc := ⟨inSpace spc els, true, false, false, false⟩

/-- The memory of a plain store of elements. -/
def writesOf (spc : Space) (els : List (Word × Nat)) : MemAcc := ⟨inSpace spc els, false, true, false, false⟩

/-! ### The member frame (R129, R280, R281) -/

/-- A byte of a scratchpad lies in the frame of the task, or in the stack of its handler (R281). -/
def State.inFrame (s : State) (home : TileIx) (off : Nat) : Bool :=
  let c := s.src.ctl
  home == s.cur &&
  ((decide (c.qframeBase.toNat ≤ off) && decide (off < c.qframeBase.toNat + c.qframeSize.toNat)) ||
    (c.hnd && match s.t.lowestSeg c.ctxn with
      | none => false
      | some g => decide (g.toNat * 65536 + 0xF000 ≤ off) && decide (off < (g.toNat + 1) * 65536)))

/-- The first of `n` bytes from a scratchpad address that lies outside the frame (R129). -/
def State.firstOutside (s : State) (a n : Nat) : Option Nat :=
  match spHome s.cur a with
  | none => if n = 0 then none else some a
  | some h => ((List.range n).find? fun j =>
      !(decide (a % 2 ^ 21 + j < 2 ^ 21) && s.inFrame h (a % 2 ^ 21 + j))).map (a + ·)

/-- The first address outside the frame that a write in a space names (R129). -/
def State.unsafeAt (s : State) (spc : Space) (els : List (Word × Nat)) : Option Word :=
  if s.member then
    firstOf (fun e : Word × Nat => match spc with
      | .sp => (s.firstOutside e.1.toNat e.2).map (BitVec.ofNat 64)
      | _ => if e.2 = 0 then none else some e.1) els
  else none

/-- A guard on a member's writes: QUORUM_UNSAFE (R129). -/
def State.frameGuard (s : State) (spc : Space) (els : List (Word × Nat)) (k : Out) : Out :=
  match s.unsafeAt spc els with
  | some a => s.issueTrap causeQuorumUnsafe a
  | none => k

/-! ### Loads (R88, R93, R94, R125 to R130) -/

/-- The lower of two recorded addresses (R88). -/
def lowerBad (a b : Option Word) : Option Word :=
  match a, b with
  | none, y => y
  | x, none => x
  | some x, some y => if x.ule y then some x else some y

/-- The lowest offending byte of an access's elements (R88). -/
def State.lowestBad (s : State) (c : CtxNo) (els : List (Word × Nat)) : Option Word :=
  els.foldl (fun o e => lowerBad o (s.spBad s.cur c e.1.toNat e.2)) none

/-- What stops a load of Caddy bytes, in the order of R93 over the whole access. -/
def State.cdStop (s : State) (els : List (Word × Nat)) : Option (BitVec 8 × Word) :=
  (s.cdRefused s.cur s.ctxn els).orElse fun _ =>
    (firstOf (fun e => match s.cdCheck s.cur s.ctxn e.1.toNat e.2 with
      | .ecc o => some o
      | _ => none) els).map fun o => (causeEccUncorr, BitVec.ofNat 64 o)

/-- The plans of the elements of a global access, one after another (R356). -/
def State.planAll (t : TileIx) (c : CtxNo) (acc : Acc) (l1 : Bool) :
    State → List (Word × Nat) → Except GFail (State × List (List (BitVec 48 × Nat × GSrc)))
  | s, [] => .ok (s, [])
  | s, (a, n) :: rest =>
    match s.gPlan t c acc l1 (gPieces (a.extractLsb' 0 48) n) with
    | .error e => .error e
    | .ok (s1, l) =>
      match State.planAll t c acc l1 s1 rest with
      | .error e => .error e
      | .ok (s2, ls) => .ok (s2, l :: ls)

/-- Reads the planned elements in order. -/
def State.fetchAll (t : TileIx) (c : CtxNo) : State → List (List (BitVec 48 × Nat × GSrc)) → State × List (List Byte)
  | s, [] => (s, [])
  | s, l :: ls =>
    let r := s.gFetch t c true true State.ctlBytes l
    let q := State.fetchAll t c (r.1.ctlRead l) ls
    (q.1, r.2 :: q.2)

/-- A load of elements, each an address and a length, from a space: the bytes of each reach `k`. Refusals at issue, the
wait for a segment's zeroing, parking and poison come first. -/
def State.loadAll (s : State) (i : Instr) (spc : Space) (els : List (Word × Nat)) (k : State → List (List Byte) → Out) :
    Out :=
  match spc with
  | .sp =>
    if els.any fun e => s.spWaits s.cur s.ctxn e.1.toNat e.2 then s.hold
    else s.orderGuard i (readsOf .sp els) <|
      let s1 := s.offendIf s.cur false (s.lowestBad s.ctxn els)
      match firstOf (fun e : Word × Nat => s.spPoisoned s.cur s.ctxn e.1.toNat e.2) els with
      | some a => .next (s1.execTrap causeEccUncorr (BitVec.ofNat 64 a) 0)
      | none => k s1 (els.map fun e => s.spRead s.cur s.ctxn true e.1.toNat e.2)
  | .cd =>
    match s.cdStop els with
    | some (c, a) => s.issueTrap c a
    | none => k s (els.map fun e => s.cdRead s.cur e.1.toNat e.2)
  | .g =>
    match els.find? fun e => !canonicalRange e.1 e.2 with
    | some e => s.issueTrap causeProt e.1
    | none =>
      s.orderGuard i (readsOf .g els) <| if s.t.ctlPending then s.aside i (readsOf .g els)
      else match State.planAll s.cur s.ctxn .read true s els with
        | .error (.park va m) => s.parkAccess i (readsOf .g els) va .read m
        | .error (.prot va) => .next (s.execTrap causeProt (va.signExtend 64) 0)
        | .ok (s0, ls) =>
          let s1 := s0.refill ls
          match firstOf s1.gPoisoned ls with
          | some va => .next (s1.execTrap causeEccUncorr (va.signExtend 64) 0)
          | none =>
            let r := State.fetchAll s1.cur s1.ctxn s1 ls
            k r.1 r.2

/-- A load of one element. -/
def State.load (s : State) (i : Instr) (spc : Space) (a : Word) (n : Nat) (k : State → List Byte → Out) : Out :=
  s.loadAll i spc [(a, n)] fun s bs => k s (bs.headD [])

/-! ### Stores -/

/-- Bytes written to a scratchpad for the task or an engine of tile t (R88, R91). -/
def State.spStore (s : State) (t : TileIx) (c : CtxNo) (a : Nat) (bs : List Byte) : State := s.spWrite t c a bs

/-- The planned elements of a global store sent to their homes, in ascending order (R106, R133). -/
def State.sendAll (s : State) (t : TileIx) (c : CtxNo) (access : Option (Bool × Nat)) (ls : List (List (BitVec 48 × Nat × GSrc)))
    (bss : List (List Byte)) : State :=
  s.gSend t c access ((ls.zip bss).map fun p => (p.1, p.2.map Patch.full))

/-- The scratchpad elements of a store written in ascending order; a word that they write whole together loses its poison
(R392). -/
def State.spStoreAll (s : State) (els : List (Word × List Byte)) : State :=
  (els.foldl (fun s e => s.spStore s.cur s.ctxn e.1.toNat e.2) s).clearPoison s.cur s.ctxn (els.map fun e => (e.1, e.2.length))

/-- A store of elements, each an address with its bytes, to a space: every page is translated before any byte is written
(R128). -/
def State.storeAll (s : State) (i : Instr) (spc : Space) (els : List (Word × List Byte)) (k : State → Out) : Out :=
  let lens := els.map fun e => (e.1, e.2.length)
  s.frameGuard spc lens <|
  match spc with
  | .sp =>
    if lens.any fun e => s.spWaits s.cur s.ctxn e.1.toNat e.2 then s.hold
    else s.orderGuard i (writesOf .sp lens) <| k ((s.offendIf s.cur true (s.lowestBad s.ctxn lens)).spStoreAll els)
  | _ =>
    match lens.find? fun e => !canonicalRange e.1 e.2 with
    | some e => s.issueTrap causeProt e.1
    | none =>
      s.orderGuard i (writesOf .g lens) <| match State.planAll s.cur s.ctxn .write false s lens with
      | .error (.park va m) => s.parkAccess i (writesOf .g lens) va .write m
      | .error (.prot va) => .next (s.execTrap causeProt (va.signExtend 64) 0)
      | .ok (s1, ls) => k (s1.sendAll s1.cur s1.ctxn none ls (els.map (·.2)))

/-- A store of one element. -/
def State.store (s : State) (i : Instr) (spc : Space) (a : Word) (bs : List Byte) (k : State → Out) : Out :=
  s.storeAll i spc [(a, bs)] k

/-- A guard on an address: MISALIGN unless it is a multiple of `n` (R127). -/
def aligned (n : Nat) (a : Word) (s : State) (k : Out) : Out :=
  if a.toNat % n = 0 then k else s.issueTrap causeMisalign a

/-- The effective address of format MS (R125). -/
def eaMs (base : Word) (z : Size) (o : BitVec 8) : Word := base + o.signExtend 64 <<< z.code.toNat
/-- The effective address of format M (R125). -/
def eaM (base : Word) (o : BitVec 11) : Word := base + o.signExtend 64 <<< (6 : Nat)
/-- The bytes of an access size. -/
def Size.bytes (z : Size) : Nat := 2 ^ z.code.toNat

end Sys2Proof.Machine
end

