-- ==== Sys2Proof/Machine/Flow.lean ====
section
/-! DEFINITION. The flow from one bundle to the next: hardware loops and the two headers without slots (R35, R36, R80 to
R82). -/

namespace Sys2Proof.Machine

/-- The bundle that follows the one being issued, without a taken transfer (R36, R82). -/
def State.follow (s : State) : Addr48 × BitVec 32 × BitVec 32 :=
  let r := s.src
  loopStep r.pc (r.pc + BitVec.ofNat 48 s.t.issue.size) r.ctl.loop0 r.ctl.loop1

/-- The pc moved past a bundle of `next - pc` bytes, under the loops (R36, R82). -/
def State.passTo (s : State) (next : Addr48) : State :=
  let r := s.regs
  let f := loopStep r.pc next r.ctl.loop0 r.ctl.loop1
  s.modRegs fun r =>
    { r with
      pc := f.1
      ctl := { r.ctl with loop0 := { r.ctl.loop0 with lc := f.2.1 }, loop1 := { r.ctl.loop1 with lc := f.2.2 } } }

/-- The start of the 64-byte line after an address (R35). -/
def nextLine (a : Addr48) : Addr48 := (a &&& 0xFFFFFFFFFFC0#48) + 64

/-- A header without slots waits its stall count: the cycle at which it has waited (R35, R37). -/
def Tile.waitStall (x : Tile) (stall : BitVec 5) : Nat := max x.cyc (x.nextIssue + stall.toNat)

/-- A no-op bundle waits STALL cycles, occupies one issue cycle, and the next bundle begins 2 bytes later (R35). -/
def execNoOpBundle (stall : BitVec 5) (s : State) : Out :=
  checked (.noOpBundle stall) s <|
    .next ((s.modT fun x =>
      let c := x.waitStall stall
      { x with cyc := c + 1, nextIssue := c + 1 }).passTo (s.regs.pc + 2))

/-- A padding header waits STALL cycles; the next bundle begins at the next line. With no stall it takes no issue cycle
(R35). -/
def execPaddingHeader (stall : BitVec 5) (s : State) : Out :=
  .next ((s.modT fun x =>
    if stall == 0 then x
    else
      let c := x.waitStall stall
      { x with cyc := c + 1, nextIssue := c + 1 }).passTo (nextLine s.regs.pc))

end Sys2Proof.Machine
end

