-- ==== Sys2Proof/Machine/Preempt.lean ====
section
/-! DEFINITION. What falls due at a bundle boundary: kills, asynchronous causes, and deep pre-emption (R263 to R269, R275,
R375, R386, R390). -/

namespace Sys2Proof.Machine

/-- The instruction waits on tags, a pipe, or its gang: what a watchdog bounds (R276). -/
def isWatched : Instr → Bool
  | .ldfe .. | .ldfeV .. | .ldfec .. | .ldfecV .. | .stfe .. | .stfeV .. => true
  | .pipep .. | .pipeg .. => true
  | .barg | .yield => true
  | _ => false

/-- The instruction waits on full/empty tags (R92). -/
def isTagWait : Instr → Bool
  | .ldfe .. | .ldfeV .. | .ldfec .. | .ldfecV .. | .stfe .. | .stfeV .. => true
  | _ => false

/-- The watchdog interval of a wait: `FEWDOG` for tags, `PIPEWDOG` otherwise (R92, R145, R264, R308). -/
def Tile.watchdog (x : Tile) (i : Instr) : Nat := if isTagWait i then x.view.fewdog.toNat else x.view.pipewdog.toNat

/-- A tile has a parked request of a kind of its own task (R357). -/
def State.hasParked (s : State) (t : TileIx) (k : ParkKind) : Bool :=
  (s.die (dieOf t)).parked.any fun p => p.tile == t && p.kind == k

/-- The wait of the task on a tile is one that a watchdog bounds. A `YIELD` of a task outside a gang waits only for the
slot write of R311. -/
def Tile.watched (x : Tile) (w : Wait) : Bool :=
  w.begun && isWatched w.instr && (w.instr != .yield || (x.run.map (·.record.gm)).getD false)

/-- A wait that stands: it has begun, and neither the Peat flip-flops hold its task nor has the task stopped for the
pre-emption of its gang, which withdraws it (R264, R396). -/
def Tile.waiting (x : Tile) (w : Wait) : Bool := w.begun && !x.peat.held && !x.run.any (·.stopped)

/-- A task that is due to be killed and may be killed now (R266, R275). -/
def Tile.killDue (x : Tile) : Bool :=
  match x.run with
  | none => false
  | some r => r.powerKill || (r.killPending && x.regs.ctl.holdDepth == 0)

/-- A kill taken (R275, R286, R327). -/
def State.takeKill (s : State) (t : TileIx) : State :=
  match (s.tile t).run with
  | none => s
  | some r => s.endTask t .killed r.powerKill

/-- The hold timer has run out with the depth above 0, outside handler mode (R265). -/
def Tile.holdOverrun (x : Tile) : Bool :=
  x.run.isSome && x.regs.ctl.holdDepth != 0 && x.regs.ctl.holdLeft == 0 && !x.regs.ctl.hnd

/-- The place in the list of asynchronous causes from which they may be taken: in handler mode those pending at its trap
wait for `RETT` (R375). -/
def Tile.asyncFrom (x : Tile) (r : Running) : Nat := if x.regs.ctl.hnd then r.asyncHeld else 0

/-- The asynchronous cause to be taken next (R375). -/
def Tile.asyncDue (x : Tile) : Option TrapRec := x.run.bind fun r => r.async[x.asyncFrom r]?

/-- The oldest asynchronous cause of the task taken at a bundle boundary: FPC is the bundle that would issue next, but for
a cause that stopped an issued instruction, whose bundle it names, and after whose replay control goes on here (R153, R247,
R358, R375, R382). A HOLD_OVERRUN whose hold section has ended lapses. -/
def State.takeAsync (s : State) (t : TileIx) : State :=
  let x := s.tile t
  match x.run, x.asyncDue with
  | some r, some f =>
    let s1 := s.modRun t fun r' => { r' with async := r'.async.eraseIdx (x.asyncFrom r) }
    if f.cause == causeHoldOverrun && !x.holdOverrun then s1
    else if f.replay then
      (s1.modTile t (·.owe ⟨x.regs.ctl.hnd, f.pc.extractLsb' 0 48, ⟨x.regs.pc, none, none⟩⟩)).takeTrap t f
    else s1.takeTrap t { f with pc := x.regs.pc.zeroExtend 64 }
  | _, _ => s

/-- HOLD_OVERRUN taken at a bundle boundary (R265, R373). -/
def State.takeHoldOverrun (s0 : State) (t : TileIx) : State :=
  let s := s0.modRun t fun r => { r with async := r.async.filter fun f => f.cause != causeHoldOverrun }
  let x := s.tile t
  s.takeTrap t { cause := causeHoldOverrun, sub := 0, slot := 11, replay := false, step := false, addr := x.regs.ctl.holdWord,
                 pc := x.regs.pc.zeroExtend 64 }

/-- HOLD_OVERRUN is the next cause at the boundary: no other asynchronous cause arose before it (R265, R375, R382). -/
def Tile.overrunNext (x : Tile) : Bool := x.holdOverrun && x.asyncDue.all fun f => f.cause == causeHoldOverrun

/-- A dispatch whose slot cannot be read ends with XLATE, or PROT for a control page: the task has no state for a handler to run
on, and ends counted failed with the banks posted (R356, R383, R386; log entry 83). -/
def State.restoreFail (s : State) (t : TileIx) (cause : BitVec 8) (va : Word) : State :=
  (s.modTile t fun x => { x with view := { x.view with trapv := 0 } }).takeTrap t
    { cause := cause, sub := 0, slot := 9, replay := false, step := false, addr := va, pc := (s.tile t).regs.pc.zeroExtend 64 }

/-- Spawn checks of the tile's task that have not returned (R297). -/
def State.spawnsOut (s : State) (t : TileIx) : Nat :=
  match (s.tile t).run with
  | none => 0
  | some r => s.spawnsOf r.record.task

/-- The save of a deep pre-emption (R269, R386 to R390): the image is written to the lowest free slot, the record with
DEEP set is enqueued beside the commit buffer, and the tile is left; or there is no slot, or the write of slot `i` stops. -/
inductive SaveR where
  | ok (s : State)
  | noSlot
  | fail (i : BitVec 10) (e : GFail)

/-- The save of the task on tile t, with its parked matrix work to continue at the restore (R248). A task whose own slot has not
been read yet goes back to its queue as it came. -/
def State.deepSave (s : State) (t : TileIx) : SaveR :=
  let x := s.tile t
  match x.run with
  | none => .noSlot
  | some r =>
    let c := r.record.ctxn
    let k := s.ctx c
    match r.restoring with
    | some q => .ok ((((s.dropParked t).modTile t (·.vacate)).reserve t).enqueueOnly r.home q.record)
    | none =>
    match s.saveSlot t c with
    | none => .noSlot
    | some i =>
      let redo := x.redo
      match s.slotPut t c (slotVa k i) (x.recorded.fullImage t x.regs.pc redo) with
      | .error e => .fail i e
      | .ok s1 =>
        let caddy := (x.mx.w.toList.any fun w => w.full && w.space == 2) || x.mx.st.toList.any (·.valid)
        let spSrc := x.mx.w.toList.any fun w => w.full && w.space == 0
        let o := r.record
        let rec' : Rec :=
          { o with
            words := (o.words.set 0 (word0 x.regs.pc true o.gm o.qm true))
            slot := some i, commit := r.commit, onTile := if caddy then some t else none
            inCluster := if spSrc then some (clusterOf t) else none, savedOn := some t
            wait := x.wait.map fun w => { w with begun := false, leftNs := 0 }
            openJoins := r.openJoins, redo := redo, async := r.async, asyncHeld := r.asyncHeld, accs := x.accs
            replay := x.replay, owed := x.owed, armed := x.armed, bargs := r.bargs, bargOpen := r.bargOpen }
        let s2 := (s1.keepSlot t c i .beside).drain t
        let s3 := ((s2.modTile t (·.dropTokens false)).dropParked t).modTile t (·.vacate)
        .ok ((s3.reserve t).enqueueOnly r.home rec')

/-- No deep pre-emption takes place now; it is tried again at the next quantum (R390). -/
def State.deepPutOff (s : State) (t : TileIx) : State :=
  (s.dropSaving t).modRun t fun r => { r with deepDue := false, ranNs := 0, brokeNs := 0, stopped := false }

/-- The members whose deep pre-emption is put off with that of a tile: its gang, or its task alone (R264). -/
def State.putOffAll (s : State) (t : TileIx) : State :=
  match s.gangOf t with
  | none => s.deepPutOff t
  | some g => g.tiles.foldl (fun s p => s.deepPutOff p.2) s

/-- The write of a slot that a deep pre-emption makes stops: a page that does not translate parks, with the slot taken, and a
control page raises PROT at the bundle boundary, with the slot free (R356, R357, R386). -/
def State.saveStops (s : State) (t : TileIx) (i : BitVec 10) : GFail → State
  | .park va m => if s.parkFull t then s else (s.takeSlot t (s.ctxOn t) i).park t (s.ctxOn t) va .write m .save
  | .prot va => (s.putOffAll t).raiseAsync t causeProt 9 (va.signExtend 64)

/-- The gang on a tile is saved as a whole once every running member has stopped; its pipes stay with it. A slot write that stops
stops the save of the gang (R264, R357, R390). -/
def State.saveGang (s : State) (t : TileIx) (g : Gang) : State :=
  let out := g.tiles.foldl (fun (o : State × Option (TileIx × SaveR)) p => match o.2 with
    | some _ => o
    | none => match State.deepSave o.1 p.2 with
      | .ok s2 => (s2, none)
      | e => (o.1, some (p.2, e))) (s, none)
  match out.2 with
  | some (u, .fail i e) => s.saveStops u i e
  | some _ => s.putOffAll t
  | none =>
    let s2 := (g.tiles.map (·.2)).foldl (fun s t => s.select t) (out.1.modGang g.home g.ctx g.num fun x => some { x with tiles := [] })
    match ((s2.cluster g.home).gangMembers g.ctx g.num).head? with
    | none => s2
    | some q => s2.offer g.home q.record

/-- A task waits for what must end before it is saved: matrix work that can go on, spawn checks, and writes to the control region
(R248, R292, R297). -/
def State.saveWaits (s : State) (t : TileIx) : Bool :=
  s.mxGoing t || s.spawnsOut t != 0 || (s.tile t).ctlPending || s.hasParked t .save

/-- Deep pre-emption of the task on a tile at a bundle boundary at depth 0 (R264, R266, R269, R390). Without a free slot it is
put off; a slot page that does not translate parks. -/
def State.deepPreempt (s : State) (t : TileIx) : State :=
  let x := s.tile t
  match x.run with
  | none => s
  | some _ =>
    if x.regs.ctl.holdDepth != 0 || s.saveWaits t then s
    else match s.gangOf t with
      | some g =>
        let s1 := s.modRun t fun r => { r with stopped := true }
        let s2 := g.tiles.foldl (fun s p => s.modRun p.2 fun r => { r with deepDue := true }) s1
        if g.tiles.all fun p => (s2.tile p.2).run.all fun r => r.stopped && !s2.saveWaits p.2 then s2.saveGang t g
        else s2
      | none =>
        match s.deepSave t with
        | .ok s1 => (match s1.findQueued ((x.run.map (·.record.task)).getD 0) with
          | some (c, q) => (s1.select t).offer c q.record
          | none => s1)
        | .noSlot => s.deepPutOff t
        | .fail i e => s.saveStops t i e

end Sys2Proof.Machine
end

