-- ==== Sys2Proof/Machine/Higher.lean ====
section
/-! DEFINITION. The work that waits for a task's tile (R267, R269, R272). -/

namespace Sys2Proof.Machine

/-- The running priority of the task on a tile (R267). -/
def Tile.runPrio (x : Tile) : Nat := (x.regs.ctl.prio.extractLsb' 3 3).toNat

/-- The queued records that wait for the task on a tile as higher work (R267). -/
def State.higher (s : State) (t : TileIx) : List Queued :=
  let p := (s.tile t).runPrio
  (((s.cluster (clusterOf t)).queue.filter fun q => q.record.eligible t && s.choosable q) ++
    (s.stealable t).map (·.2)).filter fun q => decide (p < q.priority)

/-- Higher work waits for the task on a tile (R267). -/
def State.higherWaits (s : State) (t : TileIx) : Bool := !(s.higher t).isEmpty

/-- The task on a tile has a reason to suspend at a `YIELD` (R268). -/
def State.yieldDue (s : State) (t : TileIx) : Bool :=
  s.higherWaits t || (match (s.tile t).run with
    | none => false
    | some r => !s.hasQuota r.record.ctxn)

/-- The reason of a deep pre-emption holds: the quantum has run out while higher work waits, the context has been without
quota for 50 µs, or the gang of the task is stopping (R264, R269). -/
def State.deepReason (s : State) (t : TileIx) : Bool :=
  match (s.tile t).run with
  | none => false
  | some r =>
    (decide ((s.tile t).view.quantum.toNat ≤ r.ranNs) && s.higherWaits t) ||
    (decide (50000 ≤ r.brokeNs) && !s.hasQuota r.record.ctxn) ||
    (match s.gangOf t with
      | none => false
      | some g => g.tiles.any fun p => (s.tile p.2).run.any (·.stopped))

/-- The instruction writes a slot of the save area (R311, R385, R388). -/
def isSaver : Instr → Bool
  | .yield | .jwait _ | .jwaitHere _ | .sysc _ | .savex _ => true
  | _ => false

/-- The save of a deep pre-emption is under way: its slot is taken, and no instruction of the task took it. -/
def State.saveBegun (s : State) (t : TileIx) : Bool :=
  (s.tile t).run.any (fun r => r.saving.isSome) && !(s.tile t).wait.any fun w => isSaver w.instr

/-- A deep pre-emption that fell due and whose reason no longer holds at depth 0 lapses (R266). One whose save is under way goes
on. -/
def State.lapse (s : State) (t : TileIx) : State :=
  if (s.tile t).regs.ctl.holdDepth == 0 && !s.deepReason t && !s.saveBegun t then s.modRun t fun r => { r with deepDue := false }
  else s

/-- A deep pre-emption of the task on a tile is due and may take place (R266, R269). -/
def State.preemptDue (s : State) (t : TileIx) : Bool :=
  ((s.tile t).run.any (·.deepDue)) && (s.tile t).regs.ctl.holdDepth == 0 && (s.deepReason t || s.saveBegun t)

/-! ### Leaving the tile at a suspension point (R24, R268, R310, R311) -/

/-- What becomes of the commit buffer at a suspension. -/
inductive KeepR where
  | ok (s : State) (slot : Option (BitVec 10))
  | noSlot
  | fail (i : BitVec 10) (e : GFail)

/-- The commit buffer of a task that suspends takes the lowest free slot of the save area, unless it is empty (R310,
R311). -/
def State.keepCommit (s : State) (t : TileIx) (c : CtxNo) (b : CommitBuf) : KeepR :=
  if b.lines.isEmpty && b.contribs.isEmpty then .ok s none
  else match s.saveSlot t c with
    | none => .noSlot
    | some i =>
      match s.slotPut t c (slotVa (s.ctx c) i) [(0x900, b.image)] with
      | .error e => .fail i e
      | .ok s1 => .ok (s1.keepSlot t c i .beside) (some i)

/-- The continuation of the task on a tile with its commit buffer and its pending causes, `pend` of the bundle that suspends it
among them (R268, R311, R373). -/
def Running.suspended (r : Running) (regs : Regs) (pc : Addr48) (slot : Option (BitVec 10)) (pend : Option TrapRec) : Rec :=
  { r.continuation regs pc with slot := slot, commit := r.commit, async := r.async ++ pend.toList, asyncHeld := r.asyncHeld }

end Sys2Proof.Machine
end

