-- ==== Sys2Proof/Machine/VecOps.lean ====
section
/-! DEFINITION. The elements of vector registers, governing masks, register groups and repetition (R189 to R193). -/

namespace Sys2Proof.Machine

/-- Element `i` of width `w` of a wide pattern (R18). -/
def elemOf (w : Nat) (x : Nat) (i : Nat) : Nat := (x >>> (i * w)) % 2 ^ w

/-- The pattern of `n` elements of width `w`, element `i` at bits `(i+1)w-1 : iw` (R18). -/
def packElems (w : Nat) (f : Nat → Nat) : Nat → Nat
  | 0 => 0
  | n + 1 => packElems w f n + (f n % 2 ^ w) <<< (n * w)

/-- The OR of the flags of `n` elements (R188). -/
def orFlags (f : Nat → Flags) : Nat → Flags
  | 0 => 0
  | n + 1 => orFlags f n ||| f n

/-- Element `i` of a vector register under a type. -/
def velem (t : ETy) (x : VWord) (i : Nat) : Nat := elemOf t.width x.toNat i

/-- A vector register of the elements of a type. -/
def vecOf (t : ETy) (f : Nat → Nat) : VWord := BitVec.ofNat 4096 (packElems t.width f t.count)

/-- A vector register and the flags of its elements: each element computed once where the mask governs it, and kept from
the old register where not (R190). -/
def vecMasked (t : ETy) (mk : MWord) (old : VWord) (f : Nat → Nat × Flags) : VWord × Flags :=
  (vecOf t fun i => if mk.getLsbD i then (f i).1 else velem t old i,
   orFlags (fun i => if mk.getLsbD i then (f i).2 else 0) t.count)

/-- The container of an A56 element has zero above its value (R189); other elements stand. -/
def contain (t : ETy) (x : Nat) : Nat := x % 2 ^ valWidth t

/-- The register `k` places into a group. -/
def vplus (v : VReg) (k : Nat) : VReg := v + BitVec.ofNat 5 k

/-- Two register groups neither coincide with one size nor are disjoint (R192). -/
def groupsClash (d : VReg) (gd : Nat) (a : VReg) (ga : Nat) : Bool :=
  let x := d.toNat
  let y := a.toNat
  decide (x < y + ga) && decide (y < x + gd) && !(x == y && gd == ga)

/-- ILLEGAL_OVERLAP where a source group overlaps the destination group otherwise than whole (R192). -/
def guardGroups (d : VReg) (gd : Nat) (srcs : List (VReg × Nat)) (s : State) (k : Out) : Out :=
  if srcs.any fun p => groupsClash d gd p.1 p.2 then s.issueTrap causeIllegalOverlap s.whereWord else k

/-- Writes the registers of a group in order, with the flags of each. -/
def State.wrGroup (s : State) (d : VReg) (f : Nat → VWord × Flags) : Nat → State
  | 0 => s
  | n + 1 => ((s.wrGroup d f n).wrV (vplus d n) (f n).1).raise (f n).2

/-- The second operand of a repeatable form: element 0 of vb under `.B`, else element `i` of register `k` (R191). -/
def operandB (t : ETy) (s : State) (b : VReg) (bc : Bool) (k i : Nat) : Nat :=
  if bc then velem t (s.rdV b) 0 else velem t (s.rdV (vplus b k)) i

/-- A repeatable element-wise form (R191): `op a b d` on every governed element of every register of the group. -/
def repeatForm (d a b : VReg) (t : ETy) (mk : MReg) (g : Grp) (bc : Bool) (op : Nat → Nat → Nat → Nat × Flags)
    (s : State) : Out :=
  guardGroups d g.size [(a, g.size), (b, if bc then 1 else g.size)] s <|
    .next (s.wrGroup d (fun k => vecMasked t (s.rdM mk) (s.rdV (vplus d k)) fun i =>
      op (velem t (s.rdV (vplus a k)) i) (operandB t s b bc k i) (velem t (s.rdV (vplus d k)) i)) g.size)

/-- A repeatable form with one operand (R191, R196). -/
def unaryForm (d a : VReg) (t : ETy) (mk : MReg) (g : Grp) (op : Nat → Nat × Flags) (s : State) : Out :=
  guardGroups d g.size [(a, g.size)] s <|
    .next (s.wrGroup d (fun k => vecMasked t (s.rdM mk) (s.rdV (vplus d k)) fun i =>
      op (velem t (s.rdV (vplus a k)) i)) g.size)

/-- An element-wise form on single registers: `op a b d`. -/
def plainForm (d a b : VReg) (t : ETy) (mk : MReg) (op : Nat → Nat → Nat → Nat × Flags) (s : State) : Out :=
  let r := vecMasked t (s.rdM mk) (s.rdV d) fun i =>
    op (velem t (s.rdV a) i) (velem t (s.rdV b) i) (velem t (s.rdV d) i)
  .next ((s.wrV d r.1).raise r.2)

/-- A mask register of n governed bits, the others clear (R190). -/
def maskOf (n : Nat) (f : Nat → Bool) : MWord :=
  BitVec.ofNat 1024 (packElems 1 (fun i => if f i then 1 else 0) n)

/-- The integer type of twice the width and the same signedness (R197). -/
def wideTy : ETy → ETy
  | .i4 => .i8
  | .n4 => .n8
  | .i8 => .i16
  | .n8 => .n16
  | .i16 => .i32
  | .n16 => .n32
  | t => t

/-- The wide type of a pack or unpack (R209). -/
def wideOf : XFac → ETy → ETy
  | .x2, t => wideTy t
  | .x4, t => wideTy (wideTy t)

/-- A widening result of factor g: source element `g*j + k` stands at element `j` of register vd + k (R193). The mask
governs the source element. -/
def widenForm (d : VReg) (t tw : ETy) (g : Nat) (mk : MWord) (op : Nat → Nat → Nat × Flags) (s : State) : State :=
  s.wrGroup d (fun k =>
    let old := s.rdV (vplus d k)
    let on (j : Nat) : Bool := mk.getLsbD (g * j + k)
    (vecOf tw fun j => if on j then (op (g * j + k) (velem tw old j)).1 else velem tw old j,
     orFlags (fun j => if on j then (op (g * j + k) (velem tw old j)).2 else 0) (t.count / g))) g

end Sys2Proof.Machine
end

