-- ==== Sys2Proof/Machine/Memory.lean ====
section
/-! DEFINITION. The memory space: loads and stores, scalar, vector, strided, indexed and by descriptor, prefetch,
accumulator parking and descriptor moves (R125 to R134, R146 to R148). -/

namespace Sys2Proof.Machine

/-! ### Scalar loads and stores (R131) -/

/-- A loaded value of n bytes extended to a word (R131). -/
def extendBytes (sx : Bool) (n : Nat) (bs : List Byte) : Word :=
  let v := BitVec.ofNat 64 (leNat bs)
  if sx then (v <<< (64 - 8 * n)).sshiftRight (64 - 8 * n) else v

/-- A scalar load from an address (R131). -/
def State.loadS (s : State) (i : Instr) (spc : Space) (a : Word) (d : SReg) (z : Size) (sx : Bool) : Out :=
  s.load i spc a (Size.bytes z) fun s bs => .next (s.wrS d (extendBytes sx (Size.bytes z) bs))

/-- A scalar store to an address (R131). -/
def State.storeS (s : State) (i : Instr) (spc : Space) (a : Word) (d : SReg) (z : Size) : Out :=
  s.store i spc a (bvBytes (Size.bytes z) (s.rdS d)) .next

/-- The address base + index, scaled by the size where asked (R131). -/
def eaMx (base ix : Word) (z : Size) (scl : Bool) : Word := base + (if scl then ix <<< z.code.toNat else ix)

/-- `LD` (R131). -/
def execLd (spc : Space) (d b : SReg) (z : Size) (x : Bool) (o : BitVec 8) (s : State) : Out :=
  s.loadS (.ld spc d b z x o) spc (eaMs (s.rdS b) z o) d z x
/-- `ST` (R131). -/
def execSt (spc : Space) (d b : SReg) (z : Size) (o : BitVec 8) (s : State) : Out :=
  checked (.st spc d b z o) s <| s.storeS (.st spc d b z o) spc (eaMs (s.rdS b) z o) d z
/-- `LDX` (R131). -/
def execLdx (spc : Space) (d b i : SReg) (z : Size) (x scl : Bool) (s : State) : Out :=
  s.loadS (.ldx spc d b i z x scl) spc (eaMx (s.rdS b) (s.rdS i) z scl) d z x
/-- `STX` (R131). -/
def execStx (spc : Space) (d b i : SReg) (z : Size) (scl : Bool) (s : State) : Out :=
  checked (.stx spc d b i z scl) s <| s.storeS (.stx spc d b i z scl) spc (eaMx (s.rdS b) (s.rdS i) z scl) d z

/-! ### Whole vector registers (R132) -/

/-- A vector register of 512 bytes, byte j at bits 8j up. -/
def vecOfBytes (bs : List Byte) : VWord := BitVec.ofNat 4096 (leNat bs)

/-- `VLD` (R132). -/
def execVld (spc : Space) (d : VReg) (b : SReg) (o : BitVec 11) (s : State) : Out :=
  let a := eaM (s.rdS b) o
  aligned 64 a s <| s.load (.vld spc d b o) spc a 512 fun s bs => .next (s.wrV d (vecOfBytes bs))
/-- `VST` (R132). -/
def execVst (spc : Space) (d : VReg) (b : SReg) (o : BitVec 11) (s : State) : Out :=
  checked (.vst spc d b o) s <|
  let a := eaM (s.rdS b) o
  aligned 64 a s <| s.store (.vst spc d b o) spc a (bvBytes 512 (s.rdV d)) .next

/-! ### Strided and indexed elements (R133) -/

/-- The elements a mask governs among n. -/
def governedIdx (mk : MWord) (n : Nat) : List Nat := (List.range n).filter fun i => mk.getLsbD i

/-- A guard on element addresses: MISALIGN with the first that is not a multiple of `n` (R127). -/
def alignedAll (n : Nat) (as' : List Word) (s : State) (k : Out) : Out :=
  match as'.find? fun a => a.toNat % n != 0 with
  | some a => s.issueTrap causeMisalign a
  | none => k

/-- A register of the elements loaded, of `es` bytes each; the others zero (R133). -/
def vecOfElems (es : Nat) (on : List Nat) (bss : List (List Byte)) : VWord :=
  BitVec.ofNat 4096 ((on.zip bss).foldl (fun x p => x ||| leNat p.2 <<< (8 * es * p.1)) 0)

/-- A masked load of elements of `es` bytes (R133). -/
def State.loadElems (s : State) (i : Instr) (spc : Space) (d : VReg) (es : Nat) (mk : MWord) (addr : Nat → Word) : Out :=
  let on := governedIdx mk (512 / es)
  let as' := on.map addr
  alignedAll es as' s <|
    s.loadAll i spc (as'.map fun a => (a, es)) fun s bss => .next (s.wrV d (vecOfElems es on bss))

/-- A masked store of elements of `es` bytes, ascending (R133). -/
def State.storeElems (s : State) (i : Instr) (spc : Space) (d : VReg) (es : Nat) (mk : MWord) (addr : Nat → Word) : Out :=
  let on := governedIdx mk (512 / es)
  let x := (s.rdV d).toNat
  alignedAll es (on.map addr) s <|
    s.storeAll i spc (on.map fun k => (addr k, leBytes es (elemOf (8 * es) x k))) .next

/-- The mask `m0` to `m3` a two-bit field names. -/
def State.rdM4 (s : State) (mk : BitVec 2) : MWord := s.rdM (mk.zeroExtend 3)

/-- The address of a strided element (R133). -/
def strideAt (base step : Word) (k : Nat) : Word := base + BitVec.ofNat 64 k * step

/-- The address of an indexed element (R133). -/
def indexAt (base : Word) (ix : VWord) (es : Nat) (scl : Bool) (k : Nat) : Word :=
  let i : Word := (BitVec.ofNat 32 (elemOf 32 ix.toNat k)).signExtend 64
  base + (if scl then i * BitVec.ofNat 64 es else i)

/-- `VLDS` (R133). -/
def execVlds (spc : Space) (d : VReg) (b i : SReg) (z : Size) (mk : BitVec 2) (s : State) : Out :=
  s.loadElems (.vlds spc d b i z mk) spc d (Size.bytes z) (s.rdM4 mk) (strideAt (s.rdS b) (s.rdS i))
/-- `VSTS` (R133). -/
def execVsts (spc : Space) (d : VReg) (b i : SReg) (z : Size) (mk : BitVec 2) (s : State) : Out :=
  checked (.vsts spc d b i z mk) s <|
    s.storeElems (.vsts spc d b i z mk) spc d (Size.bytes z) (s.rdM4 mk) (strideAt (s.rdS b) (s.rdS i))
/-- `VLDX` (R133). -/
def execVldx (spc : Space) (d : VReg) (b : SReg) (i : VReg) (z : Size) (scl : Bool) (mk : BitVec 2) (s : State) : Out :=
  checked (.vldx spc d b i z scl mk) s <|
    s.loadElems (.vldx spc d b i z scl mk) spc d (Size.bytes z) (s.rdM4 mk) (indexAt (s.rdS b) (s.rdV i) (Size.bytes z) scl)
/-- `VSTX` (R133). -/
def execVstx (spc : Space) (d : VReg) (b : SReg) (i : VReg) (z : Size) (scl : Bool) (mk : BitVec 2) (s : State) : Out :=
  checked (.vstx spc d b i z scl mk) s <|
    s.storeElems (.vstx spc d b i z scl mk) spc d (Size.bytes z) (s.rdM4 mk) (indexAt (s.rdS b) (s.rdV i) (Size.bytes z) scl)

/-! ### Descriptor streams (R134) -/

/-- The elements a descriptor stream moves: the register element, and its number in the tensor (R134). -/
def streamElems (d : Desc) (e : Word) (mk : MWord) : List (Nat × Nat) :=
  ((governedIdx mk (4096 / dBits d)).map fun i => (i, e.toNat + i)).filter fun p => decide (p.2 < dTotal d)

/-- The descriptor may stream to or from vector registers (R101, R134). -/
def streamOk (d : Desc) (writes : Bool) : Bool := dOk d false writes && (dSx d).isNone

/-- The value of a stream element from the bytes at its address: a sub-byte element stands at its bit (R99). -/
def streamValue (d : Desc) (k : Nat) (bs : List Byte) : Nat :=
  leNat bs >>> dBitOff d (dIndex d k).1 % 2 ^ dBits d

/-- `VLDD` (R134). -/
def execVldd (d : VReg) (k : DReg) (i : SReg) (mk : MReg) (s : State) : Out :=
  let x := s.rdD k
  if !streamOk x false then s.illegal
  else
    let es := streamElems x (s.rdS i) (s.rdM mk)
    s.loadAll (.vldd d k i mk) (dSpc x) (es.map fun p => (dAt x p.2, (dBits x + 7) / 8)) fun s bss =>
      .next (s.wrV d (BitVec.ofNat 4096 ((es.zip bss).foldl (fun v p =>
        v ||| streamValue x p.1.2 p.2 <<< (dBits x * p.1.1)) 0)))

/-- The patch that replaces `n` bits from bit `o` of a byte. -/
def bitPatch (o n v : Nat) : Patch := ⟨BitVec.ofNat 8 ((2 ^ n - 1) <<< o), BitVec.ofNat 8 (v <<< o)⟩

/-- A byte with `n` bits from bit `o` replaced. -/
def setBits (b : Byte) (o n v : Nat) : Byte := (bitPatch o n v).on b

/-- A sub-byte element written into its byte of a scratchpad; the other bits keep their value (R134). -/
def State.putBitsSp (s : State) (a : Word) (o n v : Nat) : State :=
  s.spStore s.cur s.ctxn a.toNat [setBits ((s.spRead s.cur s.ctxn false a.toNat 1).headD 0) o n v]

/-- A store of 4-bit elements, each changing its nibble, in ascending order (R134). -/
def State.storeNibbles (s : State) (i : Instr) (x : Desc) (es : List (Nat × Nat)) (v : Nat) : Out :=
  let at' (p : Nat × Nat) : Word := dAt x p.2
  let off (p : Nat × Nat) : Nat := dBitOff x (dIndex x p.2).1
  let val (p : Nat × Nat) : Nat := elemOf (dBits x) v p.1
  let lens := es.map fun p => (at' p, 1)
  s.frameGuard (dSpc x) lens <|
  match dSpc x with
  | .sp =>
    if lens.any fun e => s.spWaits s.cur s.ctxn e.1.toNat e.2 then s.hold
    else s.orderGuard i (writesOf .sp lens) <| .next
      (es.foldl (fun s p => s.putBitsSp (at' p) (off p) (dBits x) (val p)) (s.offendIf s.cur true (s.lowestBad s.ctxn lens)))
  | _ =>
    match lens.find? fun e => !canonicalRange e.1 e.2 with
    | some e => s.issueTrap causeProt e.1
    | none =>
      s.orderGuard i (writesOf .g lens) <| match State.planAll s.cur s.ctxn .write false s lens with
      | .error (.park va m) => s.parkAccess i (writesOf .g lens) va .write m
      | .error (.prot va) => .next (s.execTrap causeProt (va.signExtend 64) 0)
      | .ok (s1, ls) => .next (s1.gSend s1.cur s1.ctxn none
        ((es.zip ls).map fun p => (p.2, [bitPatch (off p.1) (dBits x) (val p.1)])))

/-- `VSTD` (R134). -/
def execVstd (d : VReg) (k : DReg) (i : SReg) (mk : MReg) (s : State) : Out :=
  let x := s.rdD k
  if !streamOk x true then s.illegal
  else
    let es := streamElems x (s.rdS i) (s.rdM mk)
    let v := (s.rdV d).toNat
    if dBits x < 8 then s.storeNibbles (.vstd d k i mk) x es v
    else
      s.storeAll (.vstd d k i mk) (dSpc x) (es.map fun p => (dAt x p.2, leBytes (dBits x / 8) (elemOf (dBits x) v p.1))) .next

/-! ### Prefetch (R146) -/

/-- `PREF`: the line comes into the cache of the die, and for `.L1` into the L1, where a load could have brought it; otherwise
nothing happens (R146). -/
def execPref (spc : Space) (dc : Bool) (b : SReg) (o : BitVec 11) (s : State) : Out :=
  checked (.pref spc dc b o) s <|
  let a := eaM (s.rdS b) o
  if !canonical a then .next s
  else
    match s.gPlan s.cur s.ctxn .read true [(a.extractLsb' 0 48, 1)] with
    | .ok (s1, l) =>
      match l with
      | [(_, _, .mem pa)] => .next (if (s1.gPoisoned l).isSome then s else if dc then s1.fillDie (dieOf s1.cur) pa
          else (s1.gFetch s1.cur s1.ctxn true false State.ctlBytes l).1)
      | _ => .next s
    | .error _ => .next s

/-! ### Accumulator parking (R147) -/

/-- Bit k of an 8-bit map set or cleared. -/
def setMap (m : BitVec 8) (k : BitVec 3) (b : Bool) : BitVec 8 :=
  if b then m ||| (1#8 <<< k.toNat) else m &&& ~~~(1#8 <<< k.toNat)

/-- The poisoned entry of row-major order that slot j of an accumulator tile touches, if any (R147, R391). -/
def Tile.slotPoison (x : Tile) (c : AccReg) (j : BitVec 6) : Option Nat :=
  x.accPoison.find? fun e => e / 4096 == c.toNat && decide (512 * j.toNat < 7 * (e % 4096) + 7) &&
    decide (7 * (e % 4096) < 512 * j.toNat + 512)

/-- `VPARK` (R147). -/
def execVpark (d : VReg) (j : BitVec 6) (c : AccReg) (s : State) : Out :=
  checked (.vpark d j c) s <|
  let old := s.src.getC c
  let m : AccWord := (BitVec.ofNat 229376 (2 ^ 4096 - 1)) <<< (4096 * j.toNat)
  let new := (old &&& ~~~m) ||| ((s.rdV d).zeroExtend 229376 <<< (4096 * j.toNat))
  .next ((s.modRegs (·.setC c new)).modT fun x =>
    { x with mx := { x.mx with spill := setMap x.mx.spill c true, written := setMap x.mx.written c true } })

/-- `VUNPARK`: with `.REL` the spill bit is cleared (R147). -/
def execVunpark (d : VReg) (rel : Bool) (j : BitVec 6) (c : AccReg) (s : State) : Out :=
  checked (.vunpark d rel j c) s <|
  let s1 := if rel then s.modT fun x => { x with mx := { x.mx with spill := setMap x.mx.spill c false } } else s
  match s.t.slotPoison c j with
  | some e => .next (s.execTrap causeEccUncorr (BitVec.ofNat 64 (e / 4096 + 256 * (e % 4096 / 64))) 2)
  | none => .next (s1.wrV d ((s.src.getC c).extractLsb' (4096 * j.toNat) 4096))

/-! ### Descriptor moves (R148) -/

/-- `DSET`, field form (R148). -/
def execDset (d : SReg) (k : DReg) (f : BitVec 6) (s : State) : Out :=
  checked (.dset d k f) s <| .next (s.wrD k (dSet (s.rdD k) f.toNat (s.rdS d)))
/-- `DGET`, field form (R148). -/
def execDget (d : SReg) (k : DReg) (f : BitVec 6) (s : State) : Out :=
  checked (.dget d k f) s <| .next (s.wrS d (dGet (s.rdD k) f.toNat))
/-- `DSET.IMG` (R148). -/
def execDsetImg (spc : Space) (d : SReg) (k : DReg) (s : State) : Out :=
  aligned 32 (s.rdS d) s <|
    s.load (.dsetImg spc d k) spc (s.rdS d) 32 fun s bs => .next (s.wrD k (BitVec.ofNat 256 (leNat bs)))
/-- `DGET.IMG` (R148). -/
def execDgetImg (spc : Space) (d : SReg) (k : DReg) (s : State) : Out :=
  checked (.dgetImg spc d k) s <|
  aligned 32 (s.rdS d) s <| s.store (.dgetImg spc d k) spc (s.rdS d) (bvBytes 32 (s.rdD k)) .next

end Sys2Proof.Machine
end

