-- ==== Sys2Proof/Machine/Tags.lean ====
section
/-! DEFINITION. Full/empty tags: the waiting forms, the order in which waiters are served, their watchdog, and the range
operations (R91, R92, R135, R136). -/

namespace Sys2Proof.Machine

/-- The edges of R111 at a scope out of the current task: its earlier writes, and those it has seen, performed at the scope's
point (R111, R112). -/
def State.releaseEdge (s : State) (sc : Scope) : State := s.releaseAt s.cur sc

/-- The edges of R111 at a scope into the task on a tile (R109, R115). -/
def State.acquireEdge (s : State) (t : TileIx) (sc : Scope) : State :=
  s.acquireAt t (s.ctx (s.tile t).regs.ctl.ctxn).asid sc

/-- The current task has accesses, or writes to the control region, still to be performed: an edge of R111 waits for them
(R108, R112). -/
def State.edgeWaits (s : State) : Bool := s.t.ctlPending || !s.t.quiet

/-- A full/empty access: the tile and context it comes from, its address and bytes, and whether it waits for full words. -/
structure FeReq where
  tile : TileIx
  ctx : CtxNo
  addr : Word
  bytes : Nat
  full : Bool
deriving DecidableEq, Repr

/-- The full/empty access of an instruction of tile t with the registers it reads (R135). -/
def feReq (t : TileIx) (r : Regs) : Instr → Option FeReq
  | .ldfe _ _ b z o => some ⟨t, r.ctl.ctxn, eaMs (r.getS b) z o, Size.bytes z, true⟩
  | .ldfec _ _ b z o => some ⟨t, r.ctl.ctxn, eaMs (r.getS b) z o, Size.bytes z, true⟩
  | .stfe _ _ b z o => some ⟨t, r.ctl.ctxn, eaMs (r.getS b) z o, Size.bytes z, false⟩
  | .ldfeV _ _ b z o => some ⟨t, r.ctl.ctxn, eaMs (r.getS b) z o, 512, true⟩
  | .ldfecV _ _ b z o => some ⟨t, r.ctl.ctxn, eaMs (r.getS b) z o, 512, true⟩
  | .stfeV _ _ b z o => some ⟨t, r.ctl.ctxn, eaMs (r.getS b) z o, 512, false⟩
  | _ => none

/-- The address of the first word of an access. -/
def FeReq.base (q : FeReq) : Nat := q.addr.toNat / 8 * 8
/-- The number of words of an access. -/
def FeReq.words (q : FeReq) : Nat := if q.bytes = 512 then 64 else 1

/-- The words of an access: home tile and offset of each; none for an offending word (R87, R88). -/
def State.feWords (s : State) (q : FeReq) : TileIx × List (Option Nat) :=
  let p := s.spLocs q.tile q.ctx q.base (8 * q.words)
  (p.1, (List.range q.words).map fun j => (p.2.getD (8 * j) none))

/-- A word satisfies the wait of an access; an offending word always does (R135). -/
def State.feWordOk (s : State) (q : FeReq) (h : TileIx) (o : Option Nat) : Bool :=
  match o with
  | none => true
  | some off => (s.tile h).tagFull off == q.full

/-- Every word of an access satisfies its wait (R91, R135). -/
def State.feReady (s : State) (q : FeReq) : Bool :=
  let w := s.feWords q
  w.2.all (s.feWordOk q w.1)

/-- Two accesses share a word. -/
def State.feShare (s : State) (a b : FeReq) : Bool :=
  let x := s.feWords a
  let y := s.feWords b
  x.1 == y.1 && x.2.any fun o => o.isSome && y.2.contains o

/-- The access a tile waits for, and its order of arrival; a task that the Peat flip-flops hold has withdrawn its wait
(R396), and so has a member that has stopped for the pre-emption of its gang (R264). -/
def Tile.feWait (x : Tile) (t : TileIx) : Option (FeReq × Nat) :=
  x.wait.bind fun w => if x.waiting w then (feReq t w.src w.instr).map fun q => (q, w.arrived) else none

/-- An earlier waiter on a word of the access could be served now (R92). -/
def State.feBehind (s : State) (q : FeReq) (before : Option Nat) : Bool :=
  allTiles.any fun u => match (s.tile u).feWait u with
    | none => false
    | some (p, n) => (before.all fun b => decide (n < b)) && s.feReady p && s.feShare p q

/-- The first word that still keeps an access waiting, by its address (R373). -/
def State.feFirst (s : State) (q : FeReq) : Nat :=
  let w := s.feWords q
  match (List.range q.words).find? fun j => !s.feWordOk q w.1 (w.2.getD j none) with
  | some j => q.base + 8 * j
  | none => q.base

/-- The tags of the words of an access set empty. -/
def State.feEmpty (s : State) (q : FeReq) : State :=
  let w := s.feWords q
  s.modTile w.1 fun x => (w.2.filterMap id).foldl (fun x off => x.setTag false off) x

/-- A full/empty access carried out for the task on a tile, its words being ready: `i` is its instruction, `r` the
registers it reads, and `put` writes the destination (R91, R135). -/
def State.feDo (s : State) (i : Instr) (r : Regs) (q : FeReq) (put : (Regs → Regs) → State → State)
    (fail : State → Nat → Out) : Out :=
  let bad := s.spBad q.tile q.ctx q.addr.toNat q.bytes
  match (if q.full then s.spPoisoned q.tile q.ctx q.addr.toNat q.bytes else none) with
  | some a => fail (s.offendIf q.tile false bad) a
  | none =>
    let bs := s.spRead q.tile q.ctx true q.addr.toNat q.bytes
    let v := BitVec.ofNat 64 (leNat bs)
    let rel (s : State) : State := s.releaseAt q.tile .cluster
    match i with
    | .ldfe _ d _ _ _ => .next (put (·.setS d v) ((s.offendIf q.tile false bad).acquireEdge q.tile .cluster))
    | .ldfeV _ d _ _ _ => .next (put (·.setV d (vecOfBytes bs)) ((s.offendIf q.tile false bad).acquireEdge q.tile .cluster))
    | .ldfec _ d _ _ _ => .next (put (·.setS d v) (((rel (s.offendIf q.tile false bad)).feEmpty q).acquireEdge q.tile .cluster))
    | .ldfecV _ d _ _ _ =>
      .next (put (·.setV d (vecOfBytes bs)) (((rel (s.offendIf q.tile false bad)).feEmpty q).acquireEdge q.tile .cluster))
    | .stfe _ d _ z _ =>
      let bytes := bvBytes (Size.bytes z) (r.getS d)
      .next (put id (((rel (s.offendIf q.tile true bad)).spStore q.tile q.ctx q.addr.toNat bytes).acquireEdge q.tile .cluster))
    | .stfeV _ d _ _ _ =>
      let bytes := bvBytes 512 (r.getV d)
      .next (put id (((rel (s.offendIf q.tile true bad)).spStore q.tile q.ctx q.addr.toNat bytes).acquireEdge q.tile .cluster))
    | _ => .next s

/-- The forms that change a tag or bytes, which a quorum member may do only in its frame (R129). -/
def feWrites : Instr → Bool
  | .ldfe .. | .ldfeV .. => false
  | _ => true

/-- The memory of a full/empty access and its edges: each acquires at CLUSTER scope, and one that changes a tag or bytes
releases (R111, R135). -/
def FeReq.mem (q : FeReq) (i : Instr) : MemAcc :=
  ⟨[(.sp, BitVec.ofNat 64 q.base, 8 * q.words)], q.full, feWrites i, true, feWrites i⟩

/-- The meaning of a full/empty form: carried out at once where its words are ready, else the task waits (R92, R135). -/
def State.feForm (s : State) (i : Instr) (align : Nat) : Out :=
  match feReq s.cur s.src i with
  | none => .next s
  | some q =>
    aligned align q.addr s <|
    (if feWrites i then s.frameGuard .sp [(BitVec.ofNat 64 q.base, 8 * q.words)] else id) <|
    if s.spWaits s.cur q.ctx q.base (8 * q.words) then s.hold
    else if s.mustWait (q.mem i) || (feWrites i && s.t.ctlPending) then s.later i (q.mem i)
    else if s.feReady q && !s.feBehind q none then
      s.feDo i s.src q (fun f s => s.modRegs f) fun s a => .next (s.execTrap causeEccUncorr (BitVec.ofNat 64 a) 0)
    else .next (s.waitFor i s.t.view.fewdog.toNat (q.mem i))

/-- `LDFE` (R135). -/
def execLdfe (spc : Space) (d b : SReg) (z : Size) (o : BitVec 8) (s : State) : Out :=
  checked (.ldfe spc d b z o) s <| s.feForm (.ldfe spc d b z o) (Size.bytes z)
/-- `LDFE.V` (R135). -/
def execLdfeV (spc : Space) (d : VReg) (b : SReg) (z : Size) (o : BitVec 8) (s : State) : Out :=
  checked (.ldfeV spc d b z o) s <| s.feForm (.ldfeV spc d b z o) 64
/-- `LDFEC` (R135). -/
def execLdfec (spc : Space) (d b : SReg) (z : Size) (o : BitVec 8) (s : State) : Out :=
  checked (.ldfec spc d b z o) s <| s.feForm (.ldfec spc d b z o) (Size.bytes z)
/-- `LDFEC.V` (R135). -/
def execLdfecV (spc : Space) (d : VReg) (b : SReg) (z : Size) (o : BitVec 8) (s : State) : Out :=
  checked (.ldfecV spc d b z o) s <| s.feForm (.ldfecV spc d b z o) 64
/-- `STFE` (R135). -/
def execStfe (spc : Space) (d b : SReg) (z : Size) (o : BitVec 8) (s : State) : Out :=
  checked (.stfe spc d b z o) s <| s.feForm (.stfe spc d b z o) (Size.bytes z)
/-- `STFE.V` (R135). -/
def execStfeV (spc : Space) (d : VReg) (b : SReg) (z : Size) (o : BitVec 8) (s : State) : Out :=
  checked (.stfeV spc d b z o) s <| s.feForm (.stfeV spc d b z o) 64

/-! ### The end of a wait -/

/-- FE_TAG_OPERATION: a waiting full/empty access of a tile is served, once its words are ready and no earlier waiter on
one of them is (R92). -/
def execFeTagOperation (t : TileIx) (s : State) : Out :=
  match (s.tile t).wait, (s.tile t).feWait t with
  | some w, some (q, n) =>
    if s.phase == .up && s.feReady q && !s.feBehind q (some n) then
      s.feDo w.instr w.src q (fun f s => (s.modTile t fun x => { x with regs := f x.regs }).endWait t w)
        fun s a => .next (s.waitTrap t w causeEccUncorr (BitVec.ofNat 64 a) 0)
    else .next s
  | _, _ => .next s

/-- FE_TIMEOUT: a full/empty wait has reached the watchdog; no tag changes (R92). -/
def execFeTimeout (t : TileIx) (s : State) : Out :=
  match (s.tile t).wait, (s.tile t).feWait t with
  | some w, some (q, _) =>
    if s.phase == .up && w.leftNs = 0 && !(s.tile t).killDue then
      .next (s.waitTrap t w causeFeTimeout (BitVec.ofNat 64 (s.feFirst q)) 0)
    else .next s
  | _, _ => .next s

/-! ### Ranges of tags (R136) -/

/-- How many words of a range of `c` words can matter: a scratchpad has 2^18, and a further one is the first that passes its
end (R87). -/
def tagCount (c : Word) : Nat := min c.toNat (2 ^ 18 + 1)

/-- Where the words of a range of n from address `a` lie: the tile and the offset of each; none for an offending word. The
range is one access, so its words never pass into another tile (R87, R88). -/
def State.tagLocs (s : State) (a : Word) (n : Nat) : TileIx × List (Option Nat) :=
  match spHome s.cur a.toNat with
  | none => (s.cur, List.replicate n none)
  | some h => (h, (List.range n).map fun j =>
      let off := a.toNat % 2 ^ 21 + 8 * j
      if off < 2 ^ 21 && (s.tile h).owns s.ctxn off then some off else none)

/-- The first offending word of a range, by its address (R88). -/
def firstBadWord (a : Word) (l : List (Option Nat)) : Option Word :=
  (l.findIdx? (·.isNone)).map fun j => a + BitVec.ofNat 64 (8 * j)

/-- `FESET` and `FECLR` (R136). -/
def State.tagForm (s : State) (full : Bool) (a c : Word) : Out :=
  let n := tagCount c
  let p := s.tagLocs a n
  aligned 8 a s <|
  s.frameGuard .sp ((List.range n).map fun j => (a + BitVec.ofNat 64 (8 * j), 8)) <|
  if (p.2.any fun o => match o with
      | none => false
      | some off => (s.tile p.1).zeroing s.ctxn off) || s.edgeWaits then s.hold
  else
    let s1 := (s.releaseEdge .cluster).offendIf s.cur true (firstBadWord a p.2)
    .next (s1.modTile p.1 fun x => p.2.foldl (fun x o => match o with
      | none => x
      | some off => x.setTag full off) x)

/-- `FESET` (R136). -/
def execFeset (spc : Space) (b i : SReg) (s : State) : Out :=
  checked (.feset spc b i) s <| s.tagForm true (s.rdS b) (s.rdS i)
/-- `FECLR` (R136). -/
def execFeclr (spc : Space) (b i : SReg) (s : State) : Out :=
  checked (.feclr spc b i) s <| s.tagForm false (s.rdS b) (s.rdS i)

end Sys2Proof.Machine
end

