-- ==== Sys2Proof/Machine/Engines.lean ====
section
/-! DEFINITION. The engine queues: issuing a command, waiting on a timeline and asking for the state of a queue (R149 to
R158), with the checks at issue of the copies, streams, slab commands and collectives (R159 to R168). -/

namespace Sys2Proof.Machine

/-! ### Issue (R149 to R151, R158) -/

/-- A command enters its queue under the next COUNT; a full queue holds the bundle (R149, R150). -/
def State.enqueueCmd (s : State) (q : QueueId) (i : Instr) (tk : SReg) (da db : Desc) (w0 w1 : Word) : Out :=
  let x := s.t
  if 16 ≤ (x.queue q).cmds.length then s.hold
  else
    let c : EngCmd :=
      { instr := i, da := da, db := db, s0 := w0, s1 := w1, token := tk, count := (x.queue q).last + 1,
        order := s.nextOrder, task := (x.run.map (·.record.task)).getD 0, live := true, cancelled := false,
        ctx := s.ctxn, hnd := s.src.ctl.hnd, started := false, reached := 0, leftNs := 0, result := none, parked := false, buf := none, scaled := 0, kv := none }
    .next { s.modT fun x => x.modQueue q fun k => { k with cmds := k.cmds ++ [c], last := c.count } with
      nextOrder := s.nextOrder + 1 }

/-- The elements a copy writes at its destination: each with its bytes, and the scale bytes of each block where both sides
name an SX format (R158). -/
def copyTargets (da db : Desc) : List (Word × Nat) :=
  let els := (List.range (dTotal da)).map fun k => (dAt da k, (dBits da + 7) / 8)
  match dSx da, dSx db with
  | some f, some _ =>
    els ++ (List.range (dTotal da / 16)).map fun b =>
      let i := dIndex da (16 * b)
      (dScaleAddr da f (dLinear da i.1 i.2.1 i.2.2.1 i.2.2.2), 2)
  | _, _ => els

/-- The descriptors of a copy pass R101 and the checks of R158. -/
def copyOk (da db : Desc) : Bool :=
  dOk da false true && dOk db false false && dBits da == dBits db && dTotal da == dTotal db &&
  !(dFk da && dFk db && dFmt da != dFmt db)

/-- QUORUM_UNSAFE for a command whose destination lies outside the member's frame (R155). -/
def State.engineFrame (s : State) (da : Desc) (els : List (Word × Nat)) (k : Out) : Out := s.frameGuard (dSpc da) els k

/-- QUORUM_UNSAFE for a command a member may not issue (R155). -/
def State.notMember (s : State) (k : Out) : Out := if s.member then s.issueTrap causeQuorumUnsafe 0 else k

/-- `CPY` (R159). -/
def execCpy (tk : SReg) (da db : DReg) (s : State) : Out :=
  let x := s.rdD da
  let y := s.rdD db
  if !copyOk x y then s.illegal
  else s.engineFrame x (if s.member then copyTargets x y else []) <|
    s.enqueueCmd .cpy (.cpy tk da db) tk x y 0 0

/-- `CPY.PEER`: the destination is in G, outside every member frame (R155, R159). -/
def execCpyPeer (tk : SReg) (da db : DReg) (a : SReg) (s : State) : Out :=
  let x := s.rdD da
  let y := s.rdD db
  if !copyOk x y || dSpace x != 1 then s.illegal
  else s.engineFrame x (if s.member then copyTargets x y else []) <| s.enqueueCmd .cpy (.cpyPeer tk da db a) tk x y (s.rdS a) 0

/-- The tile a bit of a `CPYM` mask names. -/
def maskTile (t : TileIx) (i : Nat) : TileIx := tileOf (clusterOf t) (BitVec.ofNat 3 i)

/-- The tiles a `CPYM` writes: the system tile only for context 0 (R9, R160). -/
def maskTiles (t : TileIx) (c : CtxNo) (m : Word) : List TileIx :=
  ((List.range 8).filter fun i => m.getLsbD i && (c == 0 || !isSystemTile (maskTile t i))).map (maskTile t)

/-- An own-tile scratchpad address as the cluster window names it on a tile; a malformed address stays so (R87, R160). -/
def windowAddr (t : TileIx) (a : Word) : Word :=
  if a.toNat < 2 ^ 21 then a ||| 0x4000000 ||| ((t.extractLsb' 0 3).zeroExtend 64 <<< (21 : Nat)) else a

/-- `CPYM` (R160). -/
def execCpym (tk : SReg) (da db : DReg) (a : SReg) (s : State) : Out :=
  let x := s.rdD da
  let y := s.rdD db
  let m := s.rdS a
  if !copyOk x y || dSpace x != 0 || (dBase x).getLsbD 26 || m.extractLsb' 8 56 != 0 then s.illegal
  else
    let els := if s.member then
        (maskTiles s.cur s.ctxn m).flatMap fun t => (copyTargets x y).map fun e => (windowAddr t e.1, e.2)
      else []
    s.engineFrame x els <| s.enqueueCmd .cpy (.cpym tk da db a) tk x y m 0

/-- The issue of `STRM` and `STRM.TAG` (R161). -/
def State.stream (s : State) (i : Instr) (tk : SReg) (da db : DReg) : Out :=
  let x := s.rdD da
  let y := s.rdD db
  if !copyOk x y || dSpace x != 0 then s.illegal
  else s.engineFrame x (if s.member then copyTargets x y else []) <| s.enqueueCmd .strm i tk x y 0 0

/-- `STRM` (R161). -/
def execStrm (tk : SReg) (da db : DReg) (s : State) : Out := s.stream (.strm tk da db) tk da db
/-- `STRM.TAG` (R161). -/
def execStrmTag (tk : SReg) (da db : DReg) (s : State) : Out := s.stream (.strmTag tk da db) tk da db

/-! ### Slab commands (R162 to R166) -/

/-- The conditions of R162 on a descriptor of rows. -/
def rowsOk (d : Desc) : Bool :=
  (dBase d).extractLsb' 0 10 == 0 && dStride d 1 % 1024 == 0 && dWrap d % 1024 == 0

/-- The row count of a `GATH` or `KVPUT`. -/
def rowCount (w : Word) : Nat := (w.extractLsb' 32 16).toNat

/-- The address of row j (R99, R162). -/
def rowAt (d : Desc) (j : Nat) : Word := dAddr d 0 j 0 0

/-- The qualifiers `.DATA` and `.FAULT` of a `GATH`. -/
def gathFlags : Instr → Bool × Bool
  | .gath _ _ _ dat flt => (dat, flt)
  | .gathList _ _ _ _ dat flt => (dat, flt)
  | _ => (false, false)

/-- The odd register of an even pair. -/
def pairHi (a : SReg) : SReg := a ||| 1

/-- The issue of the forms of `GATH`: a member's frame holds every byte that the destination descriptor can address, and
every row (R155, R158, R162). -/
def State.gather (s : State) (i : Instr) (tk : SReg) (da : DReg) (db : Option DReg) (a : SReg) (dat : Bool) : Out :=
  let x := s.rdD da
  let y := match db with
    | none => 0
    | some d => s.rdD d
  let m := rowCount (s.rdS (pairHi a))
  checked i s <|
  if !dOk x false true || dSpace x != 0 || !rowsOk x || m == 0 || decide (64 < m) || (db.isSome && !dOk y false false) then s.illegal
  else
    let named := (List.range (dTotal x)).map fun k => (dAt x k, (dBits x + 7) / 8)
    s.engineFrame x (if s.member then named ++ (List.range m).map fun j => (rowAt x j, if dat then 1008 else 1024) else []) <|
    s.enqueueCmd .gath i tk x y (s.rdS a) (s.rdS (pairHi a))

/-- `GATH` (R162). -/
def execGath (tk : SReg) (da : DReg) (a : SReg) (dat flt : Bool) (s : State) : Out :=
  s.gather (.gath tk da a dat flt) tk da none a dat
/-- `GATH.LIST` (R162). -/
def execGathList (tk : SReg) (da db : DReg) (a : SReg) (dat flt : Bool) (s : State) : Out :=
  s.gather (.gathList tk da db a dat flt) tk da (some db) a dat

/-- `KVPUT` (R163). -/
def execKvput (tk : SReg) (db : DReg) (a : SReg) (s : State) : Out :=
  let y := s.rdD db
  let m := rowCount (s.rdS (pairHi a))
  checked (.kvput tk db a) s <|
  if !dOk y false false || dSpace y == 2 || !rowsOk y || m == 0 || decide (64 < m) then s.illegal
  else s.notMember <| s.enqueueCmd .gath (.kvput tk db a) tk 0 y (s.rdS a) (s.rdS (pairHi a))

/-- `KVALLOC` (R164). -/
def execKvalloc (tk a : SReg) (s : State) : Out :=
  if (s.rdS a).extractLsb' 6 58 != 0 then s.illegal
  else s.notMember <| s.enqueueCmd .gath (.kvalloc tk a) tk 0 0 (s.rdS a) 0
/-- `KVGROW` (R165). -/
def execKvgrow (tk a : SReg) (s : State) : Out := s.notMember <| s.enqueueCmd .cpy (.kvgrow tk a) tk 0 0 (s.rdS a) 0
/-- `KVFREE` (R166). -/
def execKvfree (tk a : SReg) (s : State) : Out := s.notMember <| s.enqueueCmd .gath (.kvfree tk a) tk 0 0 (s.rdS a) 0

/-! ### Collectives (R168) -/

/-- RANK, N, LEVEL and TAG of a group word (R168). -/
def collRank (w : Word) : Nat := (w.extractLsb' 16 8).toNat
def collN (w : Word) : Nat := (w.extractLsb' 8 8).toNat
def collLevel (w : Word) : Nat := (w.extractLsb' 0 3).toNat
def collTag (w : Word) : BitVec 32 := w.extractLsb' 24 32

/-- The group word is legal (R168). -/
def collOk (w : Word) : Bool :=
  w.extractLsb' 56 8 == 0 && w.extractLsb' 3 5 == 0 && decide (1 ≤ collLevel w) && decide (collLevel w ≤ 4) &&
  decide (2 ≤ collN w) && decide (collN w ≤ 64) && decide (collRank w < collN w)

/-- The types that a reducing collective accepts (R168). -/
def collTy : ETy → Bool
  | .i32 | .n32 | .f16 | .bf16 | .f32 => true
  | _ => false

/-- The collective reduces. -/
def CollOp.reduces : CollOp → Bool
  | .bcast | .gather => false
  | _ => true

/-- `COLL` (R168). The formats come from FK = 0 descriptors; a descriptor with FK = 1 is ILLEGAL_OP here, the model's choice
(log entry 90). -/
def execColl (tk : SReg) (da db : DReg) (a : SReg) (o : CollOp) (s : State) : Out :=
  let x := s.rdD da
  let y := s.rdD db
  let tyOk := match ETy.ofCode (dFmt y) with
    | some t => !CollOp.reduces o || collTy t
    | none => false
  if !dOk x false true || !dOk y false false || dFk x || dFk y || dSpace y == 2 || !tyOk || !collOk (s.rdS a) then s.illegal
  else s.notMember <| s.enqueueCmd .coll (.coll tk da db a o) tk x y (s.rdS a) 0

/-! ### Waiting and querying (R156, R157) -/

/-- COUNT of a sequence number. -/
def seqCount (n : Word) : BitVec 54 := n.extractLsb' 0 54

/-- A number names a command of this tile's queue that has been issued, or none (R156). -/
def State.seqOk (s : State) (q : QueueId) (n : Word) : Bool :=
  n.extractLsb' 54 10 == (s.cur ++ QueueId.code q : BitVec 10) && decide ((seqCount n).toNat ≤ (s.t.queue q).last.toNat)

/-- The timeline of a queue has reached a number (R156). -/
def Tile.reached (x : Tile) (q : QueueId) (n : Word) : Bool := decide ((seqCount n).toNat ≤ (x.queue q).timeline.toNat)

/-- A task waits on a timeline that has not reached its number (R156, R157). -/
def Tile.engineWaits (x : Tile) (w : Wait) : Bool :=
  match w.instr with
  | .waitt a q => !x.reached q (w.src.getS a)
  | .engqStat _ n q => !x.reached q (w.src.getS n)
  | .engqVmask _ n q => !x.reached q (w.src.getS n)
  | _ => false

/-- The shared part of `WAITT` and `ENGQ`: the checks of R156 and the wait. The edge of R111 from the command holds since its
completion (`State.completeCmd`). -/
def State.waitTimeline (s : State) (i : Instr) (q : QueueId) (n : Word) (k : State → State) : Out :=
  if !s.seqOk q n then s.issueTrap causeProt n
  else if s.t.reached q n then .next (k s)
  else .next (s.waitFor i 0 .none)

/-- `WAITT` (R156). -/
def execWaitt (a : SReg) (q : QueueId) (s : State) : Out := s.waitTimeline (.waitt a q) q (s.rdS a) id

/-- The completion record of a command, unless it has been overwritten or names none (R152, R157). -/
def EngQueue.recOf (k : EngQueue) (n : Word) : Option EngRec :=
  if seqCount n == 0 then none else k.recs.find? fun r => r.count == seqCount n

/-- `ENGQ.STAT` (R157). -/
def execEngqStat (d n : SReg) (q : QueueId) (s : State) : Out :=
  s.waitTimeline (.engqStat d n q) q (s.rdS n) fun s' =>
    s'.wrS d (match (s.t.queue q).recOf (s.rdS n) with
      | some r => r.status
      | none => 12)
/-- `ENGQ.VMASK` (R157). -/
def execEngqVmask (d n : SReg) (q : QueueId) (s : State) : Out :=
  s.waitTimeline (.engqVmask d n q) q (s.rdS n) fun s' =>
    s'.wrS d (match (s.t.queue q).recOf (s.rdS n) with
      | some r => r.vmask
      | none => 0)
/-- `ENGQ.DEPTH` (R157). -/
def execEngqDepth (d : SReg) (q : QueueId) (s : State) : Out := .next (s.wrS d (BitVec.ofNat 64 (s.t.queue q).cmds.length))
/-- `ENGQ.LAST` (R157). -/
def execEngqLast (d : SReg) (q : QueueId) (s : State) : Out :=
  let l := (s.t.queue q).last
  .next (s.wrS d (if l == 0 then 0 else seqNum s.cur q l))

end Sys2Proof.Machine
end

