-- ==== Sys2Proof/Machine/EngineMoves.lean ====
section
/-! DEFINITION. What a started engine command does: reads and writes of an engine, the copies element by element, and the
completion of a command (R149 to R154, R158 to R161). -/

namespace Sys2Proof.Machine

/-! ### Completion codes (R152, R153) -/

/-- A status word (R152). -/
def engStatus (code : BitVec 8) (nfail : Nat) (detail : BitVec 32) : Word :=
  (detail ++ 0#16 ++ BitVec.ofNat 8 nfail ++ code : BitVec 64)

/-- The outcome of a command: its status, its validity mask, and a cause for its task. -/
abbrev EngOut := Word × Word × Option TrapRec

/-- A command that completes with a code and nothing else (R152). -/
def engCode (code : BitVec 8) : EngOut := (engStatus code 0 0, 0, none)

/-- An asynchronous cause of an engine command (R153). -/
def engCause (cause : BitVec 8) (addr : Word) : TrapRec :=
  { cause := cause, sub := 0, slot := 9, replay := false, step := false, addr := addr, pc := 0 }

/-- A command stopped by a cause at an address (R153). -/
def engFailure (code : BitVec 8) (cause : BitVec 8) (addr : Word) : EngOut :=
  (engStatus code 0 (addr.extractLsb' 0 32), 0, some (engCause cause addr))

/-- Why an engine goes no further: a translation that parks, a wait, or the outcome of the command. -/
inductive EngStop where
  | park (va : BitVec 48) (acc : Acc) (malformed : Bool)
  | wait
  | done (o : EngOut)

/-- A step of an engine. -/
abbrev EngR (α : Type) := Except EngStop (State × α)

/-! ### Reads and writes of an engine (R88, R93, R106, R153) -/

/-- The task that issued a command is still on the tile (R153). -/
def Tile.cmdLive (x : Tile) (c : EngCmd) : Bool := c.live && x.run.any fun r => r.record.task == c.task

/-- An offence of an engine access recorded for its task (R153). -/
def State.engOffend (s : State) (t : TileIx) (c : EngCmd) (wr : Bool) (a : Word) (n : Nat) : State :=
  if (s.tile t).cmdLive c then s.offendIf t wr (s.spBad t c.ctx a.toNat n) else s

/-- A failed translation or a control page. -/
def engG (acc : Acc) : GFail → EngStop
  | .park va m => .park va acc m
  | .prot va => .done (engFailure 17 causeProt (va.signExtend 64))

/-- Bytes read by an engine for the element at `a` of n bytes: the m bytes from `w`, which hold it. The checks, the offences and a
fault are those of the element (R93, R106, R153). -/
def State.engReadFor (s : State) (t : TileIx) (c : EngCmd) (spc : Space) (a : Word) (n : Nat) (w : Word) (m : Nat) :
    EngR (List Byte) :=
  match spc with
  | .sp =>
    if s.spWaits t c.ctx a.toNat n then .error .wait
    else match s.spPoisoned t c.ctx a.toNat n with
      | some p => .error (.done (engFailure 19 causeEccUncorr (BitVec.ofNat 64 p)))
      | none => .ok (s.engOffend t c false a n, s.spRead t c.ctx false w.toNat m)
  | .cd =>
    match s.cdCheck t c.ctx a.toNat n with
    | .prot o => .error (.done (engFailure 17 causeProt (BitVec.ofNat 64 o)))
    | .denied o => .error (.done (engFailure 18 causeCaddyDenied (BitVec.ofNat 64 o)))
    | .ecc o => .error (.done (engFailure 19 causeEccUncorr (BitVec.ofNat 64 o)))
    | .ok => .ok (s, s.cdRead t w.toNat m)
  | .g =>
    if !canonicalRange a n then .error (.done (engFailure 17 causeProt a))
    else match s.gPlan t c.ctx .read false (gPieces (a.extractLsb' 0 48) n) with
      | .error e => .error (engG .read e)
      | .ok (s0, l) =>
        let s1 := s0.refill [l]
        match s1.gPoisoned l with
        | some va => .error (.done (engFailure 19 causeEccUncorr (va.signExtend 64)))
        | none => match s1.gPlan t c.ctx .read false (gPieces (w.extractLsb' 0 48) m) with
          | .error e => .error (engG .read e)
          | .ok (s2, k) =>
            let r := s2.gFetch t c.ctx false false State.ctlBytes k
            .ok (r.1.ctlRead k, r.2)

/-- Bytes read by an engine. -/
def State.engRead (s : State) (t : TileIx) (c : EngCmd) (spc : Space) (a : Word) (n : Nat) : EngR (List Byte) :=
  s.engReadFor t c spc a n a n

/-- Bytes written by an engine, each as a patch: its writes to global memory go with what the command has still on the way
(R106, R116). -/
def State.engWrite (s : State) (t : TileIx) (c : EngCmd) (spc : Space) (a : Word) (ps : List Patch) : EngR Unit :=
  match spc with
  | .sp =>
    if s.spWaits t c.ctx a.toNat ps.length then .error .wait
    else
      let bs := (ps.zip (s.spRead t c.ctx false a.toNat ps.length)).map fun p => p.1.on p.2
      .ok ((s.engOffend t c true a ps.length).spWrite t c.ctx a.toNat bs, ())
  | _ =>
    if !canonicalRange a ps.length then .error (.done (engFailure 17 causeProt a))
    else match s.gPlan t c.ctx .write false (gPieces (a.extractLsb' 0 48) ps.length) with
      | .error e => .error (engG .write e)
      | .ok (s1, l) => .ok (s1.gSend t c.ctx (some (true, c.order)) [(l, ps)], ())

/-! ### Copies, element by element (R158 to R161) -/

/-- The destinations of a copy: its own space, the named tiles of a `CPYM`, or a peer device. -/
def EngCmd.homes (t : TileIx) (c : EngCmd) : List (Word → Word) :=
  match c.instr with
  | .cpym .. => (maskTiles t c.ctx c.s0).map windowAddr
  | .cpyPeer .. => []
  | _ => [id]

/-- The word of its source that a command holds is no longer good after a write to an address: the two may be one location
(R106). -/
def EngCmd.stale (c : EngCmd) (t : TileIx) (a : Word) : Bool :=
  match c.buf with
  | none => false
  | some (w, _) =>
    let near (n : Nat) : Bool := w.toNat % n / 8 == a.toNat % n / 8
    dSpc c.da == dSpc c.db && (match dSpc c.da with
      | .sp => spHome t w.toNat == spHome t a.toNat && near (2 ^ 21)
      | _ => near (2 ^ 16))

/-- Bytes written at every destination of a copy. -/
def State.engPutAll (t : TileIx) (a : Word) (ps : List Patch) : List (Word → Word) → State → EngCmd → EngR EngCmd
  | [], s, c => .ok (s, c)
  | f :: fs, s, c =>
    match s.engWrite t c (dSpc c.da) (f a) ps with
    | .error e => .error e
    | .ok (s1, _) => State.engPutAll t a ps fs s1 (if c.stale t (f a) then { c with buf := none } else c)

/-- Bytes of a source within one aligned 8-byte word: the word is read once, and the elements in it come from that read
(R106). -/
def State.engWord (s : State) (t : TileIx) (c : EngCmd) (a : Word) (n : Nat) : EngR (EngCmd × List Byte) :=
  let o := a.toNat % 8
  let w := a - BitVec.ofNat 64 o
  if 8 < o + n then (s.engRead t c (dSpc c.db) a n).map fun r => (r.1, c, r.2)
  else match c.buf with
    | some (v, bs) =>
      if v == w then .ok (s, c, (bs.drop o).take n) else fresh o w
    | none => fresh o w
where fresh (o : Nat) (w : Word) : EngR (EngCmd × List Byte) :=
  (s.engReadFor t c (dSpc c.db) a n w 8).map fun r => (r.1, { c with buf := some (w, r.2) }, (r.2.drop o).take n)

/-- The scale address of block b of a descriptor of an SX format (R100). -/
def scaleAt (d : Desc) (f : SxFmt) (b : Nat) : Word :=
  let i := dIndex d (16 * b)
  dScaleAddr d f (dLinear d i.1 i.2.1 i.2.2.1 i.2.2.2)

/-- The blocks from b up whose scale bytes lie in the same word of the destination as those of block b. -/
def sameScales (d : Desc) (f : SxFmt) (b : Nat) : Nat → Nat
  | 0 => 1
  | fuel + 1 =>
    if 16 * (b + 1) < dTotal d && (scaleAt d f (b + 1)).toNat / 8 == (scaleAt d f b).toNat / 8 then
      1 + sameScales d f (b + 1) fuel
    else 1

/-- The scale bytes of n blocks from block b copied; those of a later block that cannot be read are left for its turn. -/
def State.engScales (t : TileIx) (f g : SxFmt) : Nat → Nat → Bool → State → EngCmd → EngR EngCmd
  | _, 0, _, s, c => .ok (s, c)
  | b, n + 1, first, s, c =>
    match s.engRead t c (dSpc c.db) (scaleAt c.db g b) 2 with
    | .error e => if first then .error e else .ok (s, c)
    | .ok (s1, bs) =>
      match State.engPutAll t (scaleAt c.da f b) (bs.map Patch.full) (c.homes t) s1 c with
      | .error e => .error e
      | .ok (s2, c2) => State.engScales t f g (b + 1) n false s2 { c2 with scaled := b + 1 }

/-- The scale bytes of the block of element k, copied before its first element with those that share their destination word,
where both descriptors name an SX format (R158). -/
def State.engScale (s : State) (t : TileIx) (c : EngCmd) (k : Nat) : EngR EngCmd :=
  match dSx c.da, dSx c.db with
  | some f, some g =>
    if k % 16 = 0 && c.scaled ≤ k / 16 then State.engScales t f g (k / 16) (sameScales c.da f (k / 16) 4) true s c else .ok (s, c)
  | _, _ => .ok (s, c)

/-- The next element of a copy moved (R99, R158). -/
def State.engElem (s : State) (t : TileIx) (c : EngCmd) : EngR EngCmd :=
  let k := c.reached
  match s.engScale t c k with
  | .error e => .error e
  | .ok (s0, c0) =>
    let w := dBits c.db
    match s0.engWord t c0 (dAt c.db k) ((w + 7) / 8) with
    | .error e => .error e
    | .ok (s1, c1, bs) =>
      let ps := if w < 8 then [bitPatch (dBitOff c.da (dIndex c.da k).1) w (streamValue c.db k bs)] else bs.map Patch.full
      match State.engPutAll t (dAt c.da k) ps (c.homes t) s1 c1 with
      | .error e => .error e
      | .ok (s2, c2) => .ok (s2, { c2 with reached := k + 1 })

/-- The elements from k up whose bytes lie in the same destination word as element k's: one write (R106, R161). -/
def sameWord (d : Desc) (k : Nat) : Nat → Nat
  | 0 => 1
  | fuel + 1 =>
    if k + 1 < dTotal d && (dAt d (k + 1)).toNat / 8 == (dAt d k).toNat / 8 then 1 + sameWord d (k + 1) fuel else 1

/-- The next n elements of a copy moved together: with a translation that parks or a wait none of them is; a cause stops the
command at the element that meets it (R106, R153). -/
def State.engElems (t : TileIx) : Nat → State → EngCmd → EngR EngCmd
  | 0, s, c => .ok (s, c)
  | n + 1, s, c =>
    match s.engElem t c with
    | .error (.done o) => .ok (s, { c with result := some o })
    | .error e => .error e
    | .ok (s1, c1) => State.engElems t n s1 c1

/-! ### Tagged streams (R161) -/

/-- The words that an access of n bytes touches are empty, an offending word counting as empty (R88, R161). -/
def State.wordsEmpty (s : State) (t : TileIx) (c : EngCmd) (a n : Nat) : Bool :=
  let p := s.spLocs t c.ctx (a / 8 * 8) ((a % 8 + n + 7) / 8 * 8)
  p.2.all fun o => match o with
    | none => true
    | some off => !(s.tile p.1).tagFull off

/-- A tagged stream may write its next n elements, those of one destination word: every word that they touch is empty, and so
are those of the scale bytes that go before them (R161). -/
def State.tagReady (s : State) (t : TileIx) (c : EngCmd) (n : Nat) : Bool :=
  ((List.range n).map (c.reached + ·)).all fun k =>
    s.wordsEmpty t c (dAt c.da k).toNat ((dBits c.da + 7) / 8) && (match dSx c.da, dSx c.db with
      | some f, some _ => k % 16 != 0 || decide (k / 16 < c.scaled) || s.wordsEmpty t c (scaleAt c.da f (k / 16)).toNat 2
      | _, _ => true)

/-! ### The head of a queue -/

/-- The command at the head of a queue, if it has started (R149). -/
def Tile.started (x : Tile) (q : QueueId) : Option EngCmd :=
  match (x.queue q).cmds with
  | c :: _ => if c.started then some c else none
  | [] => none

/-- The head command of a queue changed. -/
def State.setHead (s : State) (t : TileIx) (q : QueueId) (c : EngCmd) : State :=
  s.modTile t fun x => x.modQueue q fun k => { k with cmds := match k.cmds with
    | _ :: l => c :: l
    | [] => [] }

/-- A command of a queue changed, by its COUNT. -/
def State.setCmd (s : State) (t : TileIx) (q : QueueId) (c : EngCmd) : State :=
  s.modTile t fun x => x.modQueue q fun k => { k with cmds := k.cmds.map fun e => if e.count == c.count then c else e }

/-- A started command goes on after a stop: a translation parks once, a wait changes nothing, an outcome is kept. -/
def State.engStopped (s : State) (t : TileIx) (q : QueueId) (c : EngCmd) (e : EngStop) : State :=
  match e with
  | .wait => s
  | .park va acc m => if s.parkFull t then s else (s.park t c.ctx va acc m (.engine q)).setCmd t q { c with parked := true }
  | .done o => s.setCmd t q { c with result := some o }

/-- The peer of a `CPY.PEER`: why it cannot be reached (R159, R369, R410). -/
def State.peerRefused (s : State) (c : EngCmd) : Option EngOut :=
  let p : BitVec 5 := c.s0.extractLsb' 0 5
  if !(s.ctx c.ctx).peers.getLsbD p.toNat then some (engCode 10)
  else if !s.port.ready0.getLsbD (20 + (Config.linkOf p).toNat) then some (engCode 11)
  else none

/-- A started copy or stream moves the elements of its next destination word; past the last one its outcome is known. What
a peer answers to a `CPY.PEER` is not fixed here: success, or XLATE at an element (R153, R158 to R161, R369). -/
def State.copyStep (s : State) (t : TileIx) (q : QueueId) (c : EngCmd) : State :=
  if dTotal c.db ≤ c.reached then
    match c.instr with
    | .cpyPeer .. =>
      let ch := s.choose (dTotal c.da + 1)
      ch.2.setHead t q { c with result := some (if ch.1 < dTotal c.da then engFailure 16 causeXlate (dAt c.da ch.1) else engCode 0) }
    | _ => s.setHead t q { c with result := some (engCode 0) }
  else
    match (match c.instr with
      | .cpyPeer .. => s.peerRefused c
      | .cpym .. => if c.s0.extractLsb' 0 8 == 0 then some (engCode 0) else none
      | _ => none) with
    | some o => s.setHead t q { c with result := some o }
    | none =>
      let n := sameWord c.da c.reached 64
      match c.instr with
      | .strmTag .. =>
        if s.tagReady t c n then
          match State.engElems t n s c with
          | .error e => s.engStopped t q c e
          | .ok (s1, c1) => (s1.releaseAt t .cluster).setHead t q { c1 with leftNs := (s.ctx c.ctx).fewdog.toNat }
        else s
      | _ =>
        match State.engElems t n s c with
        | .error e => s.engStopped t q c e
        | .ok (s1, c1) => s1.setHead t q c1

/-- A copy or stream. -/
def isCopy : Instr → Bool
  | .cpy .. | .cpyPeer .. | .cpym .. | .strm .. | .strmTag .. => true
  | _ => false

/-- The tagged stream of a tile waits for a word to become empty (R161). -/
def State.tagWaits (s : State) (t : TileIx) : Bool :=
  match (s.tile t).started .strm with
  | none => false
  | some c => match c.instr with
    | .strmTag .. => c.result.isNone && !c.parked && decide (c.reached < dTotal c.db) && !s.tagReady t c (sameWord c.da c.reached 64)
    | _ => false

/-- The engines of a tile run: the module has power and the tile is awake (R317, R402). -/
def State.engineRuns (s : State) (t : TileIx) : Bool :=
  let x := s.tile t
  s.phase == .up && (x.power.st == .on || x.power.st == .gated) && !x.peat.held

/-- A started copy of a queue moves its next elements, unless its translation is parked. -/
def State.engineTurn (s : State) (t : TileIx) (q : QueueId) : State :=
  match (s.tile t).started q with
  | none => s
  | some c => if s.engineRuns t && isCopy c.instr && c.result.isNone && !c.parked then s.copyStep t q c else s

/-- A copy run until it stops: at most as many moves as it has elements. -/
def State.copyRun (t : TileIx) (q : QueueId) : Nat → State → State
  | 0, s => s
  | n + 1, s =>
    match (s.tile t).started q with
    | none => s
    | some c =>
      if c.result.isSome || c.parked then s
      else
        let s1 := s.copyStep t q c
        match (s1.tile t).started q with
        | none => s1
        | some c1 => if c1.reached == c.reached && c1.result.isNone then s1 else State.copyRun t q n s1

/-! ### Start and completion (R149 to R154) -/

/-- Two collectives are of one group, whatever their tags: one context, size and level (log entry 89). -/
def oneGroup (c e : EngCmd) : Bool := c.ctx == e.ctx && collN c.s0 == collN e.s0 && collLevel c.s0 == collLevel e.s0

/-- The command of a queue that starts next: the head, or a collective behind started collectives, of which up to four are of
its group and still wait for a member (R149, R170). -/
def EngQueue.next (k : EngQueue) : Option EngCmd :=
  let before := k.cmds.takeWhile (·.started)
  match k.cmds.drop before.length with
  | [] => none
  | c :: _ =>
    if before.isEmpty || ((match c.instr with
        | .coll .. => true
        | _ => false) && decide ((before.filter fun e => e.result.isNone && oneGroup c e).length ≤ 4)) then some c
    else none

/-- ENGINE_COMMAND_START: the next command of a queue starts, once the accesses issued before it have been
performed (R111, R117, R118, R149, R170). -/
def execEngineCommandStart (t : TileIx) (q : QueueId) (s : State) : Out :=
  match ((s.tile t).queue q).next with
  | none => .next s
  | some c =>
    if c.cancelled || !s.engineRuns t || !(s.tile t).quietBefore c.order then .next s
    else
      let left := match c.instr with
        | .strmTag .. => (s.ctx c.ctx).fewdog.toNat
        | .coll .. => (s.ctx c.ctx).pipewdog.toNat
        | _ => 0
      .next (s.setCmd t q { c with started := true, leftNs := left })

/-- The token of a completed command written: to the copy of the mode that issued it (R151, R377). -/
def Tile.putToken (x : Tile) (c : EngCmd) (w : Word) : Tile :=
  if c.token.toNat < 56 || c.hnd == x.banked.isSome then { x with regs := x.regs.setS c.token w }
  else match x.banked with
    | none => x
    | some b => { x with banked := some { b with s := Vector.ofFn fun i : Fin 8 => if 56 + i.val = c.token.toNat then w else b.s[i] } }

/-- The head command of a queue completes with an outcome: its record is kept, the timeline advances, the token is written,
and a cause reaches its task (R150 to R153). Its tile sees its writes from then on: no older line of the context stays in the
L1 (R111). -/
def State.completeCmd (s : State) (t : TileIx) (q : QueueId) (c : EngCmd) (o : EngOut) : State :=
  let s0 := s.dropL1 t (s.ctx c.ctx).asid
  let alive := (s0.tile t).cmdLive c
  let s1 := s0.modTile t fun x =>
    let y := x.modQueue q fun k =>
      { k with cmds := k.cmds.drop 1, timeline := c.count, recs := addCapped 64 k.recs ⟨c.count, o.1, o.2.1⟩ }
    if alive then y.putToken c (seqNum t q c.count) else y
  match o.2.2 with
  | none => s1
  | some f => if alive then s1.raiseAsync t f.cause 9 f.addr else s1

/-- ENGINE_COMMAND_COMPLETE: the head command completes once its outcome is known; a cancelled one completes as CANCELLED;
a copy first moves what it still can (R149 to R154). -/
def execEngineCommandComplete (t : TileIx) (q : QueueId) (s : State) : Out :=
  match ((s.tile t).queue q).cmds with
  | [] => .next s
  | c :: _ =>
    if !s.engineRuns t then .next s
    else if c.cancelled && !c.started then .next (s.completeCmd t q c (engCode 8))
    else if !c.started then .next s
    else
      let s1 := if isCopy c.instr then State.copyRun t q (dTotal c.db + 1) s else s
      match (s1.tile t).started q with
      | none => .next s1
      | some c1 => match c1.result with
        | some o => .next (s1.completeCmd t q c1 o)
        | none => .next s1

/-- STRM_TAG_TIMEOUT: a tagged stream has waited for a word as long as the watchdog allows, and the word is still full; no further
word is written (R161). -/
def execStrmTagTimeout (t : TileIx) (s : State) : Out :=
  match (s.tile t).started .strm with
  | none => .next s
  | some c =>
    .next (if s.engineRuns t && s.tagWaits t && c.leftNs = 0 then s.setHead t .strm { c with result := some (engCode 9) } else s)

/-! ### Chunks half written (R119) -/

/-- The destinations of a started command between two words of one 64-byte chunk, the last word written there: for a copy from
one element to the next, for a `GATH` within a row (R119, R162). A tagged stream writes each word by itself (R161). -/
def EngCmd.midChunk (t : TileIx) (c : EngCmd) : List Word :=
  let same (a b : Word) : Bool := a.toNat / 64 == b.toNat / 64
  if !c.started || c.result.isSome then []
  else match c.instr, c.kv with
    | .strmTag .., _ => []
    | .kvput .., _ => []
    | _, some r => match r.row with
      | none => []
      | some bs =>
        let a := rowAt c.da c.reached + BitVec.ofNat 64 ((if (gathFlags c.instr).1 then 1008 else 1024) - bs.length)
        if bs.isEmpty || a.toNat % 64 == 0 then [] else [a]
    | i, none =>
      if isCopy i && c.reached != 0 && decide (c.reached < dTotal c.db) &&
          same (dAt c.da (c.reached - 1)) (dAt c.da c.reached) then
        (c.homes t).map fun f => f (dAt c.da c.reached)
      else []

/-- An engine has written a part of a 64-byte chunk and goes on there, or its write there is still on the way: a matrix
instruction reads the chunk before the first of these words or after the last (R119). -/
def State.chunkBusy (s : State) (key a : Nat) : Bool :=
  let wrote (l : List PendingWrite) : Bool :=
    l.any fun w => w.access.any (·.1) && w.host == (key == 257) && !w.ctl && w.addr / 64 == a / 64
  (allTiles.any fun u => (s.tile u).eng.any fun q => q.cmds.any fun c => (c.midChunk u).any fun w =>
    (s.places u c.ctx (dSpc c.da, w, 1)).any fun p => p.1 == key && p.2.1 / 64 == a / 64) ||
  (decide (256 ≤ key) && ((s.tiles.any fun x => wrote x.wbuf) || (s.clusters.any fun k => wrote k.wbuf) || s.dies.any fun d => wrote d.wbuf))

end Sys2Proof.Machine
end

