-- ==== Sys2Proof/Machine/Scalar.lean ====
section
/-! DEFINITION. The scalar space: integer, bitfield, compare, predicate and scalar floating-point instructions
(R62 to R77). -/

namespace Sys2Proof.Machine

/-- The smaller or larger of two words, signed or unsigned (R64). -/
def pick (takeFirst : Bool) (a b : Word) : Word := if takeFirst then a else b

/-- `ADD` (R64). -/
def execAdd (d a b : SReg) (s : State) : Out := .next (s.wrS d (s.rdS a + s.rdS b))
/-- `ADDI`: the immediate is sign-extended (R42, R64). -/
def execAddi (d a : SReg) (i : BitVec 13) (s : State) : Out := .next (s.wrS d (s.rdS a + i.signExtend 64))
/-- `SUB` (R64). -/
def execSub (d a b : SReg) (s : State) : Out := .next (s.wrS d (s.rdS a - s.rdS b))
/-- `AND` (R64). -/
def execAnd (d a b : SReg) (s : State) : Out := .next (s.wrS d (s.rdS a &&& s.rdS b))
/-- `ANDI`: the immediate is sign-extended (R64). -/
def execAndi (d a : SReg) (i : BitVec 13) (s : State) : Out := .next (s.wrS d (s.rdS a &&& i.signExtend 64))
/-- `OR` (R64). -/
def execOr (d a b : SReg) (s : State) : Out := .next (s.wrS d (s.rdS a ||| s.rdS b))
/-- `ORI`: the immediate is zero-extended (R64). -/
def execOri (d a : SReg) (i : BitVec 13) (s : State) : Out := .next (s.wrS d (s.rdS a ||| i.zeroExtend 64))
/-- `XOR` (R64). -/
def execXor (d a b : SReg) (s : State) : Out := .next (s.wrS d (s.rdS a ^^^ s.rdS b))
/-- `XORI`: the immediate is zero-extended (R64). -/
def execXori (d a : SReg) (i : BitVec 13) (s : State) : Out := .next (s.wrS d (s.rdS a ^^^ i.zeroExtend 64))
/-- The count of a register shift: bits 5:0 (R64). -/
def shiftCount (x : Word) : Nat := (x.extractLsb' 0 6).toNat
/-- `SHL` (R64). -/
def execShl (d a b : SReg) (s : State) : Out := .next (s.wrS d (s.rdS a <<< shiftCount (s.rdS b)))
/-- `SHLI` (R64). -/
def execShli (d a : SReg) (n : BitVec 6) (s : State) : Out := .next (s.wrS d (s.rdS a <<< n.toNat))
/-- `SHR`: zeros enter (R64). -/
def execShr (d a b : SReg) (s : State) : Out := .next (s.wrS d (s.rdS a >>> shiftCount (s.rdS b)))
/-- `SHRI` (R64). -/
def execShri (d a : SReg) (n : BitVec 6) (s : State) : Out := .next (s.wrS d (s.rdS a >>> n.toNat))
/-- `SRA`: copies of bit 63 enter (R64). -/
def execSra (d a b : SReg) (s : State) : Out := .next (s.wrS d ((s.rdS a).sshiftRight (shiftCount (s.rdS b))))
/-- `SRAI` (R64). -/
def execSrai (d a : SReg) (n : BitVec 6) (s : State) : Out := .next (s.wrS d ((s.rdS a).sshiftRight n.toNat))
/-- `MIN`, signed (R64). -/
def execMin (d a b : SReg) (s : State) : Out := .next (s.wrS d (pick ((s.rdS a).sle (s.rdS b)) (s.rdS a) (s.rdS b)))
/-- `MAX`, signed (R64). -/
def execMax (d a b : SReg) (s : State) : Out := .next (s.wrS d (pick ((s.rdS b).sle (s.rdS a)) (s.rdS a) (s.rdS b)))
/-- `MINN`, unsigned (R64). -/
def execMinn (d a b : SReg) (s : State) : Out := .next (s.wrS d (pick ((s.rdS a).ule (s.rdS b)) (s.rdS a) (s.rdS b)))
/-- `MAXN`, unsigned (R64). -/
def execMaxn (d a b : SReg) (s : State) : Out := .next (s.wrS d (pick ((s.rdS b).ule (s.rdS a)) (s.rdS a) (s.rdS b)))
/-- `ADDX`: rb shifted left by 0 to 7 is added to ra (R64). -/
def execAddx (d a b : SReg) (h : BitVec 3) (s : State) : Out := .next (s.wrS d (s.rdS a + s.rdS b <<< h.toNat))
/-- `MOVI`: a sign-extended 19-bit constant (R65). -/
def execMovi (d : SReg) (i : BitVec 19) (s : State) : Out := .next (s.wrS d (i.signExtend 64))
/-- `MOVHI`: rd shifted left by 16 takes the constant in its low bits (R65). -/
def execMovhi (d : SReg) (i : BitVec 16) (s : State) : Out :=
  .next (s.wrS d (s.rdS d <<< (16 : Nat) ||| i.zeroExtend 64))

/-- The word with the low n bits set, for n up to 64. -/
def lowOnes (n : Nat) : Word := BitVec.ofNat 64 (2 ^ n - 1)
/-- `BFX`: the field, zero-extended (R66). -/
def execBfx (d a : SReg) (pos len1 : BitVec 6) (s : State) : Out :=
  checked (.bfx d a pos len1) s <| .next (s.wrS d (s.rdS a >>> pos.toNat &&& lowOnes (len1.toNat + 1)))
/-- `BFXS`: the field, sign-extended (R66). -/
def execBfxs (d a : SReg) (pos len1 : BitVec 6) (s : State) : Out :=
  checked (.bfxs d a pos len1) s <|
    .next (s.wrS d ((s.rdS a <<< (63 - pos.toNat - len1.toNat)).sshiftRight (63 - len1.toNat)))
/-- `BFI`: the field of rd is replaced by the low bits of ra (R66). -/
def execBfi (d a : SReg) (pos len1 : BitVec 6) (s : State) : Out :=
  checked (.bfi d a pos len1) s <|
    let mk := lowOnes (len1.toNat + 1) <<< pos.toNat
    .next (s.wrS d (s.rdS d &&& ~~~mk ||| s.rdS a <<< pos.toNat &&& mk))

/-- The zeros above the highest set bit of a w-bit pattern; w for zero (R67, R196). -/
def clzNat (w x : Nat) : Nat := if x = 0 then w else w - 1 - Nat.log2 x
/-- The number of set bits among the low n bits of a pattern (R67, R196). -/
def popNat : Nat → Nat → Nat
  | 0, _ => 0
  | n + 1, x => popNat n x + if x.testBit n then 1 else 0
/-- The zeros below the lowest set bit among n bits; the number of bits for zero (R67). -/
def ctzNat (w x : Nat) : Nat := if x = 0 then w else Nat.log2 (x &&& (2 ^ w - x))
/-- `CLZ`; 64 for zero (R67). -/
def execClz (d a : SReg) (s : State) : Out := .next (s.wrS d (BitVec.ofNat 64 (clzNat 64 (s.rdS a).toNat)))
/-- `CTZ`; 64 for zero (R67). -/
def execCtz (d a : SReg) (s : State) : Out := .next (s.wrS d (BitVec.ofNat 64 (ctzNat 64 (s.rdS a).toNat)))
/-- `POPC` (R67). -/
def execPopc (d a : SReg) (s : State) : Out := .next (s.wrS d (BitVec.ofNat 64 (popNat 64 (s.rdS a).toNat)))

/-- `CMP` (R43, R68). -/
def execCmp (pd : PReg) (c : Cond) (a b : SReg) (s : State) : Out :=
  checked (.cmp pd c a b) s <| .next (s.wrP pd (intCond c 64 (s.rdS a).toNat (s.rdS b).toNat))
/-- `CMPI`: the immediate is sign-extended under every condition (R68). -/
def execCmpi (pd : PReg) (c : Cond) (a : SReg) (i : BitVec 12) (s : State) : Out :=
  checked (.cmpi pd c a i) s <| .next (s.wrP pd (intCond c 64 (s.rdS a).toNat (i.signExtend 64).toNat))
/-- `SEL` (R69). -/
def execSel (d a b : SReg) (neg : Bool) (q : PReg) (s : State) : Out :=
  .next (s.wrS d (if s.cond q neg then s.rdS a else s.rdS b))
/-- `PLOG`: a two-input table (R70). -/
def execPlog (pd pa pb : PReg) (tb : BitVec 4) (s : State) : Out :=
  .next (s.wrP pd (tb.getLsbD (2 * (s.rdP pa).toNat + (s.rdP pb).toNat)))
/-- `MOVP`: the predicates as a word, `p0` contributing 1 (R71). -/
def execMovp (d : SReg) (s : State) : Out := .next (s.wrS d ((s.src.p ||| 1#8).zeroExtend 64))
/-- `MOVP.SET`: `p1` to `p7` from bits 7:1 (R71). -/
def execMovpSet (a : SReg) (s : State) : Out :=
  .next (s.modRegs fun r => { r with p := (s.rdS a).extractLsb' 0 8 &&& 0xFE#8 })

/-- `MUL` (R72). -/
def execMul (d a b : SReg) (s : State) : Out := .next (s.wrS d (s.rdS a * s.rdS b))
/-- `MULH`: the high half of the signed product (R72). -/
def execMulh (d a b : SReg) (s : State) : Out :=
  .next (s.wrS d (BitVec.ofInt 64 ((s.rdS a).toInt * (s.rdS b).toInt / 2 ^ 64)))
/-- `MULHN`: the high half of the unsigned product (R72). -/
def execMulhn (d a b : SReg) (s : State) : Out :=
  .next (s.wrS d (BitVec.ofNat 64 ((s.rdS a).toNat * (s.rdS b).toNat / 2 ^ 64)))
/-- The flag of a division by zero (R73). -/
def divFlag (b : Word) : Flags := flIf (b == 0) flDZ
/-- `DIV`: truncated toward zero; all ones by zero; -2^63 by -1 stands (R72, R73). -/
def execDiv (d a b : SReg) (s : State) : Out :=
  let x := s.rdS a
  let y := s.rdS b
  .next ((s.wrS d (if y = 0 then BitVec.allOnes 64 else x.sdiv y)).raise (divFlag y))
/-- `DIVN` (R72, R73). -/
def execDivn (d a b : SReg) (s : State) : Out :=
  let x := s.rdS a
  let y := s.rdS b
  .next ((s.wrS d (if y = 0 then BitVec.allOnes 64 else x.udiv y)).raise (divFlag y))
/-- `REM`: the sign of ra, or zero; ra by zero (R72, R73). -/
def execRem (d a b : SReg) (s : State) : Out :=
  let x := s.rdS a
  let y := s.rdS b
  .next ((s.wrS d (if y = 0 then x else x.srem y)).raise (divFlag y))
/-- `REMN` (R72, R73). -/
def execRemn (d a b : SReg) (s : State) : Out :=
  let x := s.rdS a
  let y := s.rdS b
  .next ((s.wrS d (if y = 0 then x else x.umod y)).raise (divFlag y))

/-- A scalar floating operation on three registers, of which the third is the accumulator (R63, R74). -/
def scalarFloat (op : FOp) (d a b c : SReg) (t : ETy) (r : RM) (s : State) : Out :=
  .next (s.wrFloat d t (floatOp op t (s.arithMode r) (s.rdS a).toNat (s.rdS b).toNat (s.rdS c).toNat))
/-- `SFADD` (R74). -/
def execSfadd (d a b : SReg) (t : ETy) (r : RM) (s : State) : Out :=
  checked (.sfadd d a b t r) s <| scalarFloat .add d a b d t r s
/-- `SFSUB` (R74). -/
def execSfsub (d a b : SReg) (t : ETy) (r : RM) (s : State) : Out :=
  checked (.sfsub d a b t r) s <| scalarFloat .sub d a b d t r s
/-- `SFMUL` (R74). -/
def execSfmul (d a b : SReg) (t : ETy) (r : RM) (s : State) : Out :=
  checked (.sfmul d a b t r) s <| scalarFloat .mul d a b d t r s
/-- `SFMA`: one rounding of ra * rb + rd (R74). -/
def execSfma (d a b : SReg) (t : ETy) (r : RM) (s : State) : Out :=
  checked (.sfma d a b t r) s <| scalarFloat .fma d a b d t r s

/-- The low bits of a register that hold a value of a type (R63). -/
def lowBits (t : ETy) (x : Word) : Nat := x.toNat % 2 ^ valWidth t
/-- `SFMIN` (R75). -/
def execSfmin (d a b : SReg) (t : ETy) (s : State) : Out :=
  checked (.sfmin d a b t) s <|
    .next (s.wrFloat d t (floatMinMax t false (lowBits t (s.rdS a)) (lowBits t (s.rdS b))))
/-- `SFMAX` (R75). -/
def execSfmax (d a b : SReg) (t : ETy) (s : State) : Out :=
  checked (.sfmax d a b t) s <|
    .next (s.wrFloat d t (floatMinMax t true (lowBits t (s.rdS a)) (lowBits t (s.rdS b))))
/-- `SFCMP` (R43, R76). -/
def execSfcmp (pd : PReg) (c : Cond) (a b : SReg) (t : ETy) (s : State) : Out :=
  checked (.sfcmp pd c a b t) s <|
    let r := floatCond c (readNum t (s.rdS a).toNat) (readNum t (s.rdS b).toNat)
    .next ((s.wrP pd r.1).raise r.2)
/-- `SFCVT`: one conversion under the special option, stepping `SRSEED` once under SR (R77, R183, R185). -/
def execSfcvt (d a : SReg) (dty sty : ETy) (r : RM) (s : State) : Out :=
  let seed := nextSeed (s.isSR r) s.regs.ctl.srseed
  .next ((s.setSeed seed).wrFloat d dty (convert dty (s.cvtMode r seed) false (readNum sty (s.rdS a).toNat)))

end Sys2Proof.Machine
end

