-- ==== Sys2Proof/Machine/Vector.lean ====
section
/-! DEFINITION. The vector space up to 0x35 but `VCVT`: integer and floating element-wise forms, compares, moves,
permutes, packs and masks (R196 to R211). -/

namespace Sys2Proof.Machine

/-- An integer result modulo 2^w without flags. -/
def wrapInt (t : ETy) (i : Int) : Nat × Flags := (intBits t.width i, 0)
/-- An integer result saturated to the type, with SAT where it clamps (R196). -/
def satInt (t : ETy) (i : Int) : Nat × Flags :=
  let r := saturate t i
  (intBits t.width r.1, flIf r.2 flSAT)
/-- The smaller or larger element as the type reads it (R196). -/
def minMaxInt (t : ETy) (isMax : Bool) (x y : Nat) : Nat × Flags :=
  (if (decide (readInt t x ≤ readInt t y)) != isMax then x else y, 0)

/-- `VADD` (R196). -/
def execVadd (d a b : VReg) (t : ETy) (mk : MReg) (g : Grp) (bc : Bool) (s : State) : Out :=
  checked (.vadd d a b t mk g bc) s <| repeatForm d a b t mk g bc (fun x y _ => wrapInt t (readInt t x + readInt t y)) s
/-- `VSUB` (R196). -/
def execVsub (d a b : VReg) (t : ETy) (mk : MReg) (g : Grp) (bc : Bool) (s : State) : Out :=
  checked (.vsub d a b t mk g bc) s <| repeatForm d a b t mk g bc (fun x y _ => wrapInt t (readInt t x - readInt t y)) s
/-- `VADDS` (R196). -/
def execVadds (d a b : VReg) (t : ETy) (mk : MReg) (g : Grp) (bc : Bool) (s : State) : Out :=
  checked (.vadds d a b t mk g bc) s <| repeatForm d a b t mk g bc (fun x y _ => satInt t (readInt t x + readInt t y)) s
/-- `VSUBS` (R196). -/
def execVsubs (d a b : VReg) (t : ETy) (mk : MReg) (g : Grp) (bc : Bool) (s : State) : Out :=
  checked (.vsubs d a b t mk g bc) s <| repeatForm d a b t mk g bc (fun x y _ => satInt t (readInt t x - readInt t y)) s
/-- `VMUL` (R196). -/
def execVmul (d a b : VReg) (t : ETy) (mk : MReg) (g : Grp) (bc : Bool) (s : State) : Out :=
  checked (.vmul d a b t mk g bc) s <| repeatForm d a b t mk g bc (fun x y _ => wrapInt t (readInt t x * readInt t y)) s
/-- `VMULH`: bits 2w-1 : w of the exact product (R196). -/
def execVmulh (d a b : VReg) (t : ETy) (mk : MReg) (g : Grp) (bc : Bool) (s : State) : Out :=
  checked (.vmulh d a b t mk g bc) s <|
    repeatForm d a b t mk g bc (fun x y _ => wrapInt t (readInt t x * readInt t y / 2 ^ t.width)) s
/-- `VMAC`: vd is a source (R196). -/
def execVmac (d a b : VReg) (t : ETy) (mk : MReg) (g : Grp) (bc : Bool) (s : State) : Out :=
  checked (.vmac d a b t mk g bc) s <|
    repeatForm d a b t mk g bc (fun x y z => wrapInt t (readInt t z + readInt t x * readInt t y)) s
/-- `VABSD`: the difference's magnitude as an unsigned pattern (R196). -/
def execVabsd (d a b : VReg) (t : ETy) (mk : MReg) (g : Grp) (bc : Bool) (s : State) : Out :=
  checked (.vabsd d a b t mk g bc) s <|
    repeatForm d a b t mk g bc (fun x y _ => ((readInt t x - readInt t y).natAbs, 0)) s
/-- `VAVG`: floor((a + b + 1) / 2), exact (R196). -/
def execVavg (d a b : VReg) (t : ETy) (mk : MReg) (g : Grp) (bc : Bool) (s : State) : Out :=
  checked (.vavg d a b t mk g bc) s <|
    repeatForm d a b t mk g bc (fun x y _ => wrapInt t ((readInt t x + readInt t y + 1) / 2)) s
/-- `VMIN` (R196). -/
def execVmin (d a b : VReg) (t : ETy) (mk : MReg) (g : Grp) (bc : Bool) (s : State) : Out :=
  checked (.vmin d a b t mk g bc) s <| repeatForm d a b t mk g bc (fun x y _ => minMaxInt t false x y) s
/-- `VMAX` (R196). -/
def execVmax (d a b : VReg) (t : ETy) (mk : MReg) (g : Grp) (bc : Bool) (s : State) : Out :=
  checked (.vmax d a b t mk g bc) s <| repeatForm d a b t mk g bc (fun x y _ => minMaxInt t true x y) s
/-- `VAND` (R196). -/
def execVand (d a b : VReg) (t : ETy) (mk : MReg) (g : Grp) (bc : Bool) (s : State) : Out :=
  checked (.vand d a b t mk g bc) s <| repeatForm d a b t mk g bc (fun x y _ => (contain t (x &&& y), 0)) s
/-- `VOR` (R196). -/
def execVor (d a b : VReg) (t : ETy) (mk : MReg) (g : Grp) (bc : Bool) (s : State) : Out :=
  checked (.vor d a b t mk g bc) s <| repeatForm d a b t mk g bc (fun x y _ => (contain t (x ||| y), 0)) s
/-- `VXOR` (R196). -/
def execVxor (d a b : VReg) (t : ETy) (mk : MReg) (g : Grp) (bc : Bool) (s : State) : Out :=
  checked (.vxor d a b t mk g bc) s <| repeatForm d a b t mk g bc (fun x y _ => (contain t (x ^^^ y), 0)) s
/-- `VANDN`: a AND NOT b (R196). -/
def execVandn (d a b : VReg) (t : ETy) (mk : MReg) (g : Grp) (bc : Bool) (s : State) : Out :=
  checked (.vandn d a b t mk g bc) s <|
    repeatForm d a b t mk g bc (fun x y _ => (contain t (x &&& (2 ^ t.width - 1 - y)), 0)) s
/-- `VSHL`: 0 for counts of w or more (R196). -/
def execVshl (d a b : VReg) (t : ETy) (mk : MReg) (g : Grp) (bc : Bool) (s : State) : Out :=
  checked (.vshl d a b t mk g bc) s <|
    repeatForm d a b t mk g bc (fun x c _ => (if t.width ≤ c then 0 else (x <<< c) % 2 ^ t.width, 0)) s
/-- `VSHR`: zeros enter, for I and N types alike (R196). -/
def execVshr (d a b : VReg) (t : ETy) (mk : MReg) (g : Grp) (bc : Bool) (s : State) : Out :=
  checked (.vshr d a b t mk g bc) s <|
    repeatForm d a b t mk g bc (fun x c _ => (if t.width ≤ c then 0 else x >>> c, 0)) s
/-- `VSRA`: copies of the element's top bit enter, for I and N types alike (R196). -/
def execVsra (d a b : VReg) (t : ETy) (mk : MReg) (g : Grp) (bc : Bool) (s : State) : Out :=
  checked (.vsra d a b t mk g bc) s <|
    repeatForm d a b t mk g bc (fun x c _ => wrapInt t (toSigned t.width x / 2 ^ min c t.width)) s
/-- `VCLZ`: w for a zero element (R196). -/
def execVclz (d a : VReg) (t : ETy) (mk : MReg) (g : Grp) (s : State) : Out :=
  checked (.vclz d a t mk g) s <| unaryForm d a t mk g (fun x => (clzNat t.width x, 0)) s
/-- `VPOPC` (R196). -/
def execVpopc (d a : VReg) (t : ETy) (mk : MReg) (g : Grp) (s : State) : Out :=
  checked (.vpopc d a t mk g) s <| unaryForm d a t mk g (fun x => (popNat t.width x, 0)) s

/-- A widening multiply into the pair vd, vd + 1 (R193, R197). -/
def widenMul (acc : Bool) (d a b : VReg) (t : ETy) (mk : MReg) (bc : Bool) (s : State) : Out :=
  guardGroups d 2 [(a, 1), (b, 1)] s <|
    .next (widenForm d t (wideTy t) 2 (s.rdM mk) (fun i z =>
      let p := readInt t (velem t (s.rdV a) i) * readInt t (if bc then velem t (s.rdV b) 0 else velem t (s.rdV b) i)
      (intBits (2 * t.width) (if acc then (z : Int) + p else p), 0)) s)
/-- `VMULW` (R197). -/
def execVmulw (d a b : VReg) (t : ETy) (mk : MReg) (bc : Bool) (s : State) : Out :=
  checked (.vmulw d a b t mk bc) s <| widenMul false d a b t mk bc s
/-- `VMACW`: the vd pair is a source (R197). -/
def execVmacw (d a b : VReg) (t : ETy) (mk : MReg) (bc : Bool) (s : State) : Out :=
  checked (.vmacw d a b t mk bc) s <| widenMul true d a b t mk bc s

/-- `VFADD` (R198). -/
def execVfadd (d a b : VReg) (t : ETy) (mk : MReg) (r : RM) (s : State) : Out :=
  checked (.vfadd d a b t mk r) s <| plainForm d a b t mk (floatOp .add t (s.arithMode r)) s
/-- `VFSUB` (R198). -/
def execVfsub (d a b : VReg) (t : ETy) (mk : MReg) (r : RM) (s : State) : Out :=
  checked (.vfsub d a b t mk r) s <| plainForm d a b t mk (floatOp .sub t (s.arithMode r)) s
/-- `VFMUL` (R198). -/
def execVfmul (d a b : VReg) (t : ETy) (mk : MReg) (r : RM) (s : State) : Out :=
  checked (.vfmul d a b t mk r) s <| plainForm d a b t mk (floatOp .mul t (s.arithMode r)) s
/-- `VFMA`: one rounding of a * b + vd (R198). -/
def execVfma (d a b : VReg) (t : ETy) (mk : MReg) (r : RM) (s : State) : Out :=
  checked (.vfma d a b t mk r) s <| plainForm d a b t mk (floatOp .fma t (s.arithMode r)) s
/-- `VFMIN` (R199). -/
def execVfmin (d a b : VReg) (t : ETy) (mk : MReg) (s : State) : Out :=
  checked (.vfmin d a b t mk) s <| plainForm d a b t mk (fun x y _ => floatMinMax t false x y) s
/-- `VFMAX` (R199). -/
def execVfmax (d a b : VReg) (t : ETy) (mk : MReg) (s : State) : Out :=
  checked (.vfmax d a b t mk) s <| plainForm d a b t mk (fun x y _ => floatMinMax t true x y) s
/-- A pattern with its sign bit set to a value (R199). -/
def withSign (t : ETy) (x : Nat) (neg : Bool) : Nat :=
  x % 2 ^ (valWidth t - 1) + if neg then 2 ^ (valWidth t - 1) else 0
/-- `VFSGN`: bitwise, without flags (R199). -/
def execVfsgn (d a b : VReg) (t : ETy) (mk : MReg) (f : SgnOp) (s : State) : Out :=
  checked (.vfsgn d a b t mk f) s <|
    plainForm d a b t mk (fun x y _ =>
      let sx := x.testBit (valWidth t - 1)
      let sy := y.testBit (valWidth t - 1)
      (withSign t x (match f with
        | .cpy => sy
        | .neg => !sy
        | .xor => sx ^^ sy), 0)) s
/-- The class word of a pattern: one bit of ten (R200). -/
def classBits (t : ETy) (x : Nat) : Nat :=
  let p := match binFmt t with
    | some f => f.p
    | none => 0
  match readNum t x with
  | .inf n => if n then 1 else 128
  | .nan sg => if sg then 256 else 512
  | .fin n m _ =>
    if m = 0 then (if n then 8 else 16)
    else if m < 2 ^ p then (if n then 4 else 32)
    else (if n then 2 else 64)
/-- `VFCLASS` (R200). -/
def execVfclass (d a : VReg) (t : ETy) (mk : MReg) (s : State) : Out :=
  checked (.vfclass d a t mk) s <| plainForm d a a t mk (fun x _ _ => (classBits t x, 0)) s

/-- `VCMP`: the conditions read the elements by their code, not by the type (R201). -/
def execVcmp (c : Cond) (d : MReg) (a b : VReg) (t : ETy) (mk : MReg) (s : State) : Out :=
  checked (.vcmp c d a b t mk) s <|
    .next (s.wrM d (maskOf t.count fun i =>
      (s.rdM mk).getLsbD i && intCond c t.width (velem t (s.rdV a) i) (velem t (s.rdV b) i)))
/-- `VFCMP`: NV for governed elements only (R201). -/
def execVfcmp (c : Cond) (d : MReg) (a b : VReg) (t : ETy) (mk : MReg) (s : State) : Out :=
  checked (.vfcmp c d a b t mk) s <|
    let r (i : Nat) := floatCond c (readNum t (velem t (s.rdV a) i)) (readNum t (velem t (s.rdV b) i))
    .next ((s.wrM d (maskOf t.count fun i => (s.rdM mk).getLsbD i && (r i).1)).raise
      (orFlags (fun i => if (s.rdM mk).getLsbD i then (r i).2 else 0) t.count))
/-- `VSEL`: the mask selects, and every element is written (R202). -/
def execVsel (d a b : VReg) (t : ETy) (mk : MReg) (g : Grp) (bc : Bool) (s : State) : Out :=
  checked (.vsel d a b t mk g bc) s <|
    guardGroups d g.size [(a, g.size), (b, if bc then 1 else g.size)] s <|
      .next (s.wrGroup d (fun k => (vecOf t fun i => contain t
        (if (s.rdM mk).getLsbD i then velem t (s.rdV (vplus a k)) i else operandB t s b bc k i), 0)) g.size)

/-- `VMOV`; under `.B` element 0 of the one register va goes everywhere (R203). -/
def execVmov (d a : VReg) (t : ETy) (mk : MReg) (g : Grp) (bc : Bool) (s : State) : Out :=
  checked (.vmov d a t mk g bc) s <|
    guardGroups d g.size [(a, if bc then 1 else g.size)] s <|
      .next (s.wrGroup d (fun k => vecMasked t (s.rdM mk) (s.rdV (vplus d k)) fun i =>
        (contain t (operandB t s a bc k i), 0)) g.size)
/-- A form that computes every governed element of one register without flags. -/
def genForm (d : VReg) (t : ETy) (mk : MReg) (f : Nat → Nat) (s : State) : Out :=
  .next (s.wrV d (vecMasked t (s.rdM mk) (s.rdV d) fun i => (contain t (f i), 0)).1)
/-- `VBCAST` of a scalar (R203). -/
def execVbcast (d : VReg) (sc : SReg) (t : ETy) (mk : MReg) (s : State) : Out :=
  genForm d t mk (fun _ => (s.rdS sc).toNat % 2 ^ valWidth t) s
/-- `VBCAST.EL`: element ss of va, or 0 past the last (R203). -/
def execVbcastEl (d a : VReg) (sc : SReg) (t : ETy) (mk : MReg) (s : State) : Out :=
  genForm d t mk (fun _ => if (s.rdS sc).toNat < t.count then velem t (s.rdV a) (s.rdS sc).toNat else 0) s
/-- `VEXTR`: an element as a scalar, extended under R63 (R204). -/
def execVextr (k : BitVec 10) (a : VReg) (sc : SReg) (t : ETy) (s : State) : Out :=
  checked (.vextr k a sc t) s <| .next (s.wrS sc (scalarOf t (velem t (s.rdV a) k.toNat)))
/-- `VINS`: one element, the others unchanged (R204). -/
def execVins (d : VReg) (k : BitVec 10) (sc : SReg) (t : ETy) (s : State) : Out :=
  checked (.vins d k sc t) s <|
    .next (s.wrV d (vecOf t fun i => if i = k.toNat then contain t (s.rdS sc).toNat else velem t (s.rdV d) i))

/-- `VPERM`: 0 for an index past the table (R205). An index element of type A56 is taken whole, with bits 63:56 of its
container: the model's choice between R20 and R205 (log entry 92). -/
def execVperm (d a b : VReg) (t : ETy) (mk : MReg) (s : State) : Out :=
  genForm d t mk (fun i =>
    let ix := velem t (s.rdV b) i
    if ix < t.count then velem t (s.rdV a) ix else 0) s
/-- `VPERM2`: the table is va, then va + 1 (R205); an index of type A56 as for `VPERM` (log entry 92). -/
def execVperm2 (d a b : VReg) (t : ETy) (mk : MReg) (s : State) : Out :=
  checked (.vperm2 d a b t mk) s <|
    guardGroups d 1 [(a, 2), (b, 1)] s <|
      genForm d t mk (fun i =>
        let ix := velem t (s.rdV b) i
        if ix < t.count then velem t (s.rdV a) ix
        else if ix < 2 * t.count then velem t (s.rdV (vplus a 1)) (ix - t.count) else 0) s
/-- `VSLIDE`: zeros enter (R206). -/
def execVslide (d a : VReg) (sc : SReg) (t : ETy) (mk : MReg) (up : Bool) (s : State) : Out :=
  let c := (s.rdS sc).toNat
  genForm d t mk (fun i =>
    if up then (if c ≤ i then velem t (s.rdV a) (i - c) else 0)
    else (if i + c < t.count then velem t (s.rdV a) (i + c) else 0)) s
/-- `VROT` (R206). -/
def execVrot (d a : VReg) (sc : SReg) (t : ETy) (mk : MReg) (up : Bool) (s : State) : Out :=
  let n := t.count
  let c := (s.rdS sc).toNat % n
  genForm d t mk (fun i => velem t (s.rdV a) (if up then (i + n - c) % n else (i + c) % n)) s

/-- The positions below n whose mask bit is set, in ascending order (R207). -/
def setPositions (mk : MWord) (n : Nat) : List Nat := (List.range n).filter fun i => mk.getLsbD i
/-- The number of set mask bits below i (R207). -/
def rankOf (mk : MWord) (i : Nat) : Nat := popNat i mk.toNat
/-- `VCOMPRESS`: the selected elements in front, zeros behind (R207). -/
def execVcompress (d a : VReg) (t : ETy) (mk : MReg) (s : State) : Out :=
  let ps := setPositions (s.rdM mk) t.count
  .next (s.wrV d (BitVec.ofNat 4096 ((ps.zipIdx.map fun p =>
    contain t (velem t (s.rdV a) p.1) <<< (p.2 * t.width)).foldl (· + ·) 0)))
/-- `VEXPAND`: the elements of va go in order to the selected positions (R207). -/
def execVexpand (d a : VReg) (t : ETy) (mk : MReg) (s : State) : Out :=
  genForm d t mk (fun i => velem t (s.rdV a) (rankOf (s.rdM mk) i)) s
/-- `VIOTA`: the number of set mask bits below each position (R207). -/
def execViota (d : VReg) (t : ETy) (mk : MReg) (s : State) : Out :=
  checked (.viota d t mk) s <| .next (s.wrV d (vecOf t fun i => rankOf (s.rdM mk) i))
/-- `VIOTA.IDX`: each position's number modulo 2^w (R207). -/
def execViotaIdx (d : VReg) (t : ETy) (s : State) : Out :=
  checked (.viotaIdx d t) s <| .next (s.wrV d (vecOf t fun i => i))

/-- Element j of the 2n elements of two registers end to end (R208). -/
def zipElem (t : ETy) (lo hi : VWord) (j : Nat) : Nat := if j < t.count then velem t lo j else velem t hi (j - t.count)
/-- `VZIP`: va and vb interleaved over the pair (R208). -/
def execVzip (d a b : VReg) (t : ETy) (s : State) : Out :=
  checked (.vzip d a b t) s <|
    guardGroups d 2 [(a, 1), (b, 1)] s <|
      .next (s.wrGroup d (fun k => (vecOf t fun j =>
        let z := k * t.count + j
        contain t (velem t (s.rdV (if z % 2 = 0 then a else b)) (z / 2)), 0)) 2)
/-- `VUNZIP`: the even elements to vd, the odd ones to vd + 1 (R208). -/
def execVunzip (d a : VReg) (t : ETy) (s : State) : Out :=
  checked (.vunzip d a t) s <|
    guardGroups d 2 [(a, 2)] s <|
      .next (s.wrGroup d (fun k => (vecOf t fun i =>
        contain t (zipElem t (s.rdV a) (s.rdV (vplus a 1)) (2 * i + k)), 0)) 2)
/-- `VPACK`: destination element i is wide element i div g of register va + (i mod g) (R193, R209). -/
def execVpack (d a : VReg) (t : ETy) (mk : MReg) (sat : Bool) (x : XFac) (s : State) : Out :=
  checked (.vpack d a t mk sat x) s <|
    let g := x.grp.size
    let tw := wideOf x t
    guardGroups d 1 [(a, g)] s <|
      let r := vecMasked t (s.rdM mk) (s.rdV d) fun i =>
        let v := readInt tw (velem tw (s.rdV (vplus a (i % g))) (i / g))
        if sat then satInt t v else wrapInt t v
      .next ((s.wrV d r.1).raise r.2)
/-- `VUNPACK`: each element extended to g times its width (R193, R209). -/
def execVunpack (d a : VReg) (t : ETy) (mk : MReg) (x : XFac) (s : State) : Out :=
  checked (.vunpack d a t mk x) s <|
    let g := x.grp.size
    let tw := wideOf x t
    guardGroups d g [(a, 1)] s <|
      .next (widenForm d t tw g (s.rdM mk) (fun i _ => (intBits tw.width (readInt t (velem t (s.rdV a) i)), 0)) s)

/-- `MLOG`: a two-input table over all 1,024 bits (R210). -/
def execMlog (d a b : MReg) (tb : BitVec 4) (s : State) : Out :=
  checked (.mlog d a b tb) s <|
    .next (s.wrM d (maskOf 1024 fun i => tb.getLsbD (2 * ((s.rdM a).getLsbD i).toNat + ((s.rdM b).getLsbD i).toNat)))
/-- `MPOPC` (R211). -/
def execMpopc (a : MReg) (sc : SReg) (t : ETy) (mk : MReg) (s : State) : Out :=
  .next (s.wrS sc (BitVec.ofNat 64 (popNat t.count (s.rdM a &&& s.rdM mk).toNat)))
/-- `MFIRST`: the lowest or highest set position, or all ones (R211). -/
def execMfirst (a : MReg) (sc : SReg) (t : ETy) (mk : MReg) (last : Bool) (s : State) : Out :=
  let ps := setPositions (s.rdM a &&& s.rdM mk) t.count
  .next (s.wrS sc (match if last then ps.getLast? else ps.head? with
    | some i => BitVec.ofNat 64 i
    | none => BitVec.allOnes 64))
/-- `MFROM.NZ`: the elements whose bit pattern is not zero (R211). -/
def execMfromNz (d : MReg) (a : VReg) (t : ETy) (mk : MReg) (s : State) : Out :=
  checked (.mfromNz d a t mk) s <|
    .next (s.wrM d (maskOf t.count fun i => (s.rdM mk).getLsbD i && contain t (velem t (s.rdV a) i) != 0))
/-- `MFROM.PRE`: the positions below ss (R211). -/
def execMfromPre (d : MReg) (sc : SReg) (t : ETy) (mk : MReg) (s : State) : Out :=
  checked (.mfromPre d sc t mk) s <|
    .next (s.wrM d (maskOf t.count fun i => (s.rdM mk).getLsbD i && decide (i < (s.rdS sc).toNat)))
/-- `MFROM.SUF`: the positions from ss on (R211). -/
def execMfromSuf (d : MReg) (sc : SReg) (t : ETy) (mk : MReg) (s : State) : Out :=
  checked (.mfromSuf d sc t mk) s <|
    .next (s.wrM d (maskOf t.count fun i => (s.rdM mk).getLsbD i && decide ((s.rdS sc).toNat ≤ i)))

end Sys2Proof.Machine
end

