-- ==== Sys2Proof/Machine/Collectives.lean ====
section
/-! DEFINITION. Collectives: their members, the reductions, and how they end (R168 to R170). -/

namespace Sys2Proof.Machine

/-- The collectives that a tile has started and that still wait, in the order of its queue: up to four run ahead of the slowest
member of their group (R170). -/
def Tile.collectives (x : Tile) : List EngCmd := (x.queue .coll).cmds.filter fun c => c.started && c.result.isNone

/-- Two tiles lie in one region of a level (R168). -/
def sameRegion (level : Nat) (t u : TileIx) : Bool :=
  match level with
  | 1 => clusterOf t == clusterOf u
  | 2 => dieOf t == dieOf u
  | _ => true

/-- Two commands join one collective: one context, tag, size and level, in one region (R168). -/
def sameGroup (t u : TileIx) (c e : EngCmd) : Bool :=
  c.ctx == e.ctx && collTag c.s0 == collTag e.s0 && collN c.s0 == collN e.s0 && collLevel c.s0 == collLevel e.s0 &&
  sameRegion (collLevel c.s0) t u

/-- The started members of a command's collective. -/
def State.members (s : State) (t : TileIx) (c : EngCmd) : List (TileIx × EngCmd) :=
  allTiles.flatMap fun u => ((s.tile u).collectives.filter (sameGroup t u c)).map fun e => (u, e)

/-- The members of a collective by rank, none for a rank that has not arrived here. Of two members with one rank, which the
spec does not provide for, the first tile's is taken, the model's choice; of one tile the older command is, since each tile
joins in order (R149, R168; log entry 90). -/
def State.ranks (s : State) (t : TileIx) (c : EngCmd) : List (Option (TileIx × EngCmd)) :=
  let l := s.members t c
  (List.range (collN c.s0)).map fun r => l.find? fun p => collRank p.2.s0 == r

/-- The operation of a collective command. -/
def collOp : Instr → CollOp
  | .coll _ _ _ _ o => o
  | _ => .bcast

/-- The type of a collective command: its source's (R168). -/
def EngCmd.ty (c : EngCmd) : ETy := (ETy.ofCode (dFmt c.db)).getD .i8

/-- The members agree on operation, type and T, and a scatter divides T (R168). -/
def collAgrees (l : List (TileIx × EngCmd)) (n : Nat) : Bool :=
  match l with
  | [] => false
  | (_, c) :: rest =>
    (rest.all fun p => collOp p.2.instr == collOp c.instr && p.2.ty == c.ty && dTotal p.2.db == dTotal c.db) &&
    (collOp c.instr != .sumscat || dTotal c.db % n == 0)

/-- The values of a member's source, in index order. -/
def State.sources (s : State) (t : TileIx) (c : EngCmd) : EngR (List Nat) :=
  (List.range (dTotal c.db)).foldl (fun r k => match r with
    | .error e => .error e
    | .ok (s, l) => match s.engRead t c (dSpc c.db) (dAt c.db k) ((dBits c.db + 7) / 8) with
      | .error e => .error e
      | .ok (s1, bs) => .ok (s1, l ++ [streamValue c.db k bs])) (.ok (s, []))

/-- One step of a reduction (R169). -/
def collStep (isMax : Bool) (t : ETy) (a x : Nat) : Nat :=
  match binFmt t with
  | none => if isMax then (minMaxInt t true a x).1 else (a + x) % 2 ^ t.width
  | some f =>
    if isMax then
      (if (f.read a).isNan || (f.read x).isNan then f.nanPat else (floatMinMax t true a x).1)
    else (floatOp .add t .rne a x 0).1

/-- The reduction of the members' sources, in ascending rank order, element by element (R169). -/
def collReduce (isMax : Bool) (t : ETy) : List (List Nat) → List Nat
  | [] => []
  | x :: rest => rest.foldl (fun acc y => (acc.zip y).map fun p => collStep isMax t p.1 p.2) x

/-- What the destination of the member of rank r receives (R168). -/
def collResult (o : CollOp) (t : ETy) (srcs : List (List Nat)) (r : Nat) : List Nat :=
  match o with
  | .bcast => srcs.headD []
  | .gather => srcs.flatten
  | .sum => collReduce false t srcs
  | .max => collReduce true t srcs
  | .sumscat =>
    let l := collReduce false t srcs
    let k := l.length / srcs.length
    (l.drop (r * k)).take k

/-- Values written to the destination of a member, in index order; the state keeps what was written before a stop. The values
have the type and width of the sources; a destination descriptor of another type only gives their places, the model's choice
(log entry 90). -/
def State.putValues (t : TileIx) (c : EngCmd) : List (Nat × Nat) → State → State × Option EngStop
  | [], s => (s, none)
  | (k, v) :: l, s =>
    let w := dBits c.db
    let ps := if w < 8 then [bitPatch (dBitOff c.da (dIndex c.da k).1) w v] else (leBytes (w / 8) v).map Patch.full
    match State.engPutAll t (dAt c.da k) ps [id] s c with
    | .error e => (s, some e)
    | .ok (s1, _) => State.putValues t c l s1

/-- The source values of a member on a peer device, or of one whose data does not arrive: they are not known here. -/
def State.freeSource (s : State) (c : EngCmd) : State × List Nat :=
  (List.range (dTotal c.db)).foldl (fun r _ =>
    let ch := r.1.choose (2 ^ c.ty.width)
    (ch.2, r.2 ++ [ch.1])) (s, [])

/-- The sources of all members, in rank order; the first member that stops, otherwise. -/
def State.allSources (c : EngCmd) : List (Option (TileIx × EngCmd)) → State →
    Except (TileIx × EngCmd × EngStop) (State × List (List Nat))
  | [], s => .ok (s, [])
  | none :: l, s =>
    let x := s.freeSource c
    match State.allSources c l x.1 with
    | .error e => .error e
    | .ok (s2, xs) => .ok (s2, x.2 :: xs)
  | some (t, e) :: l, s =>
    match s.sources t e with
    | .error k => .error (t, e, k)
    | .ok (s1, x) => match State.allSources c l s1 with
      | .error k => .error k
      | .ok (s2, xs) => .ok (s2, x :: xs)

/-- The destinations of all members here written; a member whose translation parks or who waits stops the whole, and nothing
has moved. -/
def State.allPut (srcs : List (List Nat)) : List (Nat × Option (TileIx × EngCmd)) → State →
    Except (TileIx × EngCmd × EngStop) State
  | [], s => .ok s
  | (_, none) :: l, s => State.allPut srcs l s
  | (r, some (t, c)) :: l, s =>
    let vs := collResult (collOp c.instr) c.ty srcs r
    match State.putValues t c ((List.range vs.length).zip vs) s with
    | (s1, none) => State.allPut srcs l (s1.setCmd t .coll { c with result := some (engCode 0) })
    | (s1, some (.done o)) => State.allPut srcs l (s1.setCmd t .coll { c with result := some o })
    | (_, some e) => .error (t, c, e)

/-! ### Members that end without the whole result (R170, R400) -/

/-- Some of a member's results written, word by word: which words hold the result and which the old value is not fixed. -/
def State.putSome (t : TileIx) (c : EngCmd) : Nat → List (Nat × Nat) → State → State
  | 0, _, s => s
  | _, [], s => s
  | fuel + 1, (k, v) :: l, s =>
    let n := sameWord c.da k 64
    let ch := s.choose 2
    State.putSome t c fuel (((k, v) :: l).drop n)
      (if ch.1 = 1 then (State.putValues t c (((k, v) :: l).take n) ch.2).1 else ch.2)

/-- One member ends with a code, its destination holding per 8-byte word the old value or the result, where that is known (R170,
R400). -/
def State.endMember (srcs : Option (List (List Nat))) (code : BitVec 8) (s : State) (p : TileIx × EngCmd) : State :=
  let vs := match srcs with
    | none => []
    | some l => collResult (collOp p.2.instr) p.2.ty l (collRank p.2.s0)
  (State.putSome p.1 p.2 (vs.length + 1) ((List.range vs.length).zip vs) s).setCmd p.1 .coll
    { p.2 with result := some (engCode code), parked := false }

/-- Members of the collective of a command end with a code: the sources of all its members are read once, before any of them is
gone (R168, R170). -/
def State.endTogether (s : State) (rs : List (Option (TileIx × EngCmd))) (c : EngCmd) (l : List (TileIx × EngCmd))
    (code : BitVec 8) : State :=
  if collAgrees (rs.filterMap id) (collN c.s0) then
    match State.allSources c rs s with
    | .ok (s1, srcs) => l.foldl (State.endMember (some srcs) code) s1
    | .error _ => l.foldl (State.endMember none code) s
  else l.foldl (State.endMember none code) s

/-- Members end with a code, those of one collective together. -/
def State.endMembers (code : BitVec 8) : Nat → List (TileIx × EngCmd) → State → State
  | 0, _, s => s
  | _, [], s => s
  | n + 1, p :: l, s =>
    let rs := s.ranks p.1 p.2
    let mine (q : TileIx × EngCmd) : Bool := rs.contains (some q)
    State.endMembers code n (l.filter fun q => !mine q) (s.endTogether rs p.2 (p :: l.filter mine) code)

/-! ### The events -/

/-- A collective whose members have arrived: they are compared, and the data moves (R168, R169). Members on peer devices agree
or not, with sources of their own; neither is fixed (R369). -/
def State.collGo (s : State) (c : EngCmd) (rs : List (Option (TileIx × EngCmd))) : State :=
  let ms := rs.filterMap id
  let far := if ms.length < rs.length then s.choose 2 else (1, s)
  if !collAgrees ms (collN c.s0) || far.1 = 0 then
    ms.foldl (fun s p => s.setCmd p.1 .coll { p.2 with result := some (engCode 14) }) far.2
  else match State.allSources c rs far.2 with
    | .error (u, e, k) => s.engStopped u .coll e k
    | .ok (s1, srcs) =>
      match State.allPut srcs ((List.range rs.length).zip rs) s1 with
      | .error (u, e, k) => s.engStopped u .coll e k
      | .ok s2 => s2

/-- The members here can go on: their engines run, and none of their queues waits for a translation. -/
def State.collRuns (s : State) (rs : List (Option (TileIx × EngCmd))) : Bool :=
  rs.all fun o => o.all fun p => s.engineRuns p.1 && !((s.tile p.1).queue .coll).cmds.any (·.parked)

/-- The links to the peers configured for a context: which are ready (R369, R410). -/
def State.peerLinks (s : State) (c : CtxNo) : List Bool :=
  ((List.range 32).filter (s.ctx c).peers.getLsbD).map fun p =>
    s.port.ready0.getLsbD (20 + (Config.linkOf (BitVec.ofNat 5 p)).toNat)

/-- COLLECTIVE_ALL_ARRIVED: with every rank arrived the members are compared and the data moves. A collective of the link
domain has the ranks that no tile here has on peer devices: whether they have arrived is not fixed. With no peer configured they
name a device that is not there; a peer whose link is not ready gives LINK, and whether the collective needs one that is not, where
others are, is not fixed (R168 to R170, R369, R410). -/
def execCollectiveAllArrived (t : TileIx) (s : State) : Out :=
  if !s.engineRuns t then .next s
  else match (s.tile t).collectives.find? fun c => (s.ranks t c).all (·.isSome) with
    | some c => .next (if s.collRuns (s.ranks t c) then s.collGo c (s.ranks t c) else s)
    | none => match (s.tile t).collectives.find? fun c => collLevel c.s0 == 4 with
      | none => .next s
      | some c =>
        if !s.collRuns (s.ranks t c) then .next s
        else if (s.ctx c.ctx).peers == 0 then .next (s.endMembers 10 1 [(t, c)])
        else if s.peerLinks c.ctx |>.all (!·) then .next (s.endMembers 11 1 [(t, c)])
        else
          let ch := s.choose (if s.peerLinks c.ctx |>.all id then 2 else 3)
          .next (if ch.1 = 1 then ch.2.collGo c (s.ranks t c)
            else if ch.1 = 2 then ch.2.endMembers 11 1 [(t, c)]
            else ch.2)

/-- COLLECTIVE_TIMEOUT: the collective at the head of a queue has stalled as long as the watchdog allows; every member that
waits on it completes TIMEOUT (R170). -/
def execCollectiveTimeout (t : TileIx) (s : State) : Out :=
  match (s.tile t).started .coll with
  | none => .next s
  | some c =>
    if !s.engineRuns t || c.result.isSome || c.parked || c.leftNs != 0 then .next s
    else
      let l := (s.ranks t c).filterMap id
      .next (s.endMembers 9 l.length l)

/-- The data of a started command crosses a link: a peer copy by the link of its peer; whether a collective of the link
domain crosses it is not fixed (R170). -/
def State.crosses (s : State) (l : BitVec 3) (c : EngCmd) : Bool × State :=
  match c.instr with
  | .cpyPeer .. => (Config.linkOf (c.s0.extractLsb' 0 5) == l, s)
  | .coll .. =>
    if collLevel c.s0 == 4 then
      let r := s.choose 2
      (r.1 == 1, r.2)
    else (false, s)
  | _ => (false, s)

/-- The started commands of a tile that a link failure may end: peer copies and collectives. -/
def Tile.linked (x : Tile) : List (QueueId × EngCmd) :=
  (match x.started .cpy with
    | some c => if c.result.isNone then [(QueueId.cpy, c)] else []
    | none => []) ++ x.collectives.map fun c => (QueueId.coll, c)

/-- The started commands of all tiles whose data crosses a link. -/
def State.crossing (s : State) (l : BitVec 3) : State × List (TileIx × QueueId × EngCmd) :=
  allTiles.foldl (fun r t => (s.tile t).linked.foldl (fun r p =>
    let x := r.1.crosses l p.2
    (x.2, if x.1 then r.2 ++ [(t, p.1, p.2)] else r.2)) r) (s, [])

/-- YALTAN_LINK_FAILURE: started peer copies and collectives whose data crossed the link complete with code LINK (R170). -/
def execYaltanLinkFailure (l : BitVec 3) (s : State) : Out :=
  let r := s.crossing l
  let ms := (r.2.filter fun p => p.2.1 == .coll).map fun p => (p.1, p.2.2)
  .next ((r.2.filter fun p => p.2.1 != .coll).foldl (fun s p =>
    s.setCmd p.1 p.2.1 { p.2.2 with parked := false, result := some (engCode 11) }) (r.1.endMembers 11 ms.length ms))

end Sys2Proof.Machine
end

