-- ==== Sys2Proof/Machine/Fetch.lean ====
section
/-! DEFINITION. Fetching a bundle and the checks before its slots execute (R34, R37, R39, R47, R121, R356). -/

namespace Sys2Proof.Machine

/-- What a fetch gives: the bytes from the pc to the end of its line, or nothing yet. -/
inductive FetchR where
  | ok (bytes : List Byte) (s : State)
  | parked (s : State)
  | trap (f : TrapRec)

/-- The code bytes from an address to the end of its line (R34, R121, R356): from the instruction cache, or translated
and filled. -/
def State.codeAt (s : State) (t : TileIx) (a : Addr48) : Except GFail (State × List Byte) :=
  let x := s.tile t
  let c := x.regs.ctl.ctxn
  let base := a &&& 0xFFFFFFFFFFC0#48
  let asid := (s.ctx c).asid
  let cut (l : List Byte) : List Byte := l.drop (a.toNat % 64)
  match x.ic.find? fun l => l.asid == asid && l.va == base with
  | some l => .ok (s, cut l.bytes)
  | none =>
    match s.gPlan t c .fetch false [(base, 64)] with
    | .error e => .error e
    | .ok (s1, l) =>
      let r := s1.gFetch t c false false State.ctlBytes l
      .ok (r.1.modTile t fun x => { x with ic := x.ic ++ [⟨asid, base, r.2⟩] }, cut r.2)

/-- The fetch at the pc of the task on a tile. A failed translation parks (R356, R357). -/
def State.fetchLine (s : State) (t : TileIx) : FetchR :=
  let x := s.tile t
  let c := x.regs.ctl.ctxn
  match s.codeAt t x.regs.pc with
  | .ok (s1, bs) => .ok bs s1
  | .error (.park va m) => .parked (if s.parkFull t then s else s.park t c va .fetch m .fetch)
  | .error (.prot va) =>
    .trap { cause := causeProt, sub := 0, slot := 10, replay := false, step := false, addr := va.signExtend 64,
            pc := x.regs.pc.zeroExtend 64 }

/-- What follows the bundle at an address, by the header there (R35, R36). -/
def followHeader (a : Addr48) (h : BitVec 16) : Addr48 :=
  if h.getLsbD 13 then nextLine a
  else a + 2 + 4 * BitVec.ofNat 48 (((List.range 8).filter fun i => h.getLsbD i).length)

/-- The address after the bundle at `a`, whose header an instruction reads as an instruction fetch (R81, R382). A failed
translation parks, and the instruction waits; `faddr` is the `FADDR` of a fault of that read. For a `LOOP` with a count of 0 the spec
does not say how PROT, or XLATE of the parked read, is taken: as an execution cause of its slot with REPLAY, `FPC` the bundle of the
`LOOP` and `FADDR` LEk, the model's choice (log entry 94). -/
def State.bundleAfter (s : State) (i : Instr) (a : Addr48) (faddr : Word) (k : State → Addr48 → Out) : Out :=
  match s.codeAt s.cur a with
  | .ok (s1, bs) => k s1 (followHeader a ((bs.getD 1 0) ++ (bs.getD 0 0)))
  | .error (.park _ m) => s.parkWait i s.ctxn a .fetch m
  | .error (.prot _) => .next (s.execTrap causeProt faddr 0)

/-- A fault of a bundle as a whole or of one of its slots, found before its slots execute (R47, R48, R374). -/
def bundleTrap (cause : BitVec 8) (slot : BitVec 4) (addr : Word) (pc : Addr48) : TrapRec :=
  { cause := cause, sub := 0, slot := slot, replay := false, step := false, addr := addr, pc := pc.zeroExtend 64 }

/-- The cause of a refused encoding (R46). -/
def rejectCause : Reject → BitVec 8
  | .illegalOp => causeIllegalOp
  | .reservedField => causeReservedField

/-- The fault of a refused bundle (R48, R374). -/
def rejectTrap (r : BundleReject) (pc : Addr48) : TrapRec :=
  bundleTrap (rejectCause r.cause) (BitVec.ofNat 4 (min r.loc 8)) (r.word ++ BitVec.ofNat 32 r.loc) pc

/-- The first slot whose destination an earlier slot of the bundle names too (R21). -/
def destConflict : List RegId → List SlotInstr → Option SlotInstr
  | _, [] => none
  | seen, si :: rest =>
    let w := si.instr.writes.filter RegId.takesWrites
    if w.any fun r => seen.contains r then some si else destConflict (seen ++ w) rest

/-- The instruction is refused for its mode, in the state before the bundle (R47 step 5, R351, R382). -/
def privRefused (c : Ctl) : Instr → Bool
  | .movc _ cr => decide (0x18 ≤ cr.toNat) && decide (cr.toNat ≤ 0x1D) && !c.hnd && !c.sys
  | .movcw _ cr => crSystemWrite cr && !c.sys
  | .sleepOff => !c.sys
  | .tlbinvPage .. => !c.sys
  | .tlbinvAsid .. => !c.sys
  | .tlbinvAll .. => !c.sys
  | .rett .. => !c.hnd
  | .rettSkip .. => !c.hnd
  | _ => false

/-- The cycle from which a register is ready. -/
def Tile.readyAt (x : Tile) (r : RegId) : Nat := (assocGet x.pending r).getD 0

/-- The first register of a bundle that still awaits a result of class F1 to F16 at a cycle (R39). -/
def undersized (x : Tile) (cycle : Nat) (l : List SlotInstr) : Option (SlotInstr × Word) :=
  firstOf (fun si : SlotInstr => firstOf (fun r => match r.code with
    | none => none
    | some a => if cycle < x.readyAt r then some (si, a) else none) si.instr.needs) l

/-- A chain of n slots from slot j uses a slot (R232). -/
def steepUses (j : BitVec 2) (n : Nat) (a : BitVec 2) : Bool := decide (j.toNat ≤ a.toNat) && decide (a.toNat < j.toNat + n)

/-- A matrix instruction in flight keeps a resource busy, or a Steep slot in use (R22, R245). -/
def MxOp.holds (m : MxOp) (r : RegId) (write : Bool) : Bool :=
  match m.kind, r with
  | .mldw l _ _ _ _, .w a => l == a
  | .mma c _ _ _ _ _, .c a => c == a
  | .mma _ l _ _ _ _, .w a => write && l == a
  | .mdrain c _ _ _, .c a => c == a
  | .steepld _ ms, .slot a => ms.getLsbD a.toNat
  | .mldw _ true j c g, .slot a => write && steepUses j ((c.toNat + 1) * (g.toNat + 1)) a
  | .mma _ _ true j c _, .slot a => write && steepUses j (c.toNat + 1) a
  | _, _ => false

/-- A register that handler mode has its own copy of (R377). -/
def RegId.isBanked : RegId → Bool
  | .s a => decide (56 ≤ a.toNat)
  | .p a => a == 7
  | .cr n => n == 0x009
  | _ => false

/-- The instruction of the M slot sets flags of `FPFLAGS` once it has been performed (R140, R142). -/
def flagsLate : Instr → Bool
  | .amof .. | .vamo .. => true
  | _ => false

/-- A register awaits an access that is performed beside the task's bundles (R22, R357), in the mode that issued it (R377). A read
of `FPFLAGS` awaits those that set flags (R195). -/
def Tile.awaited (x : Tile) (write : Bool) (r : RegId) : Bool :=
  x.accs.any fun a =>
    (!r.isBanked || a.src.ctl.hnd == x.banked.isSome) &&
    ((r.takesWrites && a.instr.writes.contains r) || (r == .cr 0x009 && !write && flagsLate a.instr))

/-- A register is busy in a way the scoreboard always interlocks on: a token pending, an access or matrix work in flight (R22), or,
for a read of `FPFLAGS`, an instruction that has still to set flags (R195). -/
def Tile.busy (x : Tile) (write : Bool) (r : RegId) : Bool :=
  (match r with
  | .s a => a != 0 && (x.eng.toList.any (fun q => q.cmds.any fun c => c.live && c.token == a && (a.toNat < 56 || c.hnd == x.banked.isSome)) ||
      x.mupd.any fun m => m.live && m.token == a && (a.toNat < 56 || m.hnd == x.banked.isSome))
  | .cr n => n == 0x009 && !write && x.mx.ops.any fun m => m.isDrain && m.hnd == x.banked.isSome
  | _ => false) || x.awaited write r || x.mx.ops.any fun m => m.holds r write

/-- A resource an instruction needs is busy (R22). -/
def Tile.blocked (x : Tile) (i : Instr) : Bool := i.reads.any (x.busy false) || i.writes.any (x.busy true)

/-- The registers for whose results an instruction waits: a write of `FPFLAGS` does not wait for flags (R21, R195). -/
def awaits (i : Instr) : List RegId := i.reads ++ i.writes.filter fun r => r != .cr 0x009

/-- The cycle at which a bundle issues: its earliest cycle, once every register it needs is ready and every vector unit
it needs is free (R37, R38, R194). -/
def Tile.issueCycle (x : Tile) (earliest : Nat) (l : List SlotInstr) : Nat :=
  l.foldl (fun c si =>
    let c1 := (awaits si.instr).foldl (fun c r => max c (x.readyAt r)) c
    match si.instr.unit with
    | none => c1
    | some (u, _) => max c1 (x.units[(VUnit.ix u).val]'(VUnit.ix u).isLt)) (max earliest x.cyc)

/-- The instruction may set flags of `FPFLAGS` when its result becomes usable (R72 to R77, R195). -/
def setsFlags (i : Instr) : Bool :=
  i.unit.isSome || (match i with
    | .div .. | .divn .. | .rem .. | .remn .. => true
    | .sfadd .. | .sfsub .. | .sfmul .. | .sfma .. | .sfmin .. | .sfmax .. | .sfcmp .. | .sfcvt .. => true
    | _ => false)

/-- The time at which a destination of an instruction becomes usable, counted from its issue: the class of R38, with the
latch of `VCVT.RES` in class F8 (R225). -/
def resultTime (i : Instr) (r : RegId) : Nat :=
  match i, r with
  | .vcvtRes .., .q _ => 8
  | _, _ => i.latency

/-- The results an instruction makes pending from its start: the destinations that take writes (R19), and the flags that a
read of `FPFLAGS` waits for (R195). -/
def resultsOf (i : Instr) : List RegId := i.writes.filter RegId.takesWrites ++ (if setsFlags i then [.cr 0x009] else [])

/-- A register pending until a cycle, or until a later one it already waits for. -/
def pendUntil (l : List (RegId × Nat)) (r : RegId) (n : Nat) : List (RegId × Nat) :=
  assocSet l r (max n ((assocGet l r).getD 0))

/-- The flags a slot of the bundle being issued has set. -/
def Issue.raisedBy (i : Issue) (slot : Nat) : Flags := i.raised.foldl (fun f p => if p.1 == slot then f ||| p.2 else f) 0

/-- The cycle in which an instruction of a bundle that issues at a cycle starts: when V0 and V1 need one unit, V1 starts when V0
releases it (R38, R194). -/
def startAt (cycle : Nat) (units : Vector Nat 7) (i : Instr) : Nat :=
  match i.unit with
  | none => cycle
  | some (u, _) => max cycle (units[(VUnit.ix u).val]'(VUnit.ix u).isLt)

/-- The scoreboard of a tile: the results on their way, the flags that come with them, and the units. -/
def Tile.scoreSlot (cycle : Nat) (i : Issue) (x : Tile) (si : SlotInstr) : Tile :=
  let start := startAt cycle x.units si.instr
  let f := i.raisedBy si.slot.index
  { x with
    pending := if si.instr.latency = 0 && si.instr.unit.isNone then x.pending
      else (resultsOf si.instr).foldl (fun q r => pendUntil q r (start + resultTime si.instr r)) x.pending
    late := if f == 0 || si.instr.latency = 0 then x.late
      else (start + si.instr.latency, (i.src.getD .reset).ctl.hnd, f) :: x.late
    units := match si.instr.unit with
      | none => x.units
      | some (u, n) => x.units.set (VUnit.ix u).val (start + n) (VUnit.ix u).isLt }

/-- The scoreboard after a bundle has issued at a cycle: the results it awaits, with the flags they set, and the units it occupies
(R38, R194, R195). A register that is written is no longer poisoned (R391); the save directory notes writes of volatile state
(R394). -/
def Tile.score (x : Tile) (cycle : Nat) (l : List SlotInstr) : Tile :=
  let y := l.foldl (fun x si => x.touch si.instr) x
  l.foldl (Tile.scoreSlot cycle x.issue)
    { y with
      pending := x.pending.filter fun p => decide (cycle < p.2), late := x.late.filter fun p => decide (cycle ≤ p.1)
      regPoison := if x.regPoison.isEmpty then [] else x.regPoison.filter fun p => !l.any fun si => si.instr.writes.contains p }

/-- A poisoned register that a bundle reads, in the order the slots read (R391). -/
def Tile.poisonedReg (x : Tile) (l : List SlotInstr) : Option (SlotInstr × RegId) :=
  if x.regPoison.isEmpty then none
  else firstOf (fun si : SlotInstr => (si.instr.reads.find? fun r => x.regPoison.contains r).map fun r => (si, r)) l

/-- The checks of steps 4 to 6 of R47 on a decoded bundle whose earliest cycle is given, and the poisoned registers of
R391. -/
def State.earlyTrap (s : State) (t : TileIx) (earliest : Nat) (l : List SlotInstr) : Option TrapRec :=
  let x := s.tile t
  let pc := x.regs.pc
  let idx (si : SlotInstr) : BitVec 4 := BitVec.ofNat 4 si.slot.index
  match destConflict [] l with
  | some si => some (bundleTrap causeIllegalOp 8 (si.word ++ 10#32) pc)
  | none =>
    match l.find? fun si => privRefused x.regs.ctl si.instr with
    | some si => some (bundleTrap causePriv (idx si) (si.word ++ BitVec.ofNat 32 si.slot.index) pc)
    | none =>
      match (if x.regs.ctl.sbchk then undersized x earliest l else none) with
      | some (si, a) => some (bundleTrap causeSbUndersize (idx si) a pc)
      | none =>
        match x.poisonedReg l with
        | some (si, r) => some { (bundleTrap causeEccUncorr (idx si) (r.code.getD 0) pc) with sub := 1 }
        | none => none

end Sys2Proof.Machine
end

