-- ==== Sys2Proof/Machine/Control.lean ====
section
/-! DEFINITION. The control space: transfers, hardware loops, breakpoints and the control registers (R78 to R85). -/

namespace Sys2Proof.Machine

/-! ### Transfers (R78, R79) -/

/-- A taken transfer (R36). -/
def State.jump (s : State) (a : Addr48) : State := s.modIssue fun i => { i with npc := some a }

/-- A target relative to the bundle: its header address plus twice the offset (R36). -/
def State.target (s : State) (o : BitVec 21) : Addr48 := s.pc + o.signExtend 48 <<< (1 : Nat)

/-- The address after the bundle, in a scalar register (R79). -/
def State.returnAddr (s : State) : Word := (s.pc + BitVec.ofNat 48 s.t.issue.size).zeroExtend 64

/-- A transfer to the address a register holds; a set bit 0 raises MISALIGN (R36, R79). -/
def State.jumpReg (s : State) (ra : Word) (k : State → State) : Out :=
  if ra.getLsbD 0 then s.issueTrap causeMisalign ra else .next ((k s).jump (ra.extractLsb' 0 48))

/-- `BR` (R78). -/
def execBr (q : PReg) (neg : Bool) (o : BitVec 21) (s : State) : Out :=
  .next (if s.cond q neg then s.jump (s.target o) else s)

/-- The innermost active loop ended (R82). -/
def State.endLoop (s : State) : State :=
  let c := s.src.ctl
  s.modCtl fun r =>
    if c.loop1.lc != 0 then { r with loop1 := { r.loop1 with lc := 0 } } else { r with loop0 := { r.loop0 with lc := 0 } }

/-- `BRP`: when taken, it also ends the innermost active loop (R78, R82). -/
def execBrp (q : PReg) (neg : Bool) (o : BitVec 21) (s : State) : Out :=
  .next (if s.cond q neg then s.endLoop.jump (s.target o) else s)

/-- `JR` (R79). -/
def execJr (a : SReg) (neg : Bool) (q : PReg) (s : State) : Out :=
  if s.cond q neg then s.jumpReg (s.rdS a) id else .next s

/-- `CALL` (R79). -/
def execCall (q : PReg) (neg : Bool) (o : BitVec 21) (s : State) : Out :=
  .next (if s.cond q neg then (s.wrS 63 s.returnAddr).jump (s.target o) else s)

/-- `CALLR`: the target is read before `s63` is written (R79). -/
def execCallr (a : SReg) (neg : Bool) (q : PReg) (s : State) : Out :=
  if s.cond q neg then s.jumpReg (s.rdS a) fun s => s.wrS 63 s.returnAddr else .next s

/-- `RET` (R79). -/
def execRet (a : SReg) (neg : Bool) (q : PReg) (s : State) : Out :=
  if s.cond q neg then s.jumpReg (s.rdS a) id else .next s

/-! ### Hardware loops (R81) -/

/-- Loop k programmed; the loop's own count does not step in this bundle (R81, R82). R82 says what the end check sees only for
`MOVCW`: a `LOOP` that stands at the old end of its own active loop is checked against the old registers, the model's choice
(log entry 93). -/
def State.setLoop (s : State) (l : Bool) (x : LoopRegs) : State :=
  (s.modCtl fun c => if l then { c with loop1 := x } else { c with loop0 := x }).modIssue fun i =>
    if l then { i with wroteLc1 := true } else { i with wroteLc0 := true }

/-- The effect of `LOOP` and `LOOPI`; a count of 0 transfers past the loop's end (R81). A PROT of the header read there is an
execution cause with `FADDR` the loop's end, and the loop registers stay as they were: the model's choice (log entry 94). -/
def State.loop (s : State) (i : Instr) (l : Bool) (count : BitVec 32) (off : Nat) : Out :=
  if 2 * off < s.t.issue.size then s.illegal
  else
    let le := s.pc + BitVec.ofNat 48 (2 * off)
    let x : LoopRegs := ⟨count, s.pc + BitVec.ofNat 48 s.t.issue.size, le⟩
    if count == 0 then s.bundleAfter i le (le.zeroExtend 64) fun s a => .next ((s.setLoop l x).jump a) else .next (s.setLoop l x)

/-- `LOOP` (R81). -/
def execLoop (l : Bool) (a : SReg) (e : BitVec 18) (s : State) : Out :=
  s.loop (.loop l a e) l ((s.rdS a).extractLsb' 0 32) e.toNat

/-- `LOOPI` (R81). -/
def execLoopi (l : Bool) (n e : BitVec 12) (s : State) : Out := s.loop (.loopi l n e) l (n.zeroExtend 32) e.toNat

/-- `BRK` raises BRK at issue (R83). -/
def execBrk (i : BitVec 19) (s : State) : Out := s.issueTrap causeBrk (i.zeroExtend 64)

/-! ### Control registers (R26 to R30, R84, R85) -/

/-- A timeline register (R28). -/
def State.timeline (s : State) (q : QueueId) : Word := seqNum s.cur q (s.t.queue q).timeline

/-- The value of a control register (R26, R29). -/
def State.readCr (s : State) (cr : BitVec 10) : Word :=
  let c := s.src.ctl
  let x := s.t
  match cr.toNat with
  | 0x00 => c.task
  | 0x01 => c.ctxWord
  | 0x02 => s.cur.zeroExtend 64
  | 0x03 => c.prio.zeroExtend 64
  | 0x04 => c.holdWord
  | 0x08 => c.rmodeWord
  | 0x09 => c.fpflags.zeroExtend 64
  | 0x0A => (BitVec.ofBool c.sbchk).zeroExtend 64
  | 0x0B => c.srseed.zeroExtend 64
  | 0x10 => c.oobAddr.zeroExtend 64
  | 0x11 => c.oobWord
  | 0x18 => c.bank1.cause
  | 0x19 => c.bank1.addr
  | 0x1A => c.bank1.pc
  | 0x1B => c.bank2.cause
  | 0x1C => c.bank2.addr
  | 0x1D => c.bank2.pc
  | 0x1E => x.view.trapv.zeroExtend 64
  | 0x20 => c.ashape.zeroExtend 64
  | 0x21 => c.mxWord
  | 0x22 => x.mx.w[0].srcWord
  | 0x23 => x.mx.w[1].srcWord
  | 0x28 => c.persb.zeroExtend 64
  | 0x29 => c.persl.zeroExtend 64
  | 0x2A => c.livev.zeroExtend 64
  | 0x30 => (x.spseg c.ctxn).zeroExtend 64
  | 0x31 => BitVec.ofInt 64 (s.ctx c.ctxn).quota
  | 0x38 => s.time
  | 0x39 => BitVec.ofNat 64 x.cyc
  | 0x40 => c.loop0.lc.zeroExtend 64
  | 0x41 => c.loop0.ls.zeroExtend 64
  | 0x42 => c.loop0.le.zeroExtend 64
  | 0x43 => c.loop1.lc.zeroExtend 64
  | 0x44 => c.loop1.ls.zeroExtend 64
  | 0x45 => c.loop1.le.zeroExtend 64
  | 0x48 => s.timeline .cpy
  | 0x49 => s.timeline .gath
  | 0x4A => s.timeline .coll
  | 0x4B => s.timeline .strm
  | 0x50 => c.qjoin.zeroExtend 64
  | 0x51 => c.qmembWord
  | 0x52 => c.qframeWord
  | 0x58 => x.view.holdlim.zeroExtend 64
  | 0x59 => x.view.fewdog.zeroExtend 64
  | 0x5A => x.view.pipewdog.zeroExtend 64
  | 0x5B => x.view.quantum.zeroExtend 64
  | _ => 0

/-- A fault register: `FCAUSE` to `FPC2` (R26). -/
def crFault (cr : BitVec 10) : Bool := decide (0x18 ≤ cr.toNat) && decide (cr.toNat ≤ 0x1D)

/-- `MOVC`: a read of a fault register in task mode raises PRIV, and in handler mode arms the handler (R26, R84, R379). -/
def execMovc (d : SReg) (cr : BitVec 10) (s : State) : Out :=
  checked (.movc d cr) s <|
  if crFault cr && !s.src.ctl.hnd && !s.system then s.issueTrap causePriv s.whereWord
  else
    let s1 := s.wrS d (s.readCr cr)
    .next (if crFault cr && s.src.ctl.hnd then s1.modT fun x => { x with armed := true } else s1)

/-- The participating bands set; the wake of each gated band named begins (R228). -/
def State.setShape (s : State) (b : BitVec 4) : State :=
  (s.modCtl fun c => { c with ashape := b }).modT fun x => { x with mx := { x.mx with waking := x.mx.waking ||| (x.mx.gated &&& b) } }

/-- A context-scoped register set for the context of the task, and seen at once on its tile (R26, R27). -/
def State.setView (s : State) (f : CtxView → CtxView) (g : Context → Context) : State :=
  (s.modT fun x => { x with view := f x.view }).modCtx s.ctxn g

/-- An address of a loop register or handler: bits 63:48 and bit 0 are stored as zero (R30, R84). -/
def evenAddr (w : Word) : Addr48 := w.extractLsb' 0 48 &&& 0xFFFFFFFFFFFE#48

/-- The flags that slots of the bundle set. -/
def Issue.raisedAll (i : Issue) : Flags := i.raised.foldl (fun f p => f ||| p.2) 0

/-- The flags of `FPFLAGS` that results still on their way set in this cycle or later, in a mode (R21, R195). -/
def Tile.lateFlags (x : Tile) (hnd : Bool) : Flags :=
  x.late.foldl (fun f p => if decide (x.cyc ≤ p.1) && p.2.1 == hnd then f ||| p.2.2 else f) 0

/-- The effect of a write of a control register (R26, R29, R30, R84). -/
def State.writeCr (s : State) (cr : BitVec 10) (w : Word) : State :=
  let i := s.t.issue
  let lo : BitVec 32 := w.extractLsb' 0 32
  match cr.toNat with
  | 0x08 => s.modCtl fun c =>
    { c with rArith := w.extractLsb' 0 2, rCvt := if 5 ≤ (w.extractLsb' 2 3).toNat then c.rCvt else w.extractLsb' 2 3 }
  | 0x09 => s.modCtl fun c => { c with fpflags := (c.fpflags &&& ~~~(w.extractLsb' 0 6)) ||| i.raisedAll ||| s.t.lateFlags s.src.ctl.hnd }
  | 0x0A => s.modCtl fun c => { c with sbchk := w.getLsbD 0 }
  | 0x0B => s.modCtl fun c => { c with srseed := if lo == 0 then 1 else lo }
  | 0x11 =>
    if w.getLsbD 0 then
      match i.oob with
      | none => s.modCtl fun c => { c with oobFlag := false, oobWr := false }
      | some (a, wr, _) => s.modCtl fun c => { c with oobFlag := true, oobWr := wr, oobAddr := a }
    else s
  | 0x1E => s.setView (fun v => { v with trapv := evenAddr w }) fun x => { x with trapv := evenAddr w }
  | 0x20 => if w.extractLsb' 0 4 == 0 then s else s.setShape (w.extractLsb' 0 4)
  | 0x28 => s.modCtl fun c => { c with persb := w.extractLsb' 0 21 &&& 0x1FFFC0 }
  | 0x29 => s.modCtl fun c => { c with persl := if (0x10000#64).ult w then 0x10000 else w.extractLsb' 0 17 &&& 0x1FFC0 }
  | 0x2A => s.modCtl fun c => { c with livev := lo }
  | 0x30 => s.writeSpseg s.cur w
  | 0x40 => (s.modCtl fun c => { c with loop0 := { c.loop0 with lc := lo } }).modIssue fun i => { i with wroteLc0 := true }
  | 0x41 => s.modCtl fun c => { c with loop0 := { c.loop0 with ls := evenAddr w } }
  | 0x42 => s.modCtl fun c => { c with loop0 := { c.loop0 with le := evenAddr w } }
  | 0x43 => (s.modCtl fun c => { c with loop1 := { c.loop1 with lc := lo } }).modIssue fun i => { i with wroteLc1 := true }
  | 0x44 => s.modCtl fun c => { c with loop1 := { c.loop1 with ls := evenAddr w } }
  | 0x45 => s.modCtl fun c => { c with loop1 := { c.loop1 with le := evenAddr w } }
  | 0x58 => s.setView (fun v => { v with holdlim := lo }) fun x => { x with holdlim := lo }
  | 0x59 => s.setView (fun v => { v with fewdog := lo }) fun x => { x with fewdog := lo }
  | 0x5A => s.setView (fun v => { v with pipewdog := lo }) fun x => { x with pipewdog := lo }
  | 0x5B => s.setView (fun v => { v with quantum := lo }) fun x => { x with quantum := lo }
  | _ => s

/-- `MOVCW` (R26, R84). -/
def execMovcw (a : SReg) (cr : BitVec 10) (s : State) : Out :=
  checked (.movcw a cr) s <|
  if crSystemWrite cr && !s.system then s.issueTrap causePriv s.whereWord else .next (s.writeCr cr (s.rdS a))

end Sys2Proof.Machine
end

