-- ==== Sys2Proof/Machine/Sx.lean ====
section
/-! DEFINITION. The shared-exponent formats: reading an element, and the choice of a block's exponents (R178 to R180,
R223). -/

namespace Sys2Proof.Machine

/-- The magnitude bits of an SX format (R178). -/
def SxFmt.mbits : SxFmt → Nat
  | .sx8 => 7
  | .sx4 => 3
  | .sx2 => 1

/-- The element bits of an SX format (R178). -/
def SxFmt.width (f : SxFmt) : Nat := SxFmt.mbits f + 1

/-- The bytes of a block's elements (R178). -/
def SxFmt.blockBytes (f : SxFmt) : Nat := 2 * SxFmt.width f

/-- The value of an element of a block with shared exponent `ex` and micro-exponent `mu` (R179). -/
def readSx (f : SxFmt) (ex mu x : Nat) : Num :=
  if ex = 255 then .nan false
  else .fin (x.testBit (SxFmt.mbits f)) (x % 2 ^ SxFmt.mbits f) ((ex : Int) - 127 - SxFmt.mbits f - mu)

/-- A block of 16 elements: exponent, micro-exponent byte and element patterns. -/
structure SxBlock where
  ex : Nat
  mu : Nat
  elems : List Nat
deriving DecidableEq, Repr

/-- The magnitude of a value in units of 2^(ex - 127 - m - u), to the nearest even integer (R223). -/
def sxQuant (f : SxFmt) (v : Num) (ex u : Nat) : Nat :=
  match v with
  | .fin _ m e => (roundToInt .rne false m (e - ((ex : Int) - 127 - SxFmt.mbits f - u))).1.natAbs
  | _ => 0

/-- The larger of two magnitudes. -/
def maxMag (a b : Num) : Num :=
  match a, b with
  | .fin _ m e, .fin _ m' e' => if (Num.fin false m e).lt (.fin false m' e') then b else a
  | _, _ => a

/-- The shared exponent of a block of finite values (R223). -/
def sxExponent (f : SxFmt) (xs : List Num) : Nat :=
  match xs.foldl maxMag (.fin false 0 0) with
  | .fin _ m e =>
    if m = 0 then 0
    else
      let e0 := (max 0 (e + (Nat.log2 m : Int) + 128)).toNat
      let e1 := if e0 ≤ 254 && sxQuant f (.fin false m e) e0 0 == 2 ^ SxFmt.mbits f then e0 + 1 else e0
      min e1 254
  | _ => 0

/-- The micro-exponent of a pair: 1 where both elements fit with it (R223). -/
def sxMicro (f : SxFmt) (ex : Nat) (a b : Num) : Nat :=
  if sxQuant f a ex 1 ≤ 2 ^ SxFmt.mbits f - 1 && sxQuant f b ex 1 ≤ 2 ^ SxFmt.mbits f - 1 then 1 else 0

/-- An element of a block and the flags of writing it (R223). -/
def sxElem (f : SxFmt) (ex mu : Nat) (v : Num) : Nat × Flags :=
  let q := sxQuant f v ex mu
  let top := 2 ^ SxFmt.mbits f - 1
  let m := min q top
  let x := m + if v.neg then 2 ^ SxFmt.mbits f else 0
  let nz : Bool := match v with
    | .fin _ k _ => k != 0
    | _ => false
  (x, flIf (decide (top < q)) flSAT ||| flIf (!(readSx f ex mu x).eq v) flNX ||| flIf (nz && m == 0) flUF)

/-- The values of a block written in an SX format (R223): a NaN block where a value is NaN or infinite. -/
def sxBlock (f : SxFmt) (xs : List Num) : SxBlock × Flags :=
  let bad := xs.any fun x => x.isNan || (match x with
    | .inf _ => true
    | _ => false)
  if bad then
    (⟨255, 0, xs.map fun _ => 0⟩,
     flIf (xs.any fun x => x.isSnan || (match x with
       | .inf _ => true
       | _ => false)) flNV)
  else
    let ex := sxExponent f xs
    let at' (i : Nat) : Num := xs.getD i (.fin false 0 0)
    let mu (j : Nat) : Nat := sxMicro f ex (at' (2 * j)) (at' (2 * j + 1))
    let es := (List.range 16).map fun i => sxElem f ex (mu (i / 2)) (at' i)
    (⟨ex, ((List.range 8).map fun j => mu j <<< j).foldl (· + ·) 0, es.map (·.1)⟩,
     (es.map (·.2)).foldl (· ||| ·) 0)

end Sys2Proof.Machine
end

