-- ==== Sys2Proof/Machine/Reduce.lean ====
section
/-! DEFINITION. The reduction slot and its latches, the vector conversions and the match unit (R216 to R224). -/

namespace Sys2Proof.Machine

/-- Terms added exactly to an A56 value and rounded once; without terms the value stands bit for bit and no flag is set, also where
it is a signalling NaN, the model's choice (R216, R217; log entry 91). -/
def a56Sum (old : BitVec 56) (terms : List Num) : BitVec 56 × Flags :=
  match terms with
  | [] => (old, 0)
  | _ =>
    let r := terms.foldl (fun (p : Num × Flags) x =>
      let q := p.1.add .rne x
      (q.1, p.2 ||| q.2)) (readNum .a56 old.toNat, 0)
    let w := convert .a56 .rne false r.1
    (BitVec.ofNat 56 w.1, r.2 ||| w.2)

/-- The governed elements of a register, in ascending order (R217). -/
def governed (t : ETy) (x : VWord) (mk : MWord) : List (Nat × Nat) :=
  ((List.range t.count).filter fun i => mk.getLsbD i).map fun i => (i, velem t x i)

/-- The terms of `.SUM` or `.SUMSQ`; a square is never -0 (R216, R217). -/
def sumTerm (sq : Bool) (x : Num) : Num := if sq then (x.mul x).1 else x

/-- An infinity of a sign. -/
def Num.isInf (neg : Bool) : Num → Bool
  | .inf n => n == neg
  | _ => false

/-- `RED.SUM` and `RED.SUMSQ` on a latch (R217). With no governed element a NaN in the latch becomes the canonical one, as the
pseudocode of R217 has it, where R216 keeps a latch bit for bit: the model's choice (log entry 91). -/
def redSum (sq : Bool) (q : RedLatch) (xs : List Num) : RedLatch × Flags :=
  let old := readNum .a56 q.value.toNat
  let clash := !sq && (xs.any (Num.isInf false)) && (xs.any (Num.isInf true))
  let sn := old.isSnan || xs.any Num.isSnan
  let r : BitVec 56 × Flags :=
    if old.isNan || xs.any Num.isNan || clash then
      (BitVec.ofNat 56 fmtA56.nanPat, flIf (sn || clash) flNV)
    else a56Sum q.value (xs.map (sumTerm sq))
  (⟨r.1, q.index + BitVec.ofNat 32 xs.length⟩, r.2)

/-- `RED.SUM` and `RED.SUMSQ` (R217). -/
def execRedSum (q : QReg) (a : VReg) (t : ETy) (mk : MReg) (sq : Bool) (s : State) : Out :=
  let r := redSum sq (s.rdQ q) ((governed t (s.rdV a) (s.rdM mk)).map fun p => readNum t p.2)
  .next ((s.wrQ q r.1).raise r.2)

/-- The best of a list of indexed values under the order of R75, the first of equals (R217). -/
def bestOf (mn : Bool) : List (Nat × Num) → Option (Nat × Num)
  | [] => none
  | p :: rest =>
    match bestOf mn rest with
    | none => some p
    | some r => if (if mn then r.2.below p.2 else p.2.below r.2) then some r else some p

/-- `RED.MAX` and `RED.MIN` on a latch, with the index base of vb (R217). -/
def redMax (mn : Bool) (q : RedLatch) (base : Nat) (xs : List (Nat × Num)) : RedLatch × Flags :=
  let nums := xs.filter fun p => !p.2.isNan
  let sn := xs.any fun p => p.2.isSnan
  match bestOf mn nums with
  | none => (q, flIf sn flNV)
  | some (i, b) =>
    let old := readNum .a56 q.value.toNat
    let better := old.isNan || (if mn then b.below old else old.below b)
    (if better then ⟨BitVec.ofNat 56 (convert .a56 .rne false b).1, BitVec.ofNat 32 (base + i)⟩ else q,
     flIf (sn || old.isSnan) flNV)

/-- `RED.MAX` and `RED.MIN` (R217). -/
def execRedMax (q : QReg) (a b : VReg) (t : ETy) (mk : MReg) (mn : Bool) (s : State) : Out :=
  checked (.redMax q a b t mk mn) s <|
    let r := redMax mn (s.rdQ q) (velem .n32 (s.rdV b) 0)
      ((governed t (s.rdV a) (s.rdM mk)).map fun p => (p.1, readNum t p.2))
    .next ((s.wrQ q r.1).raise r.2)

/-- `REDMV.GET`: the value as A56 or rounded to F32 (R218). -/
def execRedmvGet (q : QReg) (sc : SReg) (t : ETy) (s : State) : Out :=
  checked (.redmvGet q sc t) s <|
    match t with
    | .a56 => .next (s.wrS sc ((s.rdQ q).value.zeroExtend 64))
    | _ => .next (s.wrFloat sc .f32 (convert .f32 .rne false (readNum .a56 (s.rdQ q).value.toNat)))
/-- `REDMV.IDX` (R218). -/
def execRedmvIdx (q : QReg) (sc : SReg) (s : State) : Out := .next (s.wrS sc ((s.rdQ q).index.zeroExtend 64))
/-- `REDMV.ADD` (R218). -/
def execRedmvAdd (q qa : QReg) (s : State) : Out :=
  let r := a56Sum (s.rdQ q).value [readNum .a56 (s.rdQ qa).value.toNat]
  .next ((s.wrQ q ⟨r.1, (s.rdQ q).index + (s.rdQ qa).index⟩).raise r.2)
/-- `REDMV.SET`: the index is unchanged (R218). -/
def execRedmvSet (q : QReg) (sc : SReg) (s : State) : Out :=
  .next (s.wrQ q ⟨(s.rdS sc).extractLsb' 0 56, (s.rdQ q).index⟩)
/-- The latch a `REDCLR` value writes (R219). -/
def clrLatch : ClrVal → RedLatch
  | .zero => ⟨0, 0⟩
  | .ninf => ⟨BitVec.ofNat 56 (fmtA56.signed true fmtA56.infPat), BitVec.allOnes 32⟩
  | .pinf => ⟨BitVec.ofNat 56 fmtA56.infPat, BitVec.allOnes 32⟩
/-- `REDCLR`: every latch of the mask (R219). -/
def execRedclr (l : BitVec 4) (v : ClrVal) (s : State) : Out :=
  checked (.redclr l v) s <|
    .next (([0, 1, 2, 3] : List (BitVec 2)).foldl (fun s q => if l.getLsbD q.toNat then s.wrQ q (clrLatch v) else s) s)

/-- A wide pattern with one element replaced. -/
def setElem (w x i e : Nat) : Nat := x - (elemOf w x i) <<< (i * w) + (e % 2 ^ w) <<< (i * w)

/-- `VCVT` saturates into F4 and the 8-bit floats, and otherwise takes the special option (R221). -/
def cvtSat : ETy → Bool
  | .f4 | .f8e4 | .f8e5 => true
  | _ => false

/-- One element of `VCVT`: a copy where the types agree, except that a NaN becomes the canonical one (R221). -/
def cvtElem (sty dty : ETy) (mode : Mode) (x : Nat) : Nat × Flags :=
  if sty = dty then
    let v := readNum sty x
    if v.isNan then (match binFmt dty with
      | some f => f.nanPat
      | none => 0, flIf v.isSnan flNV)
    else (contain dty x, 0)
  else convert dty mode (cvtSat dty) (readNum sty x)

/-- What a vector conversion accumulates: the destination pattern, flags, seed, residue terms and inexact count. -/
structure CvtAcc where
  vec : Nat
  flags : Flags
  seed : BitVec 32
  terms : List Num
  cnt : Nat
deriving DecidableEq, Repr

/-- A finite value (R221). -/
def Num.isFin : Num → Bool
  | .fin _ _ _ => true
  | _ => false

/-- The value x - c, with a zero as +0 (R216). -/
def residue (x c : Num) : Num :=
  match (x.add .rne c.negate).1 with
  | .fin n m e => .fin (n && m != 0) m e
  | y => y

/-- Source element `si` converted into destination element `di`. -/
def cvtStep (s : State) (sty dty : ETy) (r : RM) (src : Nat) (si di : Nat) (acc : CvtAcc) : CvtAcc :=
  let seed := nextSeed (s.isSR r) acc.seed
  let x := elemOf sty.width src si
  let c := cvtElem sty dty (s.cvtMode r seed) x
  let xv := readNum sty x
  let cv := readNum dty c.1
  let both := xv.isFin && cv.isFin
  { vec := setElem dty.width acc.vec di c.1, flags := acc.flags ||| c.2, seed := seed
    terms := if both then acc.terms ++ [residue xv cv] else acc.terms
    cnt := if both && !xv.eq cv then acc.cnt + 1 else acc.cnt }

/-- The elements of `VCVT` in ascending order (R183, R221): `on k` says whether mask bit k lets element k through. -/
def cvtAll (s : State) (d a : VReg) (sty dty : ETy) (r : RM) (on : Nat → Bool) : CvtAcc :=
  let widen := decide (sty.width ≤ dty.width)
  let g := if widen then dty.width / sty.width else sty.width / dty.width
  let n := if widen then dty.count else sty.count
  let p := (if widen then d.toNat else a.toNat) % g
  (List.range n).foldl (fun acc j =>
    let k := g * j + p
    if on k then cvtStep s sty dty r (s.rdV a).toNat (if widen then k else j) (if widen then j else k) acc else acc)
    ⟨(s.rdV d).toNat, 0, s.regs.ctl.srseed, [], 0⟩

/-- `VCVT` under its mask (R220, R221). -/
def execVcvt (d a : VReg) (sty t : ETy) (mk : MReg) (r : RM) (s : State) : Out :=
  checked (.vcvt d a sty t mk r) s <|
    let c := cvtAll s d a sty t r (fun k => (s.rdM mk).getLsbD k)
    .next (((s.setSeed c.seed).wrV d (BitVec.ofNat 4096 c.vec)).raise c.flags)
/-- `VCVT` with the residue option: every element, and the exact loss into a latch (R220, R221). -/
def execVcvtRes (d a : VReg) (sty t : ETy) (q : QReg) (r : RM) (s : State) : Out :=
  checked (.vcvtRes d a sty t q r) s <|
    let c := cvtAll s d a sty t r (fun _ => true)
    let l := a56Sum (s.rdQ q).value c.terms
    .next ((((s.setSeed c.seed).wrV d (BitVec.ofNat 4096 c.vec)).wrQ q
      ⟨l.1, (s.rdQ q).index + BitVec.ofNat 32 c.cnt⟩).raise (c.flags ||| l.2))

/-- The value an element of the source of `VCVTSX.TO` counts as: +0 where the mask is clear (R222). -/
def sxSource (t : ETy) (x : VWord) (mk : MWord) (i : Nat) : Num :=
  if mk.getLsbD i then readNum t (velem t x i) else .fin false 0 0
/-- The blocks of `VCVTSX.TO` (R222, R223). -/
def sxBlocks (f : SxFmt) (t : ETy) (x : VWord) (mk : MWord) : List (SxBlock × Flags) :=
  (List.range (t.count / 16)).map fun b => sxBlock f ((List.range 16).map fun i => sxSource t x mk (16 * b + i))
/-- The image of a list of blocks: the element plane at byte 0, the scale plane at byte 256 (R222). -/
def sxImage (f : SxFmt) (bs : List SxBlock) : Nat :=
  (bs.zipIdx.map fun p =>
    ((p.1.elems.zipIdx.map fun e => e.1 <<< ((16 * p.2 + e.2) * SxFmt.width f)).foldl (· + ·) 0) +
      (p.1.ex + 256 * p.1.mu) <<< (8 * (256 + 2 * p.2))).foldl (· + ·) 0
/-- `VCVTSX.TO` (R222, R223). -/
def execVcvtsxTo (d a : VReg) (t : ETy) (mk : MReg) (f : SxFmt) (s : State) : Out :=
  checked (.vcvtsxTo d a t mk f) s <|
    let bs := sxBlocks f t (s.rdV a) (s.rdM mk)
    .next ((s.wrV d (BitVec.ofNat 4096 (sxImage f (bs.map (·.1))))).raise ((bs.map (·.2)).foldl (· ||| ·) 0))
/-- Element i of an SX image (R222). -/
def sxImageElem (f : SxFmt) (x : Nat) (i : Nat) : Num :=
  let sc := 8 * (256 + 2 * (i / 16))
  readSx f ((x >>> sc) % 256) (((x >>> (sc + 8)) % 256).testBit (i % 16 / 2)).toNat (elemOf (SxFmt.width f) x i)
/-- `VCVTSX.FROM`: element 128h + j of the image, exactly and without flags (R222). -/
def execVcvtsxFrom (d a : VReg) (h : Bool) (t : ETy) (mk : MReg) (f : SxFmt) (s : State) : Out :=
  checked (.vcvtsxFrom d a h t mk f) s <|
    .next (s.wrV d (vecMasked .f32 (s.rdM mk) (s.rdV d) fun j =>
      ((convert .f32 .rne false (sxImageElem f (s.rdV a).toNat (128 * h.toNat + j))).1, 0)).1)

/-- The length of the run of valid elements from i, counted up to a limit (R224). -/
def runLen (mk : MWord) (n : Nat) : Nat → Nat → Nat
  | _, 0 => 0
  | i, k + 1 => if i < n && mk.getLsbD i then runLen mk n (i + 1) k + 1 else 0
/-- The first `k` elements from i agree with the pattern (R224). -/
def agrees (t : ETy) (x pat : VWord) (i : Nat) : Nat → Bool
  | 0 => true
  | k + 1 => agrees t x pat i k && velem t x (i + k) == velem t pat k
/-- `VMATCH`: where the pattern begins in the valid text, or under `.PART` is cut off by its end (R224). -/
def execVmatch (d : MReg) (a b : VReg) (t : ETy) (mk : MReg) (part : Bool) (s : State) : Out :=
  checked (.vmatch d a b t mk part) s <|
    let l := min (velem t (s.rdV b) (t.count - 1)) 64
    .next (s.wrM d (maskOf t.count fun i =>
      let h := runLen (s.rdM mk) t.count i 64
      (decide (l ≤ h) && decide (0 < l) && agrees t (s.rdV a) (s.rdV b) i l) ||
      (part && decide (0 < h) && decide (h < l) && agrees t (s.rdV a) (s.rdV b) i h)))

end Sys2Proof.Machine
end

