-- ==== Sys2Proof/Machine/MatrixArray.lean ====
section
/-! DEFINITION. The arithmetic of the matrix array: the matrix formats, latches and slots, the sum of R230 with the special
values of R231, the Steep stage, and the drain epilogue (R226 to R235, R241). -/

namespace Sys2Proof.Machine

/-! ### Matrix formats (R44, R226) -/

/-- The SX format of a matrix-format code, if it is one. -/
def mfSx (f : BitVec 4) : Option SxFmt :=
  match f.toNat with
  | 4 => some .sx8
  | 5 => some .sx4
  | 6 => some .sx2
  | _ => none

/-- The bits of an element (R226). -/
def mfBits (f : BitVec 4) : Nat :=
  match f.toNat with
  | 3 => 16
  | 5 => 4
  | 6 => 2
  | _ => 8

/-- Kmax, the depth of the array: 256 bytes whatever the element width (R226). -/
def mfKmax (f : BitVec 4) : Nat := 2048 / mfBits f

/-- The element type of a format without blocks. -/
def mfTy (f : BitVec 4) : ETy :=
  match f.toNat with
  | 1 => .f8e4
  | 2 => .f8e5
  | 3 => .bf16
  | _ => .i8

/-- The value of element k of a row or column: its pattern, and for an SX format the word of its block, exponent in the low
byte and micro-exponents above (R179). -/
def mfNum (f : BitVec 4) (scale k raw : Nat) : Num :=
  match mfSx f with
  | some x => readSx x (scale % 256) ((scale / 256).testBit (k % 16 / 2)).toNat raw
  | none => readNum (mfTy f) raw

/-- The value of an element whose exponent and micro-exponent bit stand in a word of its own (R100, R179). -/
def mfElem (f : BitVec 4) (scale raw : Nat) : Num :=
  match mfSx f with
  | some x => readSx x (scale % 256) (scale / 256 % 2) raw
  | none => readNum (mfTy f) raw

/-- The values of a row (R226, R229). -/
def MxRow.nums (f : BitVec 4) (r : MxRow) : List Num := r.raws.zipIdx.map fun p => mfElem f (r.scales.getD p.2 0) p.1

/-- The elements of a row as one pattern, element k at bits (k+1)w-1 : kw. -/
def MxRow.elems (f : BitVec 4) (r : MxRow) : Nat :=
  (r.raws.zipIdx.map fun p => (p.1 % 2 ^ mfBits f) <<< (p.2 * mfBits f)).foldl (· + ·) 0

/-- The scale words of a row as one pattern. -/
def MxRow.scaleBits (r : MxRow) : Nat := (r.scales.zipIdx.map fun p => (p.1 % 512) <<< (9 * p.2)).foldl (· + ·) 0

/-! ### Latch and slot columns (R227, R232) -/

/-- The first n values of column t of a latch (R226). -/
def WLatch.column (w : WLatch) (t n : Nat) : List Num :=
  let e := (w.elems.extractLsb' (2048 * t) 2048).toNat
  let sc := (w.scales.extractLsb' (9216 * t) 9216).toNat
  (List.range n).map fun k => mfElem w.fmt (elemOf 9 sc k) (elemOf (mfBits w.fmt) e k)

/-- A latch with column t written whole: absent elements are zero (R238). -/
def WLatch.setColumn (w : WLatch) (t : Nat) (r : MxRow) : WLatch :=
  let me : BitVec 131072 := (BitVec.ofNat 131072 (2 ^ 2048 - 1)) <<< (2048 * t)
  let ms : BitVec 589824 := (BitVec.ofNat 589824 (2 ^ 9216 - 1)) <<< (9216 * t)
  { w with
    elems := (w.elems &&& ~~~me) ||| (BitVec.ofNat 131072 (r.elems w.fmt) <<< (2048 * t))
    scales := (w.scales &&& ~~~ms) ||| (BitVec.ofNat 589824 r.scaleBits <<< (9216 * t)) }

/-- The value P[k][h] of a slot (R232). -/
def SteepSlot.value (p : SteepSlot) (k h : Nat) : Num :=
  let e := (p.elems.extractLsb' (2048 * h) 2048).toNat
  let sc := (p.scales.extractLsb' (1024 * h) 1024).toNat
  mfNum p.fmt (elemOf 16 sc (k / 16)) k (elemOf (mfBits p.fmt) e k)

/-- A slot loaded from its image (R244): column h in 256 bytes, and two scale bytes for each of its Kmax/16 blocks. -/
def SteepSlot.load (p : SteepSlot) (bs : List Byte) : SteepSlot :=
  let n := mfKmax p.fmt / 16
  let sc := leNat (bs.drop 4096)
  { p with
    elems := BitVec.ofNat 32768 (leNat (bs.take 4096))
    scales := match mfSx p.fmt with
      | none => 0
      | some _ => BitVec.ofNat 16384 (((List.range 16).map fun h =>
          (sc >>> (16 * n * h) % 2 ^ (16 * n)) <<< (1024 * h)).foldl (· + ·) 0) }

/-! ### Exact sums (R230) -/

/-- The exact sum of finite values: an integer over a power of two. -/
def dyadicSum (l : List Num) : Int × Int :=
  let u := l.foldl (fun u x => match x with
    | .fin _ _ e => min u e
    | _ => u) 0
  (l.foldl (fun t x => match x with
    | .fin n m e => t + scaled n m e u
    | _ => t) 0, u)

/-- A dyadic number as a value; zero is +0. -/
def ofDyadic (x : Int × Int) : Num := .fin (decide (x.1 < 0)) x.1.natAbs x.2

/-- The exact sum of values (R233, R234): NaN for a NaN or for opposite infinities, else an infinity, else the sum. -/
def exactSum (l : List Num) : Num :=
  if l.any Num.isNan || (l.any (Num.isInf false) && l.any (Num.isInf true)) then .nan false
  else if l.any (Num.isInf false) then .inf false
  else if l.any (Num.isInf true) then .inf true
  else ofDyadic (dyadicSum l)

/-- The exact products of two lists of operands, element by element (R230, R231). -/
def products (a b : List Num) : List Num := List.zipWith (fun x y => (x.mul y).1) a b

/-- The block sums of R230: sixteen products at a time. -/
def blockSums (ps : List Num) : List (Int × Int) := (pieces 16 ((ps.length + 15) / 16) ps).map dyadicSum

/-- A block sum truncated toward zero to a multiple of 2^(L-64) (R230). -/
def truncTo (u : Int) (b : Int × Int) : Int × Int :=
  if u ≤ b.2 then b else (b.1.tdiv (2 ^ (u - b.2).toNat), u)

/-- S of R230. -/
def arraySum (ps : List Num) : Int × Int :=
  let bs := (blockSums ps).filter fun b => b.1 != 0
  match bs with
  | [] => (0, 0)
  | b :: rest =>
    let lg (b : Int × Int) : Int := b.2 + (Nat.log2 b.1.natAbs : Int)
    let l := rest.foldl (fun l b => max l (lg b)) (lg b)
    dyadicSum ((bs.map (truncTo (l - 64))).map ofDyadic)

/-- The accumulator entry an `MMA` writes, from the products of its row and column and the base pattern (R230, R231). -/
def arrayEntry (base : BitVec 56) (ps : List Num) : BitVec 56 :=
  let b := readNum .a56 base.toNat
  let pos := ps.any (Num.isInf false)
  let neg := ps.any (Num.isInf true)
  if b.isNan || ps.any Num.isNan || (pos && neg) || (Num.isInf false b && neg) || (Num.isInf true b && pos) then
    BitVec.ofNat 56 fmtA56.nanPat
  else if pos || Num.isInf false b then BitVec.ofNat 56 fmtA56.infPat
  else if neg || Num.isInf true b then BitVec.ofNat 56 (fmtA56.signed true fmtA56.infPat)
  else
    let sm := arraySum ps
    if sm.1 = 0 then base
    else BitVec.ofNat 56 (convert .a56 .rne false (b.add .rne (ofDyadic sm)).1).1

/-! ### Accumulator rows (R18, R147, R228) -/

/-- Entry (r, n) of an accumulator tile. -/
def accEntry (c : AccWord) (r n : Nat) : BitVec 56 := c.extractLsb' (56 * (64 * r + n)) 56

/-- An accumulator tile with the participating entries of row r written (R228, R239). -/
def accSetRow (c : AccWord) (shape : BitVec 4) (r : Nat) (f : Nat → BitVec 56) : AccWord :=
  let row := (List.range 64).foldl (fun v n =>
    v + (if participates shape n then (f n).toNat else (accEntry c r n).toNat) <<< (56 * n)) 0
  let m : AccWord := (BitVec.ofNat 229376 (2 ^ 3584 - 1)) <<< (3584 * r)
  (c &&& ~~~m) ||| (BitVec.ofNat 229376 row <<< (3584 * r))

/-! ### The Steep stage (R232 to R235) -/

/-- `steep_round` of a group of 16 values into a format: patterns and block word (R235). -/
def steepRound (f : BitVec 4) (xs : List Num) : List Nat × Nat :=
  match mfSx f with
  | some x =>
    let b := (sxBlock x xs).1
    (b.elems, b.ex + 256 * b.mu)
  | none =>
    let t := mfTy f
    (xs.map fun v => (convert t .rne (t != .bf16) v).1, 0)

/-- The scale words of the sixteen elements of a block, from its block word. -/
def blockScales (w : Nat) : List Nat := (List.range 16).map fun i => w % 256 + 256 * ((w / 256).testBit (i / 2)).toNat

/-- A row of values rounded in groups of 16 (R235). -/
def steepRow (f : BitVec 4) (xs : List Num) : MxRow :=
  let gs := (pieces 16 ((xs.length + 15) / 16) xs).map (steepRound f)
  ⟨gs.flatMap (·.1), gs.flatMap fun g => blockScales g.2⟩

/-- A latent row expanded into a latch column: c parts of depth Kmax, g groups of 16 positions (R233). -/
def steepExpand (f : BitVec 4) (slots : Nat → SteepSlot) (j c g : Nat) (l : List Num) : MxRow :=
  let kmax := mfKmax f
  steepRow f ((List.range g).flatMap fun h => (List.range 16).map fun x =>
    exactSum (products l ((List.range c).flatMap fun i => (List.range kmax).map fun k =>
      (slots (j + i * g + h)).value k x)))

/-- A query row absorbed: its projection through the transposes of c slots (R234). -/
def steepAbsorb (f : BitVec 4) (slots : Nat → SteepSlot) (j c : Nat) (a : List Num) : MxRow :=
  steepRow f ((List.range (mfKmax f)).map fun k =>
    exactSum (products a ((List.range c).flatMap fun i => (List.range 16).map fun x => (slots (j + i)).value k x)))

/-! ### The drain epilogue (R241) -/

/-- A value rounded to A56 (R241). -/
def toA56 (x : Num) : Num := readNum .a56 (convert .a56 .rne false x).1

/-- The F32 at place i of a vector of the epilogue block. -/
def epiNum (bs : List Byte) (i : Nat) : Num := readNum .f32 (leNat ((bs.drop (4 * i)).take 4))

/-- An entry after scales, bias and clamp: `rs`, `cs` and `bias` where present (R241). -/
def epilogue (x : Num) (rs cs bias : Option Num) (relu : Bool) : Num :=
  let x1 := match rs with
    | none => x
    | some v => toA56 (x.mul v).1
  let x2 := match cs with
    | none => x1
    | some v => toA56 (x1.mul v).1
  let x3 := match bias with
    | none => x2
    | some v => toA56 (x2.add .rne v).1
  if relu && !x3.isNan && x3.neg then .fin false 0 0 else x3

/-- The element type a drain converts into; none for an SX destination (R240). -/
def drainTy (d : Desc) : Option ETy :=
  if dFk d then (if (mfSx (dFmt d)).isSome then none else some (mfTy (dFmt d))) else ETy.ofCode (dFmt d)

end Sys2Proof.Machine
end

