-- ==== Sys2Proof/Machine/Matrix.lean ====
section
/-! DEFINITION. The matrix instructions: reading operand rows, work in flight and what stops it, and the events in which it
goes on (R226 to R248). -/

namespace Sys2Proof.Machine

/-! ### Reads and writes of a matrix instruction (R88, R94, R108, R118, R229) -/

/-- Why a matrix instruction goes no further: a translation that parks, a wait, or a cause. -/
inductive MxStop where
  | park (va : BitVec 48) (acc : Acc) (malformed : Bool)
  | wait
  | fault (cause : BitVec 8) (sub : BitVec 8) (addr : Word)

/-- A step of a matrix instruction. -/
abbrev MxR (α : Type) := Except MxStop (State × α)

/-- A failed translation or a control page. -/
def mxG (acc : Acc) : GFail → MxStop
  | .park va m => .park va acc m
  | .prot va => .fault causeProt 0 (va.signExtend 64)

/-- The bytes of a 64-byte chunk as the instruction has read them: by memory and address (R119). -/
def MxOp.chunk (m : MxOp) (key a : Nat) : Option (List Byte) :=
  (m.held.find? fun h => h.1 == key && h.2.1 == a / 64 * 64).map (·.2.2)

/-- The bytes of a 64-byte chunk as the task on a tile finds them: of a scratchpad, of device memory or of host memory. -/
def State.chunkBytes (s : State) (t : TileIx) (key a : Nat) : List Byte :=
  if key < 256 then
    let h := BitVec.ofNat 8 key
    let b := (s.tile t).commit
    (List.range 64).map fun j => (b.see false false h (a + j)).getD (cellGet (s.tile h).sp (a + j))
  else (s.tile t).overCommit (key == 257) a (s.memBytes t (key == 257) a 64)

/-- The chunk of a place read by an instruction, which keeps it (R119). -/
def State.takeChunk (s : State) (t : TileIx) (m : MxOp) (key a : Nat) : MxOp :=
  if (m.chunk key a).isSome then m
  else { m with held := (key, a / 64 * 64, s.chunkBytes t key (a / 64 * 64)) :: m.held }

/-- A chunk that holds one of some places, and that the instruction has still to read, is half written by an engine (R119). -/
def State.chunksBusy (s : State) (m : MxOp) (l : List (Option (Nat × Nat))) : Bool :=
  l.any fun o => match o with
    | none => false
    | some k => (m.chunk k.1 k.2).isNone && s.chunkBusy k.1 (k.2 / 64 * 64)

/-- The bytes at some places, from the chunks that hold them; a byte without a place as it was read. -/
def State.fromChunks (s : State) (t : TileIx) (m : MxOp) (l : List (Option (Nat × Nat) × Byte)) : MxOp × List Byte :=
  l.foldl (fun r p => match p.1 with
    | none => (r.1, r.2 ++ [p.2])
    | some k =>
      let m1 := s.takeChunk t r.1 k.1 k.2
      (m1, r.2 ++ [(((m1.chunk k.1 k.2).getD [])[k.2 % 64]?).getD p.2])) (m, [])

/-- The places of the pieces of a plan, byte by byte. -/
def piecePlaces (l : List (BitVec 48 × Nat × GSrc)) : List (Option (Nat × Nat)) :=
  l.flatMap fun p => (List.range p.2.1).map fun j => match p.2.2 with
    | .mem pa => some (256, pa + j)
    | .host pa => some (257, pa + j)
    | _ => none

/-- Bytes read by a matrix instruction, in aligned 64-byte chunks of scratchpad and global memory (R119). A load of Caddy bytes
has been checked at issue, and a reload at the restore (R236, R362, R389). Where several elements of a row offend, the first that
is read, in the order of i0, is the one recorded: the rules do not say what one access of a matrix stream is, and this is the
model's choice (log entry 102). -/
def State.mxBytes (s : State) (t : TileIx) (m : MxOp) (spc : Space) (a : Word) (n : Nat) :
    Except MxStop (State × MxOp × List Byte) :=
  let c := s.ctxOn t
  match spc with
  | .sp =>
    if s.spWaits t c a.toNat n then .error .wait
    else match s.spPoisoned t c a.toNat n with
      | some p => .error (.fault causeEccUncorr 0 (BitVec.ofNat 64 p))
      | none =>
        let p := s.spLocs t c a.toNat n
        let l := p.2.map fun o => o.map fun off => (p.1.toNat, off)
        if s.chunksBusy m l then .error .wait
        else .ok (s.offendIf t false (s.spBad t c a.toNat n), s.fromChunks t m (l.zip (s.spRead t c true a.toNat n)))
  | .cd =>
    match s.cdDamaged t a.toNat n with
    | some o => .error (.fault causeEccUncorr 0 (BitVec.ofNat 64 o))
    | none => .ok (s, m, s.cdRead t a.toNat n)
  | .g =>
    if !canonicalRange a n then .error (.fault causeProt 0 a)
    else match s.gPlan t c .read false (gPieces (a.extractLsb' 0 48) n) with
      | .error e => .error (mxG .read e)
      | .ok (s0, l) =>
        let s1 := s0.refill [l]
        match s1.gPoisoned l with
        | some va => .error (.fault causeEccUncorr 0 (va.signExtend 64))
        | none =>
          let r := s1.gFetch t c false true State.ctlBytes l
          if s1.chunksBusy m (piecePlaces l) then .error .wait
          else .ok (r.1.ctlRead l, r.1.fromChunks t m ((piecePlaces l).zip r.2))

/-- Several reads one after another. -/
def State.mxReads (t : TileIx) (spc : Space) :
    List (Word × Nat) → State → MxOp → Except MxStop (State × MxOp × List (List Byte))
  | [], s, m => .ok (s, m, [])
  | (a, n) :: rest, s, m =>
    match s.mxBytes t m spc a n with
    | .error e => .error e
    | .ok (s1, m1, bs) =>
      match State.mxReads t spc rest s1 m1 with
      | .error e => .error e
      | .ok (s2, m2, l) => .ok (s2, m2, bs :: l)

/-- The scale word of element k of operand row j, from the two bytes of its block: the shared exponent, and its micro-exponent at
bit 8 (R100, R178). -/
def elemScale (f : SxFmt) (d : Desc) (ss : Word) (j k w : Nat) : Nat :=
  w % 256 + 256 * ((w / 256).testBit (sxPair f (rowLinear d ss j k) (dBitOff d k))).toNat

/-- Operand row j from its bytes. -/
def rowOf (d : Desc) (ss : Word) (j : Nat) (l : List (List Byte)) : MxRow :=
  let n := dCount d 0
  ⟨(l.take n).zipIdx.map fun p => leNat p.1 >>> dBitOff d p.2 % 2 ^ dBits d,
   match dSx d with
   | none => []
   | some f => (List.range n).map fun k => elemScale f d ss j k (leNat ((l.drop n).getD (k / scaleStep d) []))⟩

/-- Operand row j read (R229). -/
def State.mxRow (s : State) (t : TileIx) (m : MxOp) (j : Nat) : Except MxStop (State × MxOp × MxRow) :=
  match State.mxReads t (dSpc m.desc) (rowElems m.desc m.ss j ++ rowScales m.desc m.ss j) s m with
  | .error e => .error e
  | .ok (s1, m1, l) => .ok (s1, m1, rowOf m.desc m.ss j l)

/-- Writes of a matrix instruction to global memory: every page is translated before any byte is sent, and what it writes in
one line goes together (R106, R241). -/
def State.mxSend (s : State) (t : TileIx) (m : MxOp) (els : List (Word × List Patch)) : Except MxStop State :=
  match els.find? fun e => !canonicalRange e.1 e.2.length with
  | some e => .error (.fault causeProt 0 e.1)
  | none =>
    match State.planAll t (s.ctxOn t) .write false s (els.map fun e => (e.1, e.2.length)) with
    | .error e => .error (mxG .write e)
    | .ok (s1, ls) => .ok (s1.gSend t (s1.ctxOn t) (some (false, m.order)) (ls.zip (els.map (·.2))))

/-- A write of a matrix instruction to a scratchpad. -/
def State.mxStore (s : State) (t : TileIx) (e : Word × List Patch) : State :=
  let c := s.ctxOn t
  s.spWrite t c e.1.toNat ((e.2.zip (s.spRead t c false e.1.toNat e.2.length)).map fun p => p.1.on p.2)

/-! ### Work in flight (R245 to R248) -/

/-- The number `MXPROG`.ACC shows: the tile of an `MMA` or `MDRAIN`, the latch of an `MLDW` (R246). -/
def MxOp.accNo (m : MxOp) : BitVec 3 :=
  match m.kind with
  | .mma c .. => c
  | .mdrain c .. => c
  | .mldw l .. => l.zeroExtend 3
  | .steepld .. => 0

/-- `MXPROG` set to describe an instruction (R246). -/
def State.showMx (s : State) (t : TileIx) (m : MxOp) : State :=
  s.modCtlOf t fun c => { c with mxAct := true, mxAcc := m.accNo, mxRows := BitVec.ofNat 7 m.done }

/-- An instruction in flight changed. -/
def Tile.setOp (x : Tile) (m : MxOp) : Tile :=
  { x with mx := { x.mx with ops := x.mx.ops.map fun o => if o.order == m.order then m else o } }

/-- The oldest instruction in flight of a kind. -/
def Tile.firstOp (x : Tile) (f : MxKind → Bool) : Option MxOp := x.mx.ops.find? fun m => f m.kind

/-- The instruction in flight with a place in the order of issue. -/
def Tile.opAt (x : Tile) (n : Nat) : Option MxOp := x.mx.ops.find? fun m => m.order == n

/-- `MXPROG` describes an instruction that a fault stopped, or a load or drain that goes on after one (R246). -/
def Tile.mxShown (x : Tile) : Bool := x.mx.stopped.any (·.shown) || x.mx.ops.any fun m => !m.isMma && m.shown

/-- `MXPROG` follows the older `MMA` in flight, else a drain that is redone, with ROWS 0; ACT clears with none. It stays with
another instruction that it describes (R246). -/
def State.followMma (s : State) (t : TileIx) : State :=
  let x := s.tile t
  if x.mxShown then s
  else match x.mmas.head?, x.mx.ops.find? (·.redone) with
    | some m, _ => s.showMx t m
    | none, some m => s.showMx t { m with done := 0 }
    | none, none => s.modCtlOf t fun c => { c with mxAct := false }

/-- `MXPROG` no longer describes a stopped instruction. -/
def Tile.unshown (x : Tile) : Tile := { x with mx := { x.mx with stopped := x.mx.stopped.map fun m => { m with shown := false } } }

/-- An instruction completes. `MXPROG` goes on to the next `MMA` in flight or to a drain that is redone, and otherwise ACT clears
where it described this one (R246). -/
def State.finishMx (s : State) (t : TileIx) (m : MxOp) : State :=
  let s1 := s.modTile t (·.dropOp m)
  if m.isMma || m.shown || m.redone then s1.followMma t else s1

/-- A Steep slot changed. -/
def Tile.modSlot (x : Tile) (a : BitVec 2) (f : SteepSlot → SteepSlot) : Tile :=
  { x with mx := { x.mx with st := x.mx.st.set a.toNat (f (x.mx.st[a.toNat]'a.isLt)) a.isLt } }

/-- The Steep slots by number. -/
def Tile.slotNo (x : Tile) (i : Nat) : SteepSlot := (x.mx.st.toList)[i]?.getD .empty

/-- A fault stops an instruction at the row or column it has reached, which is read again: `MXPROG` describes it, and its task
takes the cause as one of execution with REPLAY set (R246, R247). -/
def State.stopMx (s : State) (t : TileIx) (m : MxOp) (cause sub : BitVec 8) (addr : Word) : State :=
  if m.reload then s.failReload t m cause addr
  else
    let s1 := (s.modTile t fun x =>
      let y := (x.dropOp m).unshown
      { y with mx := { y.mx with stopped := { m with parked := false, shown := true, redone := false, held := [] } :: y.mx.stopped } }).showMx t m
    s1.modRun t fun r =>
      { r with async := r.async ++ [{ cause := cause, sub := sub, slot := BitVec.ofNat 4 m.slot, replay := true, step := false,
                                      addr := addr, pc := m.pc.zeroExtend 64 }] }

/-- What a stop does to an instruction in flight: a failed translation parks it, a cause stops it (R247). -/
def State.mxStopped (s : State) (t : TileIx) (m : MxOp) : MxStop → State
  | .wait => s.modTile t (·.setOp m)
  | .park va acc mal =>
    if s.parkFull t then s.modTile t (·.setOp m)
    else (s.modTile t (·.setOp { m with parked := true })).park t (s.ctxOn t) va acc mal (.matrix m.order)
  | .fault cause sub addr => s.stopMx t m cause sub addr

/-- RETRY for a parked matrix instruction: it goes on from its row (R247, R358). -/
def State.mxRetry (s : State) (t : TileIx) (n : Nat) : State :=
  match (s.tile t).opAt n with
  | some m => s.modTile t (·.setOp { m with parked := false })
  | none => s

/-- FAIL for a parked matrix instruction: XLATE (R247, R248). -/
def State.mxFail (s : State) (t : TileIx) (n : Nat) (va : BitVec 48) : State :=
  match (s.tile t).opAt n with
  | some m => s.stopMx t m causeXlate 0 (va.signExtend 64)
  | none => s

/-- A matrix instruction in flight reads a 64-byte chunk of a memory ahead of its row, and keeps it: one in which a byte lies that
it has still to read, by an address that translates (R119). -/
def State.readChunk (s : State) (t : TileIx) (n key a : Nat) : State :=
  match (s.tile t).opAt n with
  | some m =>
    if s.phase == .up && !(s.tile t).peat.held && !s.readBehind t m && !s.chunkBusy key (a / 64 * 64) &&
        ((m.toRead.els.flatMap (s.places t (s.ctxOn t))).any (overlap (key, a / 64 * 64, 64))) then
      s.modTile t (·.setOp (s.takeChunk t m key a))
    else s
  | none => s

/-! ### Checks at issue (R229, R236, R238 to R240) -/

/-- FORMAT_MISMATCH with its address word (R236). -/
def State.formatTrap (s : State) (slot desc latch : BitVec 4) : Out :=
  s.issueTrap causeFormatMismatch (0#52 ++ slot ++ desc ++ latch : BitVec 64)

/-- The latched format of a latch, 0xF for an empty one (R236). -/
def WLatch.code (w : WLatch) : BitVec 4 := if w.full then w.fmt else 0xF

/-- The first slot of a chain that is empty or of another format, by its format (R236). An empty slot has none: `FADDR` then has
0xF there, as the rule has it for an empty latch, the model's choice (log entry 87). -/
def Tile.badSlot (x : Tile) (f : BitVec 4) (j n : Nat) : Option (BitVec 4) :=
  firstOf (fun i =>
    let p := x.slotNo (j + i)
    if !p.valid then some 0xF else if p.fmt != f then some p.fmt else none) (List.range n)

/-- A slot of a chain is being loaded (R22). -/
def Tile.chainBusy (x : Tile) (j n : Nat) : Bool :=
  (List.range n).any fun i => x.mx.ops.any fun m => match m.kind with
    | .steepld _ ms => ms.getLsbD (j + i)
    | _ => false

/-- The tensor operand passes R101 and R229. -/
def operandOk (d : Desc) (ss : Word) : Bool := dOk d true false && ssCnt ss != 0 && decide (ssCnt ss ≤ 64)

/-- A new instruction in flight with the values it reads at issue (R245). -/
def State.newOp (s : State) (k : MxKind) (d : Desc) (ss : Word) : MxOp :=
  { kind := k, desc := d, ss := ss, ashape := s.src.ctl.ashape, pc := s.pc, slot := s.t.issue.slot, word := s.t.issue.word,
    order := s.nextOrder, hnd := s.src.ctl.hnd, reload := false, shown := false, redone := false, done := 0, rows := [], held := [], flags := 0, epi := none
    seed := 0, parked := false }

/-- A matrix instruction stands where the slot being issued stands. -/
def State.standsAt (s : State) (o : MxOp) : Bool := o.pc == s.pc && o.slot == s.t.issue.slot && o.word == s.t.issue.word

/-- The instruction that a fault stopped in the slot being issued, which a `RETT` with REPLAY continues while `MXPROG`.ACT is
set; one of the same slot word where none stands there, since a restored record names no bundle (R247, R382, R387, R389). -/
def State.continued (s : State) : Option MxOp :=
  if s.t.issue.replay && s.src.ctl.mxAct then
    (s.t.mx.stopped.find? s.standsAt).orElse fun _ => s.t.mx.stopped.find? fun o => o.word == s.t.issue.word
  else none

/-- An instruction enters flight. One that a `RETT` with REPLAY issues while `MXPROG`.ACT is set goes on from row ROWS (R382). A
drain that does so with no stopped instruction to continue counts its elements, and steps its seed, as a whole drain from its
first row does: the rules do not say, and this is the model's choice (log entry 103). -/
def State.enterMx (s : State) (m : MxOp) : State × MxOp :=
  let m1 : MxOp := if s.t.issue.replay && s.src.ctl.mxAct then { m with done := s.src.ctl.mxRows.toNat, shown := !m.isMma } else m
  ({ s.modT fun x => { x with mx := { x.mx with ops := x.mx.ops ++ [m1], stopped := x.mx.stopped.filter fun o => !s.standsAt o } } with
     nextOrder := s.nextOrder + 1 }, m1)

/-- A stopped instruction goes on from the row or column it had reached, with the values it read at issue (R245 to R247). -/
def State.continueMx (s : State) (o : MxOp) : State × MxOp :=
  let m : MxOp := { o with order := s.nextOrder, shown := !o.isMma }
  let s1 : State := { s.modT fun x => { x with mx := { x.mx with
      ops := x.mx.ops ++ [m], stopped := x.mx.stopped.filter fun p => p.order != o.order && !s.standsAt p } } with nextOrder := s.nextOrder + 1 }
  (if m.isMma then s1.followMma s.cur else s1.showMx s.cur m, m)

/-! ### MSHAPE (R237) -/

/-- `MSHAPE` (R237). -/
def execMshape (bands : BitVec 4) (s : State) : Out := checked (.mshape bands) s <| .next (s.setShape bands)

/-! ### MLDW (R227, R229, R233, R238) -/

/-- `MLDW` in either mode: chain of c slots in g groups from slot j (R238). -/
def State.issueMldw (s : State) (l : LReg) (k : DReg) (ssr : SReg) (expand : Bool) (j c1 g1 : BitVec 2) : Out :=
  let d := s.rdD k
  let ss := s.rdS ssr
  let n := (c1.toNat + 1) * (g1.toNat + 1)
  let kmax := mfKmax (dFmt d)
  let w := s.t.mx.w[l.toNat]'l.isLt
  if expand && s.t.chainBusy j.toNat n then s.hold
  else if s.continued.isSome then .next ((s.continued.map fun o => (s.continueMx o).1).getD s)
  else if !operandOk d ss || (expand && decide (4 < j.toNat + n)) ||
      decide ((if expand then (c1.toNat + 1) * kmax else kmax) < dCount d 0) then s.illegal
  else match (if dSpc d == .cd then s.cdStop (loadBytes d ss) else none) with
    | some (c, a) => s.issueTrap c a
    | none =>
      match (if expand then s.t.badSlot (dFmt d) j.toNat n else none) with
      | some f => s.formatTrap f (dFmt d) w.code
      | none =>
        let r := s.enterMx (s.newOp (.mldw l expand j c1 g1) d ss)
        let a := dAddr d 0 (ssRow0 ss) 0 0
        .next (r.1.modT fun x => x.modLatch l fun w =>
          { w with
            full := true, fmt := dFmt d, addr := if dSpc d == .sp then (a.extractLsb' 0 32).zeroExtend 48 else a.extractLsb' 0 48
            space := dSpace d, expand := expand, slot := j, chain := c1, groups := g1, desc := d, ss := ss })

/-- `MLDW` in PASS (R238). -/
def execMldw (l : LReg) (k : DReg) (rs : SReg) (s : State) : Out := s.issueMldw l k rs false 0 0 0
/-- `MLDW.EXPAND` (R238). -/
def execMldwExpand (l : LReg) (k : DReg) (j : BitVec 2) (rs : SReg) (g n : BitVec 2) (s : State) : Out :=
  s.issueMldw l k rs true j n g

/-- The column an operand row becomes (R233, R238). -/
def Tile.latchColumn (x : Tile) (m : MxOp) (expand : Bool) (j c1 g1 : BitVec 2) (r : MxRow) : MxRow :=
  if expand then steepExpand (dFmt m.desc) x.slotNo j.toNat (c1.toNat + 1) (g1.toNat + 1) (r.nums (dFmt m.desc)) else r

/-- The columns of an `MLDW` from the one it has reached, until it stops or all are loaded (R238, R247). -/
def State.loadColumns (t : TileIx) (l : LReg) (expand : Bool) (j c1 g1 : BitVec 2) : Nat → State → MxOp → State
  | 0, s, _ => s
  | n + 1, s, m =>
    if m.count ≤ m.done then
      let s1 := s.modTile t fun x => x.modLatch l fun w =>
        (List.range (64 - m.count)).foldl (fun w i => w.setColumn (m.count + i) ⟨[], []⟩) w
      let s2 := match dSpc m.desc, (s1.tile t).caddy.regionAt (dAddr m.desc 0 (ssRow0 m.ss) 0 0).toNat with
        | .cd, some r => s1.modTile t fun x => { x with peat := { x.peat with lver := x.peat.lver.set l.toNat r.version l.isLt } }
        | _, _ => s1
      s2.finishMx t m
    else if s.readBehind t m then s.modTile t (·.setOp m)
    else
      match s.mxRow t m m.done with
      | .error e => s.mxStopped t m e
      | .ok (s1, m1, r) =>
        State.loadColumns t l expand j c1 g1 n
          (s1.modTile t fun x => x.modLatch l fun w => w.setColumn m.done (x.latchColumn m expand j c1 g1 r))
          { m1 with done := m.done + 1 }

/-- Matrix work of a tile runs: the module has power, and the tile holds a task and is awake (R317, R402). -/
def State.matrixRuns (s : State) (t : TileIx) : Bool :=
  let x := s.tile t
  s.phase == .up && x.power.st == .on && !x.peat.held && x.run.isSome

/-- `MMA` and `MDRAIN` work of a tile runs on until the tile has made its Peat save (R248). -/
def State.rowsRun (s : State) (t : TileIx) : Bool :=
  let x := s.tile t
  s.fabricUp && !x.peat.saved && x.power.st == .on && !x.peat.held && x.run.isSome

/-! ### MMA (R228 to R231, R234, R239) -/

/-- Every row an `MMA` has still to read, read ahead and kept; none where one cannot be read now (R245). -/
def State.readAhead (s : State) (t : TileIx) (m : MxOp) : Option State :=
  if s.readBehind t m then none
  else
    let rows := (List.range m.count).filter fun j => decide (m.done + m.rows.length ≤ j)
    (rows.foldl (fun r j => match r with
      | none => none
      | some (s1, m1) => match s1.mxRow t m1 j with
        | .error _ => none
        | .ok (s2, m2, row) => some (s2, { m2 with rows := m2.rows ++ [row] })) (some (s, m))).map
      fun r => r.1.modTile t (·.setOp r.2)

/-- `MMA` in either mode: chain of c slots from slot j (R239). A second `MMA` issues once the older one has every operand
read, a third waits; a band that is gated or waking is waited for (R228, R245). -/
def State.issueMma (s : State) (c : AccReg) (l : LReg) (k : DReg) (ssr : SReg) (absorb : Bool) (j c1 : BitVec 2) (acc : Bool) :
    Out :=
  let d := s.rdD k
  let ss := s.rdS ssr
  let n := c1.toNat + 1
  let x := s.t
  let w := x.mx.w[l.toNat]'l.isLt
  let room (k : State → Out) : Out := match x.mmas with
    | [] => k s
    | [m] => if m.parked then s.hold else match s.readAhead s.cur m with
      | some s1 => k s1
      | none => s.hold
    | _ => s.hold
  if (absorb && x.chainBusy j.toNat n) || x.mx.gated &&& s.src.ctl.ashape != 0 then s.hold
  else if s.continued.isSome then room fun s1 => .next ((s.continued.map fun o => (s1.continueMx o).1).getD s1)
  else if !operandOk d ss || dSpc d == .cd || (absorb && decide (4 < j.toNat + n)) ||
      decide ((if absorb then 16 * n else mfKmax (dFmt d)) < dCount d 0) then s.illegal
  else match (if absorb then x.badSlot (dFmt d) j.toNat n else none) with
    | some f => s.formatTrap f (dFmt d) w.code
    | none =>
      if w.code != dFmt d then s.formatTrap 0xF (dFmt d) w.code
      else if x.mx.spill.getLsbD c.toNat then s.issueTrap causeAccParked (c.zeroExtend 64)
      else
        room fun s1 =>
          let r := s1.enterMx (s1.newOp (.mma c l absorb j c1 acc) d ss)
          .next (if x.mmas.isEmpty && !x.mx.ops.any (·.shown) then (r.1.modT (·.unshown)).followMma s.cur else r.1)

/-- `MMA` in PASS (R239). -/
def execMma (c : AccReg) (l : LReg) (k : DReg) (rs : SReg) (acc : Bool) (s : State) : Out :=
  s.issueMma c l k rs false 0 0 acc
/-- `MMA.ABSORB` (R239). -/
def execMmaAbsorb (c : AccReg) (l : LReg) (k : DReg) (j : BitVec 2) (rs : SReg) (n : BitVec 2) (acc : Bool) (s : State) : Out :=
  s.issueMma c l k rs true j n acc

/-- A poisoned participating entry of row r of an accumulator tile (R391). -/
def Tile.rowPoisoned (x : Tile) (c : AccReg) (shape : BitVec 4) (r : Nat) : Bool :=
  !x.accPoison.isEmpty && (columns shape).any fun n => numIn x.accPoison (4096 * c.toNat + 64 * r + n)

/-- The address word of a poisoned accumulator row (R391). -/
def accPoisonAddr (c : AccReg) (r : Nat) : Word := BitVec.ofNat 64 (c.toNat + 256 * r)

/-- A row of an accumulator tile written by the array (R239, R392, R394). -/
def Tile.commitRow (x : Tile) (m : MxOp) (c : AccReg) (r : Nat) (f : Nat → BitVec 56) : Tile :=
  { x with
    regs := x.regs.setC c (accSetRow (x.regs.getC c) m.ashape r f)
    accPoison := if x.accPoison.isEmpty then []
      else (columns m.ashape).foldl (fun l n => numDel l (4096 * c.toNat + 64 * r + n)) x.accPoison
    mx := { x.mx with
      written := setMap x.mx.written c true
      idle := Vector.ofFn fun b : Fin 4 => if m.ashape.getLsbD b.val then x.cyc else x.mx.idle[b] }
    peat := { x.peat with dirty := true } }

/-- The next row of an `MMA`: one that it has read ahead, or read now (R229, R245). -/
def State.nextRow (s : State) (t : TileIx) (m : MxOp) : Except MxStop (State × MxOp × MxRow) :=
  match m.rows with
  | r :: l => .ok (s, { m with rows := l }, r)
  | [] => if s.readBehind t m then .error .wait else s.mxRow t m m.done

/-- Row r of an `MMA` computed and committed (R230, R231, R234, R239). -/
def State.commitMma (s : State) (t : TileIx) (m : MxOp) (c : AccReg) (l : LReg) (absorb : Bool) (j c1 : BitVec 2) (acc : Bool) :
    State :=
  if m.count ≤ m.done then s.finishMx t m
  else if acc && (s.tile t).rowPoisoned c m.ashape m.done then s.stopMx t m causeEccUncorr 2 (accPoisonAddr c m.done)
  else match s.nextRow t m with
    | .error e => s.mxStopped t m e
    | .ok (s1, m0, row) =>
      let x := s1.tile t
      let f := dFmt m.desc
      let a := if absorb then (steepAbsorb f x.slotNo j.toNat (c1.toNat + 1) (row.nums f)).nums f else row.nums f
      let w := x.mx.w[l.toNat]'l.isLt
      let old := x.regs.getC c
      let m1 := { m0 with done := m.done + 1 }
      let s2 := (s1.modTile t fun x => (x.setOp m1).commitRow m c m.done fun n =>
        arrayEntry (if acc then accEntry old m.done n else 0) (products a (w.column n a.length))).followMma t
      if m1.count ≤ m1.done then s2.finishMx t m1 else s2

/-! ### MDRAIN (R240, R241) -/

/-- The mode a drain rounds with, resolved at issue (R181, R240). -/
def State.drainMode (s : State) (r : RM) : RM :=
  match r with
  | .dyn => match s.src.ctl.rCvt.toNat with
    | 0 => .rne
    | 1 => .rtz
    | 2 => .rdn
    | 3 => .rup
    | _ => .sr
  | r => r

/-- The seed after n steps (R183). -/
def seedAfter : Nat → BitVec 32 → BitVec 32
  | 0, x => x
  | n + 1, x => seedAfter n (srStep x)

/-- The place of column n among the participating columns. -/
def columnRank (shape : BitVec 4) (n : Nat) : Nat := ((columns shape).filter (· < n)).length

/-- Entry (r, n) after the epilogue (R241). -/
def MxOp.epiValue (m : MxOp) (c : AccWord) (relu : Bool) (r n : Nat) : Num :=
  let epi := m.epi.getD []
  epilogue (readNum .a56 (accEntry c r n).toNat)
    (if m.ss.getLsbD 32 then some (epiNum epi r) else none)
    (if m.ss.getLsbD 33 then some (epiNum (epi.drop 256) n) else none)
    (if m.ss.getLsbD 34 then some (epiNum (epi.drop 512) n) else none) relu

/-- Element (n, r) of a drain converted (R241); the seed has stepped once for each element before it and for it (R183). -/
def MxOp.drainElem (m : MxOp) (c : AccWord) (relu sat : Bool) (mode : RM) (ty : ETy) (r n : Nat) : Nat × Flags :=
  let k := r * (columns m.ashape).length + columnRank m.ashape n + 1
  convert ty (modeOf (seedAfter k m.seed) 0 mode) sat (m.epiValue c relu r n)

/-- An element of w bits written at its own address: whole bytes, or the bits of a smaller one (R99, R134, R241). -/
def drainPut (d : Desc) (r n w v : Nat) : Word × List Patch :=
  (dAddr d n r 0 0, if w < 8 then [bitPatch (dBitOff d n) w v] else (leBytes (w / 8) v).map Patch.full)

/-- The scale bytes of element (n, r) of an SX destination, in the block its own linear offset gives: the shared exponent, and the
micro-exponent of its pair (R100, R178, R241). -/
def drainScale (f : SxFmt) (d : Desc) (r n ex mu : Nat) : Word × List Patch :=
  let l := dLinear d n r 0 0
  (dScaleAddr d f l, [Patch.full (BitVec.ofNat 8 ex), bitPatch (sxPair f l (dBitOff d n)) 1 mu])

/-- The writes of row r of a drain, with its flags (R134, R223, R241). Where a stride of an SX destination puts elements of several
pairs behind one micro-exponent bit, the last column's stands, the model's choice (log entry 101). -/
def MxOp.drainRow (m : MxOp) (c : AccWord) (relu sat : Bool) (mode : RM) (r : Nat) : List (Word × List Patch) × Flags :=
  match drainTy m.desc, dSx m.desc with
  | some ty, _ =>
    let l := (columns m.ashape).map fun n => (n, m.drainElem c relu sat mode ty r n)
    (l.map fun p => drainPut m.desc r p.1 (dBits m.desc) p.2.1, (l.map (·.2.2)).foldl (· ||| ·) 0)
  | none, some f =>
    let l := ((List.range 4).filter fun b => m.ashape.getLsbD b).map fun b =>
      (b, sxBlock f ((List.range 16).map fun i => m.epiValue c relu r (16 * b + i)))
    (l.flatMap fun p =>
      (p.2.1.elems.zipIdx.map fun e => drainPut m.desc r (16 * p.1 + e.2) (SxFmt.width f) e.1) ++
      (List.range 16).map fun i => drainScale f m.desc r (16 * p.1 + i) p.2.1.ex (p.2.1.mu.testBit (i / 2)).toNat,
     (l.map (·.2.2)).foldl (· ||| ·) 0)
  | none, none => ([], 0)

/-- Row r of a drain written (R241). -/
def State.drainWrite (s : State) (t : TileIx) (m : MxOp) (c : AccWord) (relu sat : Bool) (mode : RM) (r : Nat) :
    Except MxStop (State × Flags) :=
  let w := m.drainRow c relu sat mode r
  match dSpc m.desc with
  | .sp => .ok (w.1.foldl (fun s e => s.mxStore t e) s, w.2)
  | _ =>
    match s.mxSend t m w.1 with
    | .error e => .error e
    | .ok s1 => .ok (s1, w.2)

/-- The rows of a drain from the one it has reached, until it stops or all are written (R241, R247). `acc` is the tile as
the drain reads it. -/
def State.drainRows (t : TileIx) (acc : AccReg) (c : AccWord) (relu sat : Bool) (mode : RM) : Nat → State → MxOp → State
  | 0, s, _ => s
  | n + 1, s, m =>
    if m.count ≤ m.done || s.writeBehind t m then s.modTile t (·.setOp m)
    else if (s.tile t).rowPoisoned acc m.ashape m.done then s.stopMx t m causeEccUncorr 2 (accPoisonAddr acc m.done)
    else
      match s.drainWrite t m c relu sat mode m.done with
      | .error e => s.mxStopped t m e
      | .ok (s1, f) =>
        State.drainRows t acc c relu sat mode n s1
          { m with done := m.done + 1, flags := m.flags ||| f }

/-- The vectors as they stand in the record of a drain: absent ones zero. -/
def epiBytes (ss : Word) (bss : List (List Byte)) : List Byte :=
  ((List.range 3).foldl (fun (p : List Byte × List (List Byte)) i =>
    if ss.getLsbD (32 + i) then (p.1 ++ p.2.headD [], p.2.drop 1) else (p.1 ++ List.replicate 256 0, p.2)) ([], bss)).1

/-- A drain goes on: it reads its epilogue block once the accesses before it have been performed, and then writes its rows
(R108, R240, R241). -/
def State.drainOn (s : State) (t : TileIx) (m : MxOp) (acc : AccReg) (c : AccWord) (relu sat : Bool) (mode : RM) : State :=
  match m.epi with
  | some _ => State.drainRows t acc c relu sat mode 65 s m
  | none =>
    if s.readBehind t m then s
    else match State.mxReads t .sp (epiReads m.ss) s m with
      | .error e => s.mxStopped t m e
      | .ok (s1, m1, bss) =>
        State.drainRows t acc c relu sat mode 65 s1 { m1 with epi := some (epiBytes m.ss bss), held := [] }

/-- `MDRAIN` (R240, R241): the epilogue block is read and the rows are written at issue, behind the accesses before it; a row
whose page does not translate parks (R247). R236 does not place the MISALIGN of the epilogue block among the checks: it comes
after ILLEGAL_OP and before QUORUM_UNSAFE, the model's choice (log entry 88). One that a `RETT` with REPLAY issues while
`MXPROG`.ACT is set, with no stopped instruction to continue, steps its seed for the whole drain (log entry 103). -/
def execMdrain (c : AccReg) (k : DReg) (rs : SReg) (relu sat : Bool) (r : RM) (s : State) : Out :=
  let d := s.rdD k
  let ss := s.rdS rs
  let cnt := ssDrainCnt ss
  let mode := s.drainMode r
  let shape := s.src.ctl.ashape
  let epi := (ss.extractLsb' 0 32).zeroExtend 64
  match s.continued with
  | some o =>
    let e := s.continueMx o
    .next (match o.kind with
      | .mdrain c relu sat mode => e.1.drainOn s.cur e.2 c (s.src.getC c) relu sat mode
      | _ => e.1)
  | none =>
  if !dOk d false true || cnt == 0 || decide (64 < cnt) || ((dSx d).isSome && mode != .rne) then s.illegal
  else if ss.extractLsb' 32 3 != 0 && epi.toNat % 64 != 0 then s.issueTrap causeMisalign epi
  else
    let targets := (List.range cnt).flatMap (drainRowTargets d shape)
    s.frameGuard (dSpc d) targets <|
      if (dSpc d == .sp && targets.any fun e => s.spWaits s.cur s.ctxn e.1.toNat e.2) ||
          (epiReads ss).any fun e => s.spWaits s.cur s.ctxn e.1.toNat e.2 then s.hold
      else
        let s0 := if dSpc d == .sp then s.offendIf s.cur true (s.lowestBad s.ctxn targets) else s
        let seed := s0.regs.ctl.srseed
        let s1 := if mode == .sr then s0.setSeed (seedAfter (cnt * (columns shape).length) seed) else s0
        let m := { s1.newOp (.mdrain c relu sat mode) d ss with
          seed := seed, epi := if (epiReads ss).isEmpty then some (epiBytes ss []) else none }
        let e := s1.enterMx m
        .next (e.1.drainOn s.cur e.2 c (s.src.getC c) relu sat mode)

/-! ### Matrix work goes on (R238, R239, R241, R247, R248) -/

/-- A matrix instruction in flight goes on from where it stands, unless it cannot (R245, R247). -/
def State.mxGo (s : State) (t : TileIx) (m : MxOp) : State :=
  if s.mxStands t m then s
  else match m.kind with
    | .mma c l absorb j c1 acc => s.commitMma t m c l absorb j c1 acc
    | .mldw l expand j c1 g1 => State.loadColumns t l expand j c1 g1 65 s m
    | .mdrain c relu sat mode => s.drainOn t m c ((s.tile t).regs.getC c) relu sat mode
    | .steepld .. => s

/-- The accesses of matrix instructions that a save dropped are issued again (R248). -/
def State.mxReissue (s : State) (t : TileIx) : State :=
  (s.tile t).mx.ops.foldl (fun s m => match (s.tile t).opAt m.order with
    | some m => s.mxGo t m
    | none => s) s

/-- MLDW_LATCH_LOADED: the load of a latch goes on to its last column, unless it is parked (R238, R247). -/
def execMldwLatchLoaded (t : TileIx) (l : LReg) (s : State) : Out :=
  .next <|
    match (s.tile t).firstOp (fun k => match k with
      | .mldw a .. => a == l
      | _ => false) with
    | none => s
    | some m => if s.matrixRuns t then s.mxGo t m else s

/-- MMA_ROW_COMMIT: the older `MMA` in flight commits its next row, unless it is parked (R239, R245). -/
def execMmaRowCommit (t : TileIx) (s : State) : Out :=
  .next <|
    match (s.tile t).mmas.head? with
    | none => s
    | some m => if s.rowsRun t then s.mxGo t m else s

/-- The flags of a drain set for the mode that issued it (R241, R377). -/
def Tile.drainFlags (x : Tile) (m : MxOp) : Tile :=
  if m.hnd == x.banked.isSome then
    { x with regs := { x.regs with ctl := { x.regs.ctl with fpflags := x.regs.ctl.fpflags ||| m.flags } } }
  else { x with banked := x.banked.map fun b => { b with fpflags := b.fpflags ||| m.flags } }

/-- MDRAIN_COMPLETE: the oldest drain that can go on writes what rows it still has, sets its flags and releases its tile (R241,
R247). -/
def execMdrainComplete (t : TileIx) (s : State) : Out :=
  .next <|
    match (s.tile t).mx.ops.find? fun m => m.isDrain && !s.mxStands t m with
    | none => s
    | some m =>
      if s.rowsRun t then
        let s1 := s.mxGo t m
        match (s1.tile t).opAt m.order with
        | some m1 => if m1.count ≤ m1.done && !m1.parked then (s1.modTile t (·.drainFlags m1)).finishMx t m1 else s1
        | none => s1
      else s

/-! ### MZERO and MSYNC (R242, R243) -/

/-- `MZERO`: every entry is +0 (R242), and none is poisoned (R392). -/
def execMzero (c : AccReg) (s : State) : Out :=
  if s.t.mx.spill.getLsbD c.toNat then s.issueTrap causeAccParked (c.zeroExtend 64)
  else .next ((s.modRegs (·.setC c 0)).modT fun x =>
    { x with
      mx := { x.mx with written := setMap x.mx.written c true }
      accPoison := x.accPoison.filter fun e => e / 4096 != c.toNat })

/-- `MSYNC` waits until no matrix instruction is in flight (R243). -/
def execMsync (s : State) : Out := if s.t.mx.ops.isEmpty then .next s else s.hold

/-! ### STEEPLD (R244) -/

/-- `STEEPLD` (R244): the range and grant checks cover the images of every slot of the mask, and each slot records its
format and source. -/
def execSteepld (f : MFmt) (rs : SReg) (ms : BitVec 4) (s : State) : Out :=
  checked (.steepld f rs ms) s <|
  let a := s.rdS rs
  let size := mfImageBytes (MFmt.code f)
  let n := ((List.range 4).filter fun i => ms.getLsbD i).length
  aligned 64 a s <|
    if decide (0x1780000 < a.toNat + n * size) then
      s.issueTrap causeProt (if decide (0x1780000 ≤ a.toNat) then a else 0x1780000)
    else match s.cdStop [(a, n * size)] with
      | some (c, o) => s.issueTrap c o
      | none =>
        let e := s.enterMx (s.newOp (.steepld f ms) 0 a)
        .next (e.1.modT fun x => (List.range 4).foldl (fun x i =>
          if ms.getLsbD i then x.modSlot (BitVec.ofNat 2 i) fun p =>
            let rank := ((List.range i).filter fun k => ms.getLsbD k).length
            { p with valid := true, fmt := MFmt.code f, src := a + BitVec.ofNat 64 (rank * size) }
          else x) x)

/-- The slot a `STEEPLD` loads next. -/
def MxOp.nextSlot (m : MxOp) (ms : BitVec 4) : Option (BitVec 2) :=
  (((List.range 4).filter fun i => ms.getLsbD i)[m.done]?).map (BitVec.ofNat 2)

/-- A `STEEPLD` after one of its slots: it completes with its last. -/
def State.slotDone (s : State) (t : TileIx) (m : MxOp) : State :=
  if m.count ≤ m.done then s.finishMx t m else s.modTile t (·.setOp m)

/-- A slot that cannot be loaded is empty, and the task takes the cause at its next bundle boundary (R153, R244, R389). -/
def State.slotLost (s : State) (t : TileIx) (m : MxOp) (a : BitVec 2) (cause : BitVec 8) (off : Nat) : State :=
  ((s.modTile t fun x => x.modSlot a fun _ => .empty).raiseAsync t cause 9 (BitVec.ofNat 64 off)).slotDone t
    { m with done := m.done + 1 }

/-- STEEPLD_SLOT_LOADED: the oldest load of slots loads its next slot from its Caddy image, whose range and grant were checked
at issue, or for a reload at the restore (R362, R389). An uncorrectable line leaves the slot empty, and the task takes ECC_UNCORR
at its next bundle boundary (R153, R244). -/
def execSteepldSlotLoaded (t : TileIx) (s : State) : Out :=
  .next <|
    match (s.tile t).firstOp (fun k => match k with
      | .steepld .. => true
      | _ => false) with
    | none => s
    | some m =>
      match m.kind with
      | .steepld f ms =>
        if !s.matrixRuns t then s
        else match m.nextSlot ms with
          | none => s.finishMx t m
          | some a =>
            let x := s.tile t
            let p := x.slotNo a.toNat
            let n := mfImageBytes (MFmt.code f)
            match s.cdDamaged t p.src.toNat n with
            | some o => s.slotLost t m a causeEccUncorr o
            | none =>
              let v := ((x.caddy.regionAt p.src.toNat).map (·.version)).getD 0
              let s1 := s.modTile t fun x =>
                { x.modSlot a fun p => p.load (s.cdRead t p.src.toNat n) with
                  peat := { x.peat with sver := x.peat.sver.set a.toNat v a.isLt } }
              s1.slotDone t { m with done := m.done + 1 }
      | _ => s

/-! ### Bands (R228) -/

/-- BAND_IDLE_GATE: a band outside `ASHAPE` that has done no work for 256 cycles is gated (R228). -/
def execBandIdleGate (t : TileIx) (b : BitVec 2) (s : State) : Out :=
  .next (s.modTile t fun x =>
    if s.phase == .up && x.run.isSome && !x.regs.ctl.ashape.getLsbD b.toNat && !x.mx.gated.getLsbD b.toNat &&
        !(x.mmas.any fun m => m.ashape.getLsbD b.toNat) && decide (x.mx.idle[b.toNat]'b.isLt + 256 ≤ x.cyc) then
      { x with mx := { x.mx with gated := x.mx.gated ||| (1#4 <<< b.toNat), waking := x.mx.waking &&& ~~~(1#4 <<< b.toNat) } }
    else x)

/-- BAND_WAKE_COMPLETE: the wake of a band ends (R228). -/
def execBandWakeComplete (t : TileIx) (b : BitVec 2) (s : State) : Out :=
  .next (s.modTile t fun x =>
    if x.mx.waking.getLsbD b.toNat then
      { x with mx := { x.mx with
          gated := x.mx.gated &&& ~~~(1#4 <<< b.toNat), waking := x.mx.waking &&& ~~~(1#4 <<< b.toNat)
          idle := x.mx.idle.set b.toNat x.cyc b.isLt } }
    else x)

end Sys2Proof.Machine
end

