-- ==== Sys2Proof/Machine/Mupd.lean ====
section
/-! DEFINITION. Weight updates: the subcommands of `MUPD` and the journal of a Caddy region (R371, R404 to R408). -/

namespace Sys2Proof.Machine

/-! ### Issue (R404) -/

/-- A subcommand issued: it enters no engine queue (R404). -/
def State.issueMupd (s : State) (i : Instr) (tk : SReg) (db : Desc) (w : Word) : Out :=
  let m : MupdCmd :=
    { instr := i, db := db, s := w, token := tk, task := (s.t.run.map (·.record.task)).getD 0, live := true, ctx := s.ctxn
      hnd := s.src.ctl.hnd, reached := 0, remapped := 0, switched := false, result := none, parked := false }
  checked i s <| s.notMember <| .next (s.modT fun x => { x with mupd := x.mupd ++ [m] })

/-- `MUPD.BEGIN` (R404). -/
def execMupdBegin (tk a : SReg) (s : State) : Out := s.issueMupd (.mupdBegin tk a) tk 0 (s.rdS a)

/-- The bytes of a `MUPD.WRITE` source: its elements' width over 8 (R404). -/
def mupdBytes (d : Desc) : Nat := dTotal d * dBits d / 8

/-- `MUPD.WRITE`: the checks of its source and its offset (R101, R404). -/
def execMupdWrite (tk : SReg) (db : DReg) (a : SReg) (s : State) : Out :=
  let d := s.rdD db
  checked (.mupdWrite tk db a) s <|
  if !dOk d false false || dSpace d == 2 || dTotal d * dBits d % 512 != 0 then s.illegal
  else aligned 64 (s.rdS a) s <| s.issueMupd (.mupdWrite tk db a) tk d (s.rdS a)

/-- `MUPD.COMMIT` (R404). -/
def execMupdCommit (tk a : SReg) (s : State) : Out := s.issueMupd (.mupdCommit tk a) tk 0 (s.rdS a)
/-- `MUPD.ABORT` (R404). -/
def execMupdAbort (tk a : SReg) (s : State) : Out := s.issueMupd (.mupdAbort tk a) tk 0 (s.rdS a)

/-! ### Regions, pages and lines -/

/-- A region entry. -/
def Caddy.region (c : Caddy) (i : BitVec 4) : Region := c.regions[i.toNat]'i.isLt
/-- A Caddy with a region entry changed. -/
def Caddy.modRegion (c : Caddy) (i : BitVec 4) (f : Region → Region) : Caddy :=
  { c with regions := c.regions.set i.toNat (f (c.region i)) i.isLt }
/-- The Caddy of a tile changed. -/
def Tile.modCaddy (x : Tile) (f : Caddy → Caddy) : Tile := { x with caddy := f x.caddy }

/-- The physical page of a logical 4 KiB page (R406). -/
def Caddy.physPage (c : Caddy) (p : Nat) : Nat := (assocGet c.pageMap p).getD p
/-- The write count of a physical page (R406). -/
def Caddy.wearOf (c : Caddy) (p : Nat) : Nat := (assocGet c.wear p).getD 0
/-- A write of a physical page counted: 48 bits (R406). -/
def Caddy.wearPage (c : Caddy) (p : Nat) : Caddy := { c with wear := assocSet c.wear p ((c.wearOf p + 1) % 2 ^ 48) }
/-- A page is retired once its counter has passed 10^12 (R406). -/
def Caddy.retired (c : Caddy) (p : Nat) : Bool := decide (1000000000000 < c.wearOf p)

/-- The least-worn page of a list, the lowest of equals. -/
def Caddy.leastWorn (c : Caddy) : List Nat → Option Nat
  | [] => none
  | p :: l => match c.leastWorn l with
    | none => some p
    | some q => if c.wearOf p < c.wearOf q || (c.wearOf p == c.wearOf q && decide (p ≤ q)) then some p else some q

/-- The page the pool hands out next: the least-worn free page that is not retired (R406). -/
def Caddy.nextPage (c : Caddy) : Option Nat := c.leastWorn (c.pool.filter fun p => !c.retired p)

/-- A line moved to a spare, which replaces whatever held it, where one is left (R406, R417). -/
def Caddy.spare (c : Caddy) (l : Nat) : Caddy :=
  if c.spares = 0 then c else { c with weak := numDel c.weak l, spared := numPut c.spared l, spares := c.spares - 1 }

/-- A physical line written and verified: a line that goes on failing moves to a spare, if one is left (R406). -/
def Caddy.verify (c : Caddy) (l : Nat) : Option (Caddy × Bool) :=
  if numIn c.weak l then (if c.spares = 0 then none else some (c.spare l, true)) else some (c, false)

/-- The contents of a region. -/
def Caddy.regionBytes (c : Caddy) (r : Region) : List Byte := cellsRead c.bytes (65536 * r.base.toNat) (65536 * r.len.toNat)

/-- The measurement of a region: the digest of tile, BASE, LEN, version and contents; after these the lines that are lost (R371,
R417; log entry 12). -/
def Caddy.digest (c : Caddy) (t : TileIx) (r : Region) : BitVec 256 :=
  Config.sm3 ([t.toNat, r.base.toNat, r.len.toNat, r.version.toNat] ++ (c.regionBytes r).map (·.toNat) ++ r.lost)

/-! ### The transaction -/

/-- The staging discarded and UPDATING cleared: an ABORT, or a rollback (R404, R408). -/
def Caddy.rollback (c : Caddy) : Caddy :=
  match c.txn with
  | none => c
  | some x =>
    { c.modRegion x.region fun r => { r with updating := false } with
      txn := none, pool := (x.pages.map (·.2)).foldl numPut c.pool }

/-- The switch: the staged lines become the region's, at the next version (R407). -/
def Caddy.switch (c : Caddy) : Caddy :=
  match c.txn with
  | none => c
  | some x =>
    let bytes := x.lines.foldl (fun b l => cellsWrite b (64 * l) (cellsRead x.bytes (64 * l) 64)) c.bytes
    { c.modRegion x.region fun r => { r with version := r.version + 1 } with bytes := bytes }

/-- What follows the switch: the measurement, the old pages back in the pool, UPDATING clear, and DAMAGED clear once every
lost line has been written (R407). -/
def Caddy.finishCommit (c : Caddy) (t : TileIx) : Caddy :=
  match c.txn with
  | none => c
  | some x =>
    let old := x.pages.map fun p => c.physPage p.1
    let c1 := c.modRegion x.region fun r =>
      let lost := r.lost.filter fun l => !numIn x.lines l
      let r1 := { r with updating := false, lost := lost, damaged := r.damaged && !lost.isEmpty }
      { r1 with measure := c.digest t r1, measured := r1.version }
    { c1 with
      txn := none, pool := old.foldl numPut c.pool
      pageMap := x.pages.foldl (fun m p => assocSet m p.1 p.2) c.pageMap }

/-! ### The subcommands (R405 to R407) -/

/-- The outcome of a subcommand with a code and DETAIL. -/
def mupdDone (code : BitVec 8) (detail : Nat) : Word × Option TrapRec := (engStatus code 0 (BitVec.ofNat 32 detail), none)

/-- The subcommand as the engines' reads take it (R404). -/
def MupdCmd.cmd (m : MupdCmd) : EngCmd :=
  { instr := m.instr, da := 0, db := m.db, s0 := m.s, s1 := 0, token := m.token, count := 0, order := 0, task := m.task
    live := m.live, cancelled := false, ctx := m.ctx, hnd := m.hnd, started := true, reached := m.reached, leftNs := 0, buf := none
    scaled := 0, kv := none, result := none, parked := false }

/-- The entry an operand names. -/
def MupdCmd.entry (m : MupdCmd) : BitVec 4 := m.s.extractLsb' 0 4

/-- The first subcommand of a tile changed. -/
def Tile.setMupd (x : Tile) (m : MupdCmd) : Tile :=
  { x with mupd := match x.mupd with
    | _ :: l => m :: l
    | [] => [] }

/-- The context owns a region (R405). -/
def Region.ownedBy (r : Region) (c : CtxNo) : Bool := r.valid && r.owner == c

/-- `BEGIN` carried out (R404, R405). -/
def State.mupdBegin (s : State) (t : TileIx) (m : MupdCmd) : State × (Word × Option TrapRec) :=
  let c := (s.tile t).caddy
  let r := c.region m.entry
  if !r.ownedBy m.ctx then (s, mupdDone 13 0)
  else if c.txn.isSome then (s, mupdDone 21 0)
  else
    (s.modTile t fun x => x.modCaddy fun c =>
      { c.modRegion m.entry fun r => { r with updating := true } with txn := some ⟨m.entry, m.ctx, [], [], []⟩ },
     mupdDone 0 r.version.toNat)

/-- The elements of 64-byte line k of a source read, packed in element order (R404, R406). -/
def State.mupdElems (t : TileIx) (m : MupdCmd) (k0 : Nat) : Nat → State → EngR Nat
  | 0, s => .ok (s, 0)
  | n + 1, s =>
    let w := dBits m.db
    match s.engRead t m.cmd (dSpc m.db) (dAt m.db k0) ((w + 7) / 8) with
    | .error e => .error e
    | .ok (s1, bs) => match State.mupdElems t m (k0 + 1) n s1 with
      | .error e => .error e
      | .ok (s2, v) => .ok (s2, v <<< w ||| streamValue m.db k0 bs)

/-- The bytes of line k of a source. -/
def State.mupdLine (s : State) (t : TileIx) (m : MupdCmd) (k : Nat) : EngR (List Byte) :=
  let n := 512 / dBits m.db
  match State.mupdElems t m (n * k) n s with
  | .error e => .error e
  | .ok (s1, v) => .ok (s1, leBytes 64 v)

/-- A line staged: its page copied into the pool where the transaction first touches it, the line written and verified; none
where no spare is left (R406). -/
def Caddy.stage (c : Caddy) (x : Txn) (off : Nat) (bs : List Byte) : Option (Caddy × Bool) :=
  let p := off / 4096
  let page := ((assocGet x.pages p).orElse fun _ => c.nextPage).getD 0
  let fresh := (assocGet x.pages p).isNone
  let c1 := if fresh then { c.wearPage page with pool := numDel c.pool page } else c
  match c1.verify (page * 64 + off % 4096 / 64) with
  | none => none
  | some (c2, moved) =>
    let y := { x with
      bytes := cellsWrite x.bytes off bs, lines := numPut x.lines (off / 64)
      pages := if fresh then x.pages ++ [(p, page)] else x.pages }
    some ({ c2 with txn := some y }, moved)

/-- The lines of a `WRITE` from the one it has reached (R153, R405, R406). -/
def State.stageLines (t : TileIx) : Nat → State → MupdCmd → State
  | 0, s, _ => s
  | n + 1, s, m =>
    let fin (s : State) (o : Word × Option TrapRec) : State := s.modTile t (·.setMupd { m with result := some o })
    if mupdBytes m.db ≤ 64 * m.reached then fin s (mupdDone 0 m.remapped)
    else match s.mupdLine t m m.reached with
      | .error .wait => s.modTile t (·.setMupd m)
      | .error (.park va acc mal) =>
        if s.parkFull t then s.modTile t (·.setMupd m)
        else (s.park t m.ctx va acc mal .mupd).modTile t (·.setMupd { m with parked := true })
      | .error (.done o) => fin s (o.1, o.2.2)
      | .ok (s1, bs) =>
        match (s1.tile t).caddy.txn with
        | none => fin s1 (mupdDone 22 0)
        | some x =>
          match (s1.tile t).caddy.stage x (m.s.toNat + 64 * m.reached) bs with
          | none => fin s1 (mupdDone 24 m.remapped)
          | some (c, moved) =>
            State.stageLines t n (s1.modTile t fun x => x.modCaddy fun _ => c)
              { m with reached := m.reached + 1, remapped := m.remapped + (if moved then 1 else 0) }

/-- The pages a `WRITE` would stage for the first time (R405). -/
def newPages (x : Txn) (off n : Nat) : List Nat :=
  ((List.range ((off % 4096 + n + 4095) / 4096)).map (off / 4096 + ·)).filter fun p => (assocGet x.pages p).isNone

/-- The code that refuses a `WRITE` at once: the region it names is that of the context's open transaction, or else the one its
offset lies in (R405; log entry 47). -/
def Caddy.writeRefused (c : Caddy) (m : MupdCmd) : Option (BitVec 8) :=
  match c.txn.filter fun x => x.ctx == m.ctx with
  | some x => if (c.region x.region).ownedBy m.ctx then none else some 13
  | none => if (c.regionAt m.s.toNat).any fun r => !r.ownedBy m.ctx then some 13 else some 22

/-- `WRITE` carried out: refused whole, or staged line by line (R405, R406). -/
def State.mupdWrite (s : State) (t : TileIx) (m : MupdCmd) : State :=
  let c := (s.tile t).caddy
  let n := mupdBytes m.db
  let no (k : BitVec 8) : State := s.modTile t (·.setMupd { m with result := some (mupdDone k 0) })
  match c.writeRefused m, c.txn with
  | some k, _ => no k
  | none, none => no 22
  | none, some x =>
    let r := c.region x.region
    let new := newPages x m.s.toNat n
    if m.s.toNat < 65536 * r.base.toNat || 65536 * (r.base.toNat + r.len.toNat) < m.s.toNat + n then no 26
    else if 512 < x.pages.length + new.length || (c.pool.filter fun p => !c.retired p).length < new.length then no 23
    else State.stageLines t (n / 64 + 1) s m

/-- Reads of a Caddy that are in progress: matrix loads, Steep loads and started copies (R407). -/
def Tile.caddyReads (x : Tile) : Bool :=
  (x.mx.ops.any fun m => match m.kind with
    | .steepld .. => true
    | _ => m.desc.extractLsb' 48 2 == 2) ||
  x.eng.toList.any fun q => q.cmds.any fun c => c.started && c.result.isNone && isCopy c.instr && dSpace c.db == 2

/-- COMMIT and ABORT name the open transaction of their context; else the code that refuses them (R405). -/
def Caddy.mupdOpen (c : Caddy) (m : MupdCmd) : Option (BitVec 8) :=
  if !(c.region m.entry).ownedBy m.ctx then some 13
  else if c.txn.any fun x => x.region == m.entry && x.ctx == m.ctx then none
  else some 22

/-- The subcommand at the head carried as far as it goes. -/
def State.mupdRun (s : State) (t : TileIx) (m : MupdCmd) : State :=
  let c := (s.tile t).caddy
  let fin (s : State) (o : Word × Option TrapRec) : State := s.modTile t (·.setMupd { m with result := some o })
  if !s.port.ready0.getLsbD (12 + (dieOf t).toNat) then fin s (mupdDone 20 0)
  else match m.instr with
    | .mupdBegin .. => let r := s.mupdBegin t m; fin r.1 r.2
    | .mupdWrite .. => s.mupdWrite t m
    | .mupdCommit .. =>
      if m.switched then
        fin (s.modTile t fun x => x.modCaddy fun c => c.finishCommit t) (mupdDone 0 (c.region m.entry).version.toNat)
      else match c.mupdOpen m with
        | some k => fin s (mupdDone k 0)
        | none =>
          if (s.tile t).caddyReads then s
          else s.modTile t fun x => (x.modCaddy (·.switch)).setMupd { m with switched := true }
    | _ => match c.mupdOpen m with
      | some k => fin s (mupdDone k 0)
      | none => fin (s.modTile t fun x => x.modCaddy (·.rollback)) (mupdDone 0 0)

/-- The status word of a subcommand written to its token register (R151, R404), and a cause for its task (R153). -/
def State.mupdFinish (s : State) (t : TileIx) (m : MupdCmd) (o : Word × Option TrapRec) : State :=
  let alive := (s.tile t).cmdLive m.cmd
  let s1 := s.modTile t fun x =>
    let y := { x with mupd := x.mupd.drop 1 }
    if alive then y.putToken m.cmd o.1 else y
  match o.2 with
  | none => s1
  | some f => if alive then s1.raiseAsync t f.cause 9 f.addr else s1

/-- MUPD_COMPLETE: the oldest subcommand of a tile goes on; once its outcome is known it completes. A COMMIT first makes its
switch, and completes later (R404 to R407). -/
def execMupdComplete (t : TileIx) (s : State) : Out :=
  match (s.tile t).mupd with
  | [] => .next s
  | m :: _ =>
    if !s.engineRuns t || m.parked then .next s
    else match m.result with
      | some o => .next (s.mupdFinish t m o)
      | none =>
        let s1 := s.mupdRun t m
        .next (match (s1.tile t).mupd with
          | [] => s1
          | m1 :: _ => match m1.result with
            | some o => s1.mupdFinish t m1 o
            | none => s1)

end Sys2Proof.Machine
end

