-- ==== Sys2Proof/Machine/Scheduler.lean ====
section
/-! DEFINITION. The steps of the scheduler and the join units on their own: cuts, kills, aging, stealing, gang
reservation, quantum and quota stops (R22, R265, R269 to R275, R285, R286, R322, R375). -/

namespace Sys2Proof.Machine

/-- RESULT_WRITEBACK: the registers of a tile whose results have been written are free (R22). One whose result came after the
earliest cycle of the next bundle is kept for the check of R39. -/
def execResultWriteback (t : TileIx) (s : State) : Out :=
  .next (s.modTile t fun x => { x with pending := x.pending.filter fun p => decide (min x.cyc x.nextIssue < p.2) })

/-- The task on a tile stands at a bundle boundary where it could issue. -/
def State.atBoundary (s : State) (t : TileIx) : Bool :=
  let x := s.tile t
  s.phase == .up && x.run.any (fun r => !r.stopped && r.restoring.isNone) && x.power.st == .on &&
    x.power.waking.isNone && x.halted.isNone && !x.peat.held && x.wait.isNone && !x.killDue

/-- ASYNC_CAUSE_TAKEN: the oldest asynchronous cause of a task is taken at a bundle boundary, unless the task is killed
there (R275, R375, R382). -/
def execAsyncCauseTaken (t : TileIx) (s : State) : Out := .next (if s.atBoundary t then s.takeAsync t else s)

/-- HOLD_OVERRUN at a bundle boundary, behind the asynchronous causes that arose before it (R265, R275, R375, R382). -/
def execHoldOverrun (t : TileIx) (s : State) : Out :=
  .next (if s.atBoundary t && (s.tile t).overrunNext then s.takeHoldOverrun t else s)

/-! ### Ends, cuts and kills -/

/-- GRACE_EXPIRY: the grace timer of a quorum join has run out (R285). -/
def execGraceExpiry (h : Handle) (s : State) : Out :=
  match (s.join h).bind (·.quorum) with
  | some q => .next (if s.phase == .up && q.graceLeft == some 0 then s.evalJoin h true else s)
  | none => .next s

/-- KILL_NOTICE: a kill notice reaches the tile of its task (R286). -/
def execKillNotice (n : Nat) (s : State) : Out :=
  match assocGet s.kills n with
  | none => .next s
  | some m =>
    if !s.fabricUp then .next s
    else .next ({ s with kills := assocDel s.kills n }.modRun m.tile fun r =>
      if r.record.task == m.task then { r with killPending := true } else r)

/-- KILL_TAKEN: a kill takes effect at a kill point (R266, R275). -/
def execKillTaken (t : TileIx) (s : State) : Out :=
  .next (if s.phase == .up && (s.tile t).killDue && !(s.tile t).peat.held then s.takeKill t else s)

/-! ### Aging and stealing (R271, R272) -/

/-- AGING_STEP: a queued record gains a step of priority for each aging step it has waited (R271). -/
def execAgingStep (cl : ClusterIx) (n : Nat) (s : State) : Out :=
  .next (if s.phase == .up then s.modCluster cl fun k =>
    { k with queue := k.queue.map fun q =>
        if q.order == n && decide ((q.aged + 1) * k.agingNs ≤ q.waited) then { q with aged := q.aged + 1 } else q } else s)

/-- STEAL: an idle tile with no eligible work in its own queue takes the first record of R270 among those it may steal
(R272). -/
def execSteal (t : TileIx) (s : State) : Out :=
  if s.phase == .up && (s.tile t).idleAwake then
    match s.stealFor t with
    | none => .next s
    | some (c, q) => .next ((s.unqueue c q.order).dispatch t q c)
  else .next s

/-! ### Gang reservation (R273) -/

/-- The queued gang members of a cluster whose gang has waited past the threshold (R273). -/
def Cluster.overdueGangs (k : Cluster) : List Queued :=
  k.queue.filter fun q => q.record.gm && decide (k.reserveNs < q.waited)

/-- GANG_RESERVATION: the first gang past the threshold reserves the free tiles it can use together, and starts once it fits;
a reservation without a queued gang lapses (R273). -/
def execGangReservation (cl : ClusterIx) (s : State) : Out :=
  let k := s.cluster cl
  if s.phase != .up then .next s
  else match k.reserving with
    | some g =>
      if k.queue.any fun q => q.record.gm && q.record.gang == g then .next s
      else .next ((s.modCluster cl fun k => { k with reserving := none, reserved := [] }).offerAll cl)
    | none =>
      match bestQueued (k.overdueGangs.filter s.choosable) with
      | none => .next s
      | some q =>
        let r := q.record
        let ms := k.gangMembers r.ctxn r.gang
        let s1 := s.modCluster cl fun k => { k with reserving := some r.gang, reserved := gangBase ms (s.gangTiles cl cl r.gang) }
        .next (if s1.gangFits cl cl r then s1.startGang cl cl r else s1)

/-! ### Pre-emption falls due (R269, R322) -/

/-- The task on a tile has run its quantum while a queued record waits for it as higher work (R269). -/
def State.quantumOut (s : State) (t : TileIx) (q : Queued) : Bool :=
  let x := s.tile t
  match x.run with
  | none => false
  | some r =>
    x.power.st == .on && !x.peat.held && x.halted.isNone && (s.higher t).any (·.order == q.order) &&
      decide (x.view.quantum.toNat ≤ r.ranNs)

/-- The task on a tile may be pre-empted for a queued record: it stands at hold depth 0 (R269). -/
def State.qualifies (s : State) (t : TileIx) (q : Queued) : Bool :=
  (s.tile t).regs.ctl.holdDepth == 0 && s.quantumOut t q

/-- One tile is pre-empted before another: the lower running priority, then the longer time since a suspension point, then
the lower index (R269). -/
def State.victimBefore (s : State) (a b : TileIx) : Bool :=
  let x := s.tile a
  let y := s.tile b
  let ran (z : Tile) : Nat := ((z.run.map (·.ranNs)).getD 0)
  x.runPrio < y.runPrio || (x.runPrio == y.runPrio && (ran x > ran y || (ran x == ran y && decide (a.toNat ≤ b.toNat))))

/-- The tile on which a queued record has the pre-emption fall due: of the tiles that qualify, the first of R269; where none
does, the first whose task only its hold section defers (R266). -/
def State.victimFor (s : State) (t : TileIx) (q : Queued) : Bool :=
  let first (p : TileIx → Bool) : Bool := p t && allTiles.all fun u => !p u || s.victimBefore t u
  if allTiles.any fun u => s.qualifies u q then first fun u => s.qualifies u q else first fun u => s.quantumOut u q

/-- QUANTUM_EXPIRY: the task on a tile has run its quantum while higher work waits; of the tiles that qualify for a waiting
record one is pre-empted, and a record causes one pre-emption (R269). One that a hold section defers gives way to it. -/
def execQuantumExpiry (t : TileIx) (s : State) : Out :=
  let held (u : TileIx) : Bool := (s.tile u).regs.ctl.holdDepth != 0
  match (s.higher t).find? fun q => s.victimFor t q && !(allTiles.any fun u => u != t && !held u &&
      ((s.tile u).run.any (·.deepDue)) && (s.higher u).any (·.order == q.order)) with
  | none => .next s
  | some q =>
    if s.phase != .up then .next s
    else
      let s1 := allTiles.foldl (fun s' u =>
        if u != t && held u && s.quantumOut u q then s'.modRun u fun r => { r with deepDue := false } else s') s
      .next (s1.modRun t fun r => { r with deepDue := true })

/-- QUOTA_STOP_TIMEOUT: the tasks of a context that has been without quota for 50 µs are to be deeply pre-empted (R269,
R322). -/
def execQuotaStopTimeout (x : CtxNo) (s : State) : Out :=
  if s.phase != .up then .next s
  else .next { s with tiles := s.tiles.map fun y =>
    if y.regs.ctl.ctxn == x then
      { y with run := y.run.map fun r => if 50000 ≤ r.brokeNs then { r with deepDue := true } else r } else y }

/-- DEEP_PREEMPTION: a pre-emption that is due takes place while the task waits, before its next bundle (R264, R269). -/
def execDeepPreemption (t : TileIx) (s : State) : Out :=
  let x := s.tile t
  match x.run with
  | none => .next s
  | some r =>
    .next (if s.phase == .up && s.preemptDue t && !x.killDue && x.power.st == .on && !x.peat.held &&
        x.halted.isNone && (x.wait.isSome || s.hasParked t .fetch || r.stopped || r.restoring.isSome)
      then s.deepPreempt t else s)

end Sys2Proof.Machine
end

