-- ==== Sys2Proof/Machine/Power.lean ====
section
/-! DEFINITION. Power, energy and boost: sleep and wake, energy quotas, boost permits, frequency changes, throttling and
power kills (R312 to R330, R414, R416). -/

namespace Sys2Proof.Machine

/-! ### SLEEP and WAKE (R317 to R319) -/

/-- The idle target of the issuing tile set (R318). -/
def State.setIdle (s : State) (i : IdleTarget) : State := s.modT fun x => { x with power := { x.power with idle := i } }

/-- `SLEEP.CG` (R318). -/
def execSleepCg (s : State) : Out := .next (s.setIdle .none)
/-- `SLEEP.RETAIN` (R318). -/
def execSleepRetain (s : State) : Out := .next (s.setIdle .retain)
/-- `SLEEP.OFF`: PRIV outside system mode (R318). -/
def execSleepOff (s : State) : Out := systemOnly s <| .next (s.setIdle .off)

/-- The tiles a `WAKE` names; a system tile only for context 0 (R319). -/
def wakeTiles (c : CtxNo) (w : Word) : List TileIx :=
  ((List.range 8).filter fun i => w.getLsbD i).map (fun i => tileOf (w.extractLsb' 8 5) (BitVec.ofNat 3 i)) |>.filter
    fun t => c == 0 || !isSystemTile t

/-- `WAKE` (R319). -/
def execWake (a : SReg) (s : State) : Out :=
  .next ((wakeTiles s.ctxn (s.rdS a)).foldl (fun s t => s.wake t true) s)

/-- No engine command of a tile is in flight (R317). -/
def Tile.enginesIdle (x : Tile) : Bool := (x.eng.toList.all fun q => q.cmds.isEmpty) && x.mupd.isEmpty

/-- The power state a clock-gated tile has reached (R317, R318, R319, R330). -/
def Tile.idleReached (x : Tile) (g : Settings) : Option PowerSt :=
  let ready := x.power.st == .gated && x.run.isNone && x.power.waking.isNone && x.enginesIdle && !x.ctlPending && !x.peat.held
  if !ready then none
  else if x.power.prewarmed && decide (x.power.idleNs < g.prewarmNs) then none
  else match x.power.idle with
    | .retain => some .retain
    | .off => some .off
    | .none => match g.idleNs with
      | none => none
      | some n => if n ≤ x.power.idleNs then some .retain else none

/-- A tile without power to its logic; in OFF its scratchpad reads zero with tags full (R90, R317). -/
def Tile.sleep (x : Tile) (st : PowerSt) : Tile :=
  let y := { x with
    l1 := [], ic := [], tlb := []
    power := { x.power with st := st, idle := .none, idleNs := 0, prewarmed := false } }
  if st == .off then y.clearSp else y

/-- A tile that has woken is clock-gated; from OFF its scratchpad reads zero with tags full, whatever was written meanwhile (R90,
R317). -/
def Tile.woken (x : Tile) : Tile :=
  let y := if x.power.st == .off then x.clearSp else x
  { y with power := { x.power with st := .gated, idle := .none, idleNs := 0, waking := none } }

/-- IDLE_TARGET_REACHED: a clock-gated tile that is not reserved enters RETAIN or OFF (R317). -/
def execIdleTargetReached (t : TileIx) (s : State) : Out :=
  .next <|
    if s.phase != .up || (s.cluster (clusterOf t)).reserved.contains t then s
    else match (s.tile t).idleReached s.settings with
      | none => s
      | some st => (s.drain t).modTile t (·.sleep st)

/-- TILE_WAKE_COMPLETE: a tile that has woken is clock-gated and chooses among the queued tasks (R16, R317). -/
def execTileWakeComplete (t : TileIx) (s : State) : Out :=
  .next <|
    if s.phase == .up && (s.tile t).power.waking == some 0 then
      ((s.modTile t (·.woken)).freed t).offerAll (clusterOf t)
    else s

/-! ### Energy quotas (R320 to R322) -/

/-- The allowance in force is not limited (R321). -/
def Context.unlimited (x : Context) : Bool := x.curAllowance == 0xFFFFFFFF

/-- A context is charged once in a microsecond, for work of its tasks or engine commands since its last charge (R320). -/
def State.chargeable (s : State) (x : CtxNo) : Bool :=
  x != 0 && (s.ctx x).charged != some (s.time.toNat / 1000) && ((s.ctx x).worked || s.workers.contains x)

/-- QUOTA_CHARGE: Kettle charges a context other than 0 the µJ its work has used in a microsecond (R320). How much that is
lies with the estimators. -/
def execQuotaCharge (x : CtxNo) (uj : Nat) (s : State) : Out :=
  .next (if s.phase == .up && s.chargeable x then
    s.modCtx x fun k =>
      { k with charged := some (s.time.toNat / 1000), worked := false, quota := if k.unlimited then k.quota else k.quota - uj }
  else s)

/-- A context at a period boundary (R321, R354). -/
def Context.refill (k : Context) : Context :=
  { k with
    curAllowance := k.allowance, periodLeft := k.period.toNat
    quota := if k.allowance == 0xFFFFFFFF then 0x7FFFFFFFFFFFFFFF else k.allowance.toNat + min k.quota 0 }

/-- QUOTA_REFILL: a period boundary of a context; its queued tasks may be selected again (R321, R322). -/
def execQuotaRefill (x : CtxNo) (s : State) : Out :=
  .next <|
    if s.phase == .up && (s.ctx x).periodLeft == 0 then
      allClusters.foldl (fun s c => s.offerAll c) (s.modCtx x (·.refill))
    else s

/-! ### Operating points and rails (R12, R312 to R315) -/

/-- The order of the operating points (R12). -/
def OpPoint.rank : OpPoint → Nat
  | .minimum => 0
  | .nominal => 1
  | .boostStep => 2
  | .boost => 3

/-- The voltage of a point in mV (R12). -/
def OpPoint.mv : OpPoint → Nat
  | .minimum => 480
  | .nominal => 550
  | .boostStep => 605
  | .boost => 660

/-- The lower of two points. -/
def OpPoint.low (a b : OpPoint) : OpPoint := if OpPoint.rank a ≤ OpPoint.rank b then a else b
/-- The higher of two points. -/
def OpPoint.high (a b : OpPoint) : OpPoint := if OpPoint.rank a ≤ OpPoint.rank b then b else a
/-- The point one step below, and one step above. -/
def OpPoint.down : OpPoint → OpPoint
  | .boost => .boostStep
  | .boostStep => .nominal
  | _ => .minimum
def OpPoint.up : OpPoint → OpPoint
  | .minimum => .nominal
  | .nominal => .boostStep
  | _ => .boost

/-- The mV the ageing re-plans have raised a point of a voltage domain by (R416). -/
def Port.lift (p : Port) (dom : BitVec 6) (q : OpPoint) : Nat := (assocGet p.lifts (4 * dom.toNat + OpPoint.rank q)).getD 0
/-- The boost points of a voltage domain are withdrawn (R416). -/
def Port.withdrawn (p : Port) (dom : BitVec 6) : Bool := (p.age.toList[dom.toNat]?.getD 0).getLsbD 24
/-- The voltage domain of a cluster, of the fabric and the memory ports of a die, and of a band rail (R12, R416). -/
def clusterDom (cl : ClusterIx) : BitVec 6 := cl.zeroExtend 6
def fabricDom (d : DieIx) : BitVec 6 := 32 + d.zeroExtend 6
def portDom (d : DieIx) : BitVec 6 := 36 + d.zeroExtend 6
def bandDom (d : DieIx) (b : BitVec 2) : BitVec 6 := 40 + (d.zeroExtend 6 <<< (2 : Nat)) + b.zeroExtend 6

/-- V(P) of a cluster: the table of R12 with the cold offset, the margin requests and the ageing raises (R312, R414, R416). -/
def State.volts (s : State) (cl : ClusterIx) (p : OpPoint) : Nat :=
  OpPoint.mv p + (s.die (dieOfCluster cl)).cold + (s.cluster cl).power.margin + s.port.lift (clusterDom cl) p

/-- A running task of a cluster has a band in its `ASHAPE` (R313). -/
def State.usesBand (s : State) (cl : ClusterIx) (b : Nat) : Bool :=
  (tilesOf cl).any fun t => (s.tile t).run.isSome && (s.tile t).regs.ctl.ashape.getLsbD b

/-- The voltage of a point of a cluster on a band rail, with the rail's own raise (R313, R416). -/
def State.bandVolts (s : State) (cl : ClusterIx) (b : BitVec 2) (q : OpPoint) : Nat :=
  s.volts cl q + s.port.lift (bandDom (dieOfCluster cl) b) q

/-- What a cluster needs on a band rail (R313). -/
def State.bandNeed (s : State) (cl : ClusterIx) (b : BitVec 2) : Nat :=
  let k := (s.cluster cl).power
  s.bandVolts cl b (if s.usesBand cl b.toNat then OpPoint.high k.point k.target else .nominal)

/-- The target of a band rail: the largest need of its die's clusters (R313). -/
def State.bandTarget (s : State) (d : DieIx) (b : BitVec 2) : Nat := ((clustersOf d).map fun c => s.bandNeed c b).foldl max 0

/-- A band rail of a die. -/
def Die.band (d : Die) (b : BitVec 2) : Rail := d.bands[b.toNat]'b.isLt

/-- Every rail a cluster needs is at or above the voltage of a point (R313, R315). -/
def State.railsReach (s : State) (cl : ClusterIx) (p : OpPoint) : Bool :=
  let k := (s.cluster cl).power
  decide (s.volts cl p ≤ k.rail.mv) &&
    (List.range 4).all fun b => !s.usesBand cl b ||
      decide (s.bandVolts cl (BitVec.ofNat 2 b) p ≤ ((s.die (dieOfCluster cl)).band (BitVec.ofNat 2 b)).mv)

/-- The power side of a cluster changed. -/
def State.modPower (s : State) (cl : ClusterIx) (f : ClusterPower → ClusterPower) : State :=
  s.modCluster cl fun k => { k with power := f k.power }

/-- A voltage lies on the same side of the present one as the target in force (R315). -/
def Rail.sameWay (r : Rail) (v : Nat) : Bool :=
  (decide (r.mv < r.target) && decide (r.mv < v)) || (decide (r.target < r.mv) && decide (v < r.mv))

/-- A rail given a target it is to move to: at once where it stands or moves the same way, else once its step has completed
(R313, R315). -/
def Rail.aim (r : Rail) (v : Nat) : Rail := if r.mv == r.target || r.sameWay v then { r with target := v } else r

/-- The band rails of a die aimed at what its clusters need (R313). -/
def State.aimBands (s : State) (d : DieIx) : State :=
  s.modDie d fun x => { x with bands := Vector.ofFn fun i : Fin 4 => (x.bands[i]).aim (s.bandTarget d (BitVec.ofNat 2 i.val)) }

/-- A moving cluster whose rails have reached its target: the frequency is that of the target, and with its rail at the
target voltage it is steady (R315). A lowering waits for no band rail (R313). -/
def State.settleMove (s : State) (cl : ClusterIx) : State :=
  let k := (s.cluster cl).power
  if k.steady || k.pending.isSome || !s.railsReach cl k.target then s
  else s.modPower cl fun k => { k with point := k.target, steady := decide (k.rail.mv = k.rail.target) }

/-- A point in force as the target of a cluster: a lower one gives the frequency at once, a higher one once the rails reach
it (R313, R315). -/
def State.moveTo (s : State) (cl : ClusterIx) (q : OpPoint) : State :=
  let v := s.volts cl q
  let s1 := s.modPower cl fun k =>
    { k with
      target := q, pending := none, rail := { k.rail with target := v }
      point := if OpPoint.rank q < OpPoint.rank k.point then q else k.point
      steady := OpPoint.rank q ≤ OpPoint.rank k.point && decide (k.rail.mv = v) }
  (s1.aimBands (dieOfCluster cl)).settleMove cl

/-- A request enters the table of R315. -/
def State.request (s : State) (cl : ClusterIx) (q : OpPoint) : State :=
  let k := (s.cluster cl).power
  let v := s.volts cl q
  if k.steady then (if q == k.target && decide (v = k.rail.mv) then s else s.moveTo cl q)
  else if k.pending.isSome then s.modPower cl fun k => { k with pending := some q }
  else if k.rail.mv == k.rail.target || k.rail.sameWay v then s.moveTo cl q
  else s.modPower cl fun k => { k with pending := some q }

/-- The voltage table of a cluster has changed: a request for the point it is at or moves to (R312, R315, R416). -/
def State.retable (s : State) (cl : ClusterIx) : State :=
  let k := (s.cluster cl).power
  s.request cl (k.pending.getD k.target)

/-- The policy point of a cluster, capped at nominal where its boost points are withdrawn (R314, R416). -/
def State.policyOf (s : State) (cl : ClusterIx) : OpPoint :=
  let p := (s.cluster cl).power.policy
  if s.port.withdrawn (clusterDom cl) then OpPoint.low p .nominal else p

/-- The requested point: the lowest of the three caps (R314). -/
def State.requested (s : State) (cl : ClusterIx) : OpPoint :=
  let k := (s.cluster cl).power
  OpPoint.low (OpPoint.low (s.policyOf cl) k.permitCap) k.thermalCap

/-- The caps of a cluster changed: a new lowest cap is a request (R314). -/
def State.recap (s : State) (cl : ClusterIx) (f : ClusterPower → ClusterPower) : State :=
  let s1 := s.modPower cl f
  if s1.requested cl == s.requested cl then s1 else s1.request cl (s1.requested cl)

/-- FREQUENCY_REQUEST: system software sets the policy point of a cluster through Dyinusk (R314, R315). -/
def execFrequencyRequest (cl : ClusterIx) (p : OpPoint) (s : State) : Out :=
  .next (if s.phase == .up then s.recap cl fun k => { k with policy := p } else s)

/-- A rail a step of at most 10 mV nearer to its target (R315). -/
def Rail.stepped (r : Rail) : Rail :=
  { r with mv := if r.mv ≤ r.target then min r.target (r.mv + 10) else max r.target (r.mv - 10) }

/-- The voltage of the fabric island or the memory-port island of a die: that of the nominal point with the cold offset and
the ageing raises (R12, R312, R416; log entry 84). -/
def State.islandMv (s : State) (d : DieIx) (dom : BitVec 6) : Nat := OpPoint.mv .nominal + (s.die d).cold + s.port.lift dom .nominal

/-- The rails of the fabric and memory-port islands of a die aimed at their voltages (R315, R416). -/
def State.aimIslands (s : State) (d : DieIx) : State :=
  s.modDie d fun x =>
    { x with fabric := x.fabric.aim (s.islandMv d (fabricDom d)), port := x.port.aim (s.islandMv d (portDom d)) }

/-- RAIL_STEP: the step of a rail toward its target completes. A pending reversal is applied then; a band rail takes the target
that its clusters need by then (R313, R315). -/
def execRailStep (rail : RailId) (s : State) : Out :=
  .next <|
    match s.phase, rail with
    | .up, .cluster cl =>
      let s1 := s.modPower cl fun k => { k with rail := k.rail.stepped }
      match (s.cluster cl).power.pending with
      | some q => s1.moveTo cl q
      | none => s1.settleMove cl
    | .up, .band d b =>
      let s1 := s.modDie d fun x => { x with bands := x.bands.set b.toNat (x.band b).stepped b.isLt }
      let s2 := s1.modDie d fun x => { x with bands := x.bands.set b.toNat { x.band b with target := s1.bandTarget d b } b.isLt }
      (clustersOf d).foldl (fun s c => s.settleMove c) s2
    | .up, .fabric d =>
      s.modDie d fun x => { x with fabric := { x.fabric.stepped with target := s.islandMv d (fabricDom d) } }
    | .up, .port d => s.modDie d fun x => { x with port := { x.port.stepped with target := s.islandMv d (portDom d) } }
    | _, _ => s

/-- Dyinusk sets the cold offset of a die, 0 to 60 mV (R312). -/
def State.setCold (s : State) (d : DieIx) (mv : BitVec 6) : State :=
  if 60 < mv.toNat then s
  else (clustersOf d).foldl (fun s c => s.retable c) ((s.modDie d fun x => { x with cold := mv.toNat }).aimIslands d)

/-! ### Boost permits (R323 to R325) -/

/-- The rank of a cluster: the highest priority running on it (R323). -/
def State.clusterRank (s : State) (cl : ClusterIx) : Nat :=
  ((tilesOf cl).map fun t => if (s.tile t).run.isSome then (s.tile t).runPrio else 0).foldl max 0

/-- A cluster claims a permit at an edge (R323, R324, R329). -/
def State.claims (s : State) (cl : ClusterIx) : Bool :=
  let k := (s.cluster cl).power
  let d := s.die (dieOfCluster cl)
  decide (1 < OpPoint.rank (s.policyOf cl)) && decide (1 < OpPoint.rank k.thermalCap) && !k.noClaim &&
    (decide (1 < OpPoint.rank k.permitCap) || decide (s.settings.reclaim ≤ d.permits))

/-- The clusters of a die in the order claims are served: by rank, equal ranks from the pointer (R323). -/
def State.claimOrder (s : State) (d : DieIx) : List ClusterIx :=
  let p := (s.die d).pointer
  let l : List ClusterIx := (List.range 8).map fun i => d ++ (p + BitVec.ofNat 3 i)
  ((List.range 8).map fun i => 7 - i).flatMap fun r => l.filter fun c => s.clusterRank c == r

/-- A claim served, or refused with an empty pool; a cluster that makes no claim falls to nominal (R323, R324). -/
def State.serveClaim (s : State) (claim : Bool) (cl : ClusterIx) : State :=
  let d := dieOfCluster cl
  let k := (s.cluster cl).power
  if !claim then s.recap cl fun k => { k with permitCap := .nominal, noClaim := false }
  else if (s.die d).permits = 0 then
    s.recap cl fun k' => { k' with permitCap := OpPoint.high .nominal (OpPoint.down k.permitCap), noClaim := k.permitCap == .boost }
  else (s.modDie d fun x => { x with permits := x.permits - 1 }).recap cl fun k' => { k' with permitCap := s.policyOf cl }

/-- The permit pool at an edge: one permit for each run of five intervals without boost (R325). -/
def Die.gain (d : Die) (idle : Bool) : Die :=
  if !idle then { d with idleIntervals := 0 }
  else if d.idleIntervals + 1 = 5 then { d with idleIntervals := 0, permits := min 64 (d.permits + 1) }
  else { d with idleIntervals := d.idleIntervals + 1 }

/-- BOOST_EDGE: at a multiple of 10,000 ns Kettle closes an interval and serves the claims of a die (R323 to R325). -/
def execBoostEdge (d : DieIx) (s : State) : Out :=
  .next <|
    if !s.timersRun || s.time.toNat % 10000 != 0 || (s.die d).edge == some s.time then s
    else
      let idle := (clustersOf d).all fun c => decide (OpPoint.rank (s.cluster c).power.permitCap ≤ 1)
      let s1 := s.modDie d fun x => { x.gain idle with edge := some s.time }
      let order := (s1.claimOrder d).map fun c => (c, s1.claims c)
      (order.foldl (fun s p => s.serveClaim p.2 p.1) s1).modDie d fun x => { x with pointer := x.pointer + 1 }

/-! ### Over-current and throttling (R326 to R329) -/

/-- The rank of a context on a die: the highest priority of its running tasks there (R326). -/
def State.ctxRank (s : State) (d : DieIx) (c : CtxNo) : Option Nat :=
  let l := (tilesOfDie d).filter fun t => (s.tile t).run.isSome && s.ctxOn t == c
  if l.isEmpty then none else some ((l.map fun t => (s.tile t).runPrio).foldl max 0)

/-- The context an over-current kills: of lowest rank, then of highest number; never context 0 (R326). -/
def State.powerVictim (s : State) (d : DieIx) : Option CtxNo :=
  ((List.range 127).map fun i => BitVec.ofNat 7 (i + 1)).foldl (fun (o : Option (CtxNo × Nat)) c =>
    match s.ctxRank d c, o with
    | none, _ => o
    | some r, none => some (c, r)
    | some r, some (_, m) => if r ≤ m then some (c, r) else o) none |>.map (·.1)

/-- The queued records of a context in some clusters, and its records that `SYSC` slots hold for a task that last ran there,
removed and counted killed; their commands that have not started are cancelled (R154, R327, R352, R385). -/
def State.killQueued (s : State) (c : CtxNo) (power : Bool) (cls : List ClusterIx) : State :=
  let drop (o : EndFrom) (r : Rec) (s : State) : State := (s.cancelCommands r.task).sendEnd (r.endMsg .killed power o)
  let s1 := cls.foldl (fun s cl =>
    ((s.cluster cl).queue.filter fun q => q.record.ctxn == c).foldl (fun s q =>
      let s1 := (s.unqueue cl q.order).freeSaveSlot c q.record.slot
      drop (.queue cl q.order) q.record (if q.record.gm then s1.shrinkGang cl c q.record.gang else s1)) s) s
  ((s1.ctx c).held.filter fun p => match p.2.2 with
    | .queue ran _ => cls.contains ran
    | .tile _ => false).foldl (fun s p => drop p.2.2 p.2.1 (s.freeSaveSlot c (some p.1))) s1

/-- The running tasks of a context on some tiles ended, counted killed (R327). -/
def State.killRunning (s : State) (c : CtxNo) (power : Bool) (ts : List TileIx) : State :=
  ts.foldl (fun s t => if (s.tile t).run.isSome && s.ctxOn t == c then s.endTask t .killed power else s) s

/-- OVER_CURRENT: a rail of a die has stayed over its limit for 2 µs, and one context is power-killed there (R326, R327). -/
def execOverCurrent (d : DieIx) (s : State) : Out :=
  .next <|
    if s.phase != .up then s
    else match s.powerVictim d with
      | none => s
      | some c => ((s.killQueued c true (clustersOf d)).killRunning c true (tilesOfDie d)).checkResumed

/-- THERMAL_CAP_STEP: a sensor above 105 °C lowers the thermal cap of a cluster by one point, down to the minimum; a
release raises it by one (R329). A throttle episode begins where the cap leaves the boost point: the spec does not say what counts
as one, and this is the model's choice (log entry 108). -/
def execThermalCapStep (cl : ClusterIx) (up : Bool) (s : State) : Out :=
  .next (s.recap cl fun k =>
    if up then { k with thermalCap := OpPoint.up k.thermalCap }
    else { k with thermalCap := OpPoint.down k.thermalCap, throttles := k.throttles + (if k.thermalCap == .boost then 1 else 0) })

/-! ### Margins and ageing (R414, R416) -/

/-- TIMING_STRETCH: the next cycle of a cluster is stretched; it still counts as one cycle (R414). -/
def execTimingStretch (_cl : ClusterIx) (s : State) : Out := .next s

/-- MARGIN_VOLTAGE_RAISE: 10 mV more for a cluster, up to 30 mV above its table; beyond that its policy point, as it is
in force, falls by one step (R414). -/
def execMarginVoltageRaise (cl : ClusterIx) (s : State) : Out :=
  .next (if (s.cluster cl).power.margin + 10 ≤ 30 then (s.modPower cl fun k => { k with margin := k.margin + 10 }).retable cl
    else s.recap cl fun k => { k with policy := OpPoint.down (s.policyOf cl) })

/-- The AGE word of a domain after a re-plan (R416). -/
def ageWord (w : Word) (ps : BitVec 16) (low : Bool) : Word :=
  let mv := (w.extractLsb' 16 8).toNat + if low then 5 else 0
  (w.extractLsb' 32 32 + 1) ++ 0#7 ++ BitVec.ofBool (w.getLsbD 24 || decide (40 < mv)) ++ BitVec.ofNat 8 (min mv 255) ++ ps

/-- The voltage of a point of a domain raised by 5 mV (R416). -/
def Port.raise (p : Port) (dom : BitVec 6) (q : OpPoint) : Port :=
  { p with lifts := assocSet p.lifts (4 * dom.toNat + OpPoint.rank q) (p.lift dom q + 5) }

/-- The rails of a voltage domain follow its table: the raise is a request (R315, R416). -/
def State.replanned (s : State) (dom : BitVec 6) : State :=
  if dom.toNat < 32 then
    let cl : ClusterIx := dom.extractLsb' 0 5
    let s1 := s.retable cl
    s1.request cl (s1.requested cl)
  else if dom.toNat < 40 then s.aimIslands (dom.extractLsb' 0 2)
  else s.aimBands ((dom - 40).extractLsb' 2 2)

/-- The operating point whose margin a re-plan has found low: which it is, the monitors say (R416). -/
def pointAt : Nat → OpPoint
  | 0 => .minimum
  | 1 => .nominal
  | 2 => .boostStep
  | _ => .boost

/-- AGEING_REPLAN: the margin of a voltage domain is measured; below 8 % at a point the voltage of that point is raised by 5 mV, and
past 40 mV in all its boost points are withdrawn (R416). -/
def execAgeingReplan (dom : BitVec 6) (ps : BitVec 16) (low : Bool) (s : State) : Out :=
  .next <|
    if h : dom.toNat < 56 then
      let ch := if low then s.choose 4 else (0, s)
      let p := if low then ch.2.port.raise dom (pointAt ch.1) else ch.2.port
      { ch.2 with port := { p with age := p.age.set dom.toNat (ageWord (p.age[dom.toNat]'h) ps low) h } }.replanned dom
    else s

end Sys2Proof.Machine
end

