-- ==== Sys2Proof/Machine/Slabs.lean ====
section
/-! DEFINITION. Key-value slabs: the KV map of a die, rows and their integrity check, and the slab commands (R102 to R105,
R162 to R167). -/

namespace Sys2Proof.Machine

/-! ### Rows (R103) -/

/-- One bit of CRC-32C, reflected (R103). -/
def crcBit (c : BitVec 32) : BitVec 32 := if c.getLsbD 0 then (c >>> (1 : Nat)) ^^^ 0x82F63B78 else c >>> (1 : Nat)

/-- One byte of CRC-32C. -/
def crcByte (c : BitVec 32) (b : Byte) : BitVec 32 :=
  crcBit (crcBit (crcBit (crcBit (crcBit (crcBit (crcBit (crcBit (c ^^^ b.zeroExtend 32))))))))

/-- CRC-32C of a byte string (R103). -/
def crc32c (bs : List Byte) : BitVec 32 := ~~~(bs.foldl crcByte 0xFFFFFFFF)

/-- The 1,024 bytes of a row from its data, position and generation (R103). -/
def rowBytes (data : List Byte) (pos : Nat) (gen : BitVec 16) : List Byte :=
  data ++ bvBytes 4 (crc32c data) ++ leBytes 4 pos ++ leBytes 4 gen.toNat ++ [0, 0, 0, 0]

/-- A row is valid for a position and a generation (R103). -/
def rowValid (bs : List Byte) (pos : Nat) (gen : BitVec 16) : Bool :=
  let w (o : Nat) : Nat := leNat ((bs.drop o).take 4)
  w 1008 == (crc32c (bs.take 1008)).toNat && w 1012 == pos && w 1016 == gen.toNat && w 1020 % 2 == 0

/-! ### The KV map (R102, R104, R105) -/

/-- The die of a slab handle. -/
def slabDie (h : BitVec 32) : DieIx := h.extractLsb' 30 2
/-- The slab index of a handle. -/
def slabIx (h : BitVec 32) : BitVec 14 := h.extractLsb' 16 14
/-- The generation of a handle. -/
def slabGen (h : BitVec 32) : BitVec 16 := h.extractLsb' 0 16

/-- The slab a handle names (R102). -/
def State.slab (s : State) (h : BitVec 32) : Option Slab :=
  if slabGen h == 0 then none
  else match assocGet (s.die (slabDie h)).kv (slabIx h) with
    | none => none
    | some d => if d.gen == slabGen h then d.slab else none

/-- A slab of a current handle replaced. -/
def State.setSlab (s : State) (h : BitVec 32) (x : Slab) : State :=
  s.modDie (slabDie h) fun d => { d with kv := assocSet d.kv (slabIx h) ⟨slabGen h, some x⟩ }

/-- The pages of a slab. -/
def Slab.pages (x : Slab) : Nat := 2 ^ x.k.toNat
/-- The rows of the copy a slab has left, or of its only one. -/
def Slab.oldRows (x : Slab) : Nat := 64 * x.pages

/-- A position is valid (R102, R105). -/
def Slab.valid (x : Slab) (p : Nat) : Bool := decide (p < (if x.move.isSome then 2 * x.oldRows else x.oldRows))

/-- A position lies in the chunk in flight (R105). -/
def Slab.held (x : Slab) (p : Nat) : Bool :=
  match x.move with
  | none => false
  | some m => decide (m.mark ≤ p) && decide (p < m.mark + 4) && decide (p < x.oldRows)

/-- A position is routed to the new copy of a slab that moves (R105). -/
def Slab.toNew (x : Slab) (p : Nat) : Bool :=
  match x.move with
  | none => false
  | some m => decide (p < m.mark) || decide (x.oldRows ≤ p)

/-- A row of a slab (R105). -/
def Slab.row (x : Slab) (p : Nat) : List Byte :=
  match x.move with
  | some m => cellsRead (if x.toNew p then m.rows else x.rows) (1024 * p) 1024
  | none => cellsRead x.rows (1024 * p) 1024

/-- Bytes of a slab written at an offset of a row (R105). -/
def Slab.put (x : Slab) (p o : Nat) (bs : List Byte) : Slab :=
  match x.move with
  | some m =>
    if x.toNew p then { x with move := some { m with rows := cellsWrite m.rows (1024 * p + o) bs } }
    else { x with rows := cellsWrite x.rows (1024 * p + o) bs }
  | none => { x with rows := cellsWrite x.rows (1024 * p + o) bs }

/-- The pages of a context on a die: F and V (R104). -/
def Context.pagesFree (x : Context) (d : DieIx) : Nat := (x.kvFree[d.toNat]'d.isLt).toNat
def Context.pagesKept (x : Context) (d : DieIx) : Nat := (x.kvReserve[d.toNat]'d.isLt).toNat

/-- F of a context on a die set. -/
def State.setFree (s : State) (c : CtxNo) (d : DieIx) (n : Nat) : State :=
  s.modCtx c fun x => { x with kvFree := x.kvFree.set d.toNat (BitVec.ofNat 32 n) d.isLt }

/-- A grant of n pages is allowed (R104). -/
def State.granted (s : State) (c : CtxNo) (d : DieIx) (n : Nat) : Bool :=
  let x := s.ctx c
  decide (n ≤ x.pagesFree d) && decide (x.pagesKept d ≤ x.pagesFree d - n)

/-- A slab for a context, or the code that refuses the handle: STALE or DENIED (R167). -/
def State.slabFor (s : State) (c : CtxNo) (h : BitVec 32) : Except (BitVec 8) Slab :=
  match s.slab h with
  | none => .error 3
  | some x => if x.owner == c then .ok x else .error 13

/-! ### GATH and KVPUT (R162, R163) -/

/-- The handle a command names. -/
def EngCmd.handle (c : EngCmd) : BitVec 32 := c.s0.extractLsb' 0 32

/-- The positions of a `GATH` or `KVPUT`, read from the list where it has one (R162). The spec does not say what a list whose
format is not N32 or whose total is below the row count gives: four bytes at each element's address are read (log entry 85). -/
def State.positions (s : State) (t : TileIx) (c : EngCmd) : EngR (List Nat) :=
  let m := rowCount c.s1
  match c.instr with
  | .gathList .. =>
    (List.range m).foldl (fun r j => match r with
      | .error e => .error e
      | .ok (s, l) => match s.engRead t c (dSpc c.db) (dAt c.db j) 4 with
        | .error e => .error e
        | .ok (s1, bs) => .ok (s1, l ++ [leNat bs])) (.ok (s, []))
  | _ => .ok (s, (List.range m).map fun j => (c.s1.extractLsb' 0 32).toNat + j)

/-- A `GATH` or `KVPUT` reaches its KV map, where its handle and positions are checked: it is refused, or accepted (R102,
R162, R163, R167). -/
def State.kvAccept (s : State) (t : TileIx) (q : QueueId) (c : EngCmd) : State :=
  match s.positions t c with
  | .error e => s.engStopped t q c e
  | .ok (s1, ps) => match s1.slabFor c.ctx c.handle with
    | .error k => s1.setHead t q { c with result := some (engCode k) }
    | .ok x =>
      if ps.any fun p => !x.valid p then s1.setHead t q { c with result := some (engCode 4) }
      else s1.setHead t q { c with kv := some ⟨ps, none, 0, 0, none, none⟩ }

/-- The slab of an accepted command: one that has been freed stays as it was for the command (R167). -/
def State.kvSlab (s : State) (c : EngCmd) (r : KvRun) : Option Slab := r.kept.orElse fun _ => s.slab c.handle

/-- A row of an accepted command waits for the chunk of its slab that is moving (R105). -/
def KvRun.held (r : KvRun) (x : Slab) (p : Nat) : Bool := r.kept.isNone && x.held p

/-- The slab of an accepted command replaced. -/
def State.putSlab (s : State) (c : EngCmd) (r : KvRun) (x : Slab) : State × KvRun :=
  if r.kept.isSome then (s, { r with kept := some x }) else (s.setSlab c.handle x, r)

/-- The outcome of a `GATH` whose rows are all done (R162). -/
def EngCmd.gathOutcome (c : EngCmd) (r : KvRun) : EngOut :=
  match r.bad with
  | none => (engStatus 0 0 0, r.mask, none)
  | some p =>
    (engStatus 1 r.nfail (BitVec.ofNat 32 p), r.mask,
      if (gathFlags c.instr).2 then some (engCause causeIntegrity (c.handle ++ BitVec.ofNat 32 p : BitVec 64)) else none)

/-- The next step of a `GATH`: a row is read and checked, then written word by word; one that fails is poisoned and written
as zero (R162). -/
def State.gathStep (s : State) (t : TileIx) (q : QueueId) (c : EngCmd) (r : KvRun) : State :=
  let n := if (gathFlags c.instr).1 then 1008 else 1024
  match r.ps[c.reached]?, r.row, s.kvSlab c r with
  | none, _, _ => s.setHead t q { c with result := some (c.gathOutcome r) }
  | some p, none, some x =>
    if r.held x p then s
    else
      let bs := x.row p
      if rowValid bs p (slabGen c.handle) then
        s.setHead t q { c with kv := some { r with row := some (bs.take n), mask := r.mask ||| (1#64 <<< c.reached) } }
      else
        let w := s.putSlab c r (x.put p 1020 [((bs.drop 1020).headD 0) ||| 1])
        w.1.setHead t q { c with kv := some { w.2 with
          row := some (List.replicate n 0), nfail := r.nfail + 1, bad := some (r.bad.getD p) } }
  | some _, none, none => s
  | some _, some bs, _ =>
    match s.engWrite t c .sp (rowAt c.da c.reached + BitVec.ofNat 64 (n - bs.length)) ((bs.take 8).map Patch.full) with
    | .error e => s.engStopped t q c e
    | .ok (s1, _) =>
      let rest := bs.drop 8
      s1.setHead t q (if rest.isEmpty then { c with reached := c.reached + 1, kv := some { r with row := none } }
        else { c with kv := some { r with row := some rest } })

/-- The next step of a `KVPUT`: the source row is read word by word, then the row is written as one unit; a source that fails
stops it there (R153, R163). -/
def State.kvputStep (s : State) (t : TileIx) (q : QueueId) (c : EngCmd) (r : KvRun) : State :=
  let bs := r.row.getD []
  match r.ps[c.reached]?, s.kvSlab c r with
  | none, _ => s.setHead t q { c with result := some (engCode 0) }
  | some _, none => s
  | some p, some x =>
    if bs.length < 1008 then
      match s.engRead t c (dSpc c.db) (rowAt c.db c.reached + BitVec.ofNat 64 bs.length) 8 with
      | .error e => s.engStopped t q c e
      | .ok (s1, w) => s1.setHead t q { c with kv := some { r with row := some (bs ++ w) } }
    else if r.held x p then s
    else
      let w := s.putSlab c r (x.put p 0 (rowBytes bs p (slabGen c.handle)))
      w.1.setHead t q { c with reached := c.reached + 1, kv := some { w.2 with row := none } }

/-- A `GATH` or `KVPUT`. -/
def isRows : Instr → Bool
  | .gath .. | .gathList .. | .kvput .. => true
  | _ => false

/-- A started `GATH` or `KVPUT` goes on by one step, unless its translation is parked: it arrives at its KV map, and then moves
its rows. -/
def State.rowTurn (s : State) (t : TileIx) (q : QueueId) : State :=
  match (s.tile t).started q with
  | none => s
  | some c =>
    if !s.engineRuns t || !isRows c.instr || c.result.isSome || c.parked then s
    else match c.kv, c.instr with
      | none, _ => s.kvAccept t q c
      | some r, .kvput .. => s.kvputStep t q c r
      | some r, _ => s.gathStep t q c r

/-- A `GATH` or `KVPUT` run until it stops: at most as many steps as it has words. -/
def State.rowRun (t : TileIx) (q : QueueId) : Nat → State → State
  | 0, s => s
  | n + 1, s =>
    let s1 := s.rowTurn t q
    if (s1.tile t).started q == (s.tile t).started q then s1 else State.rowRun t q n s1

/-- The slab of a handle as it is freed, kept for the commands that had been accepted before (R167). -/
def State.keepPages (s : State) (h : BitVec 32) (x : Slab) : State :=
  { s with tiles := s.tiles.map fun y => y.modQueue .gath fun k => { k with cmds := k.cmds.map fun c =>
    match c.kv with
    | none => c
    | some r => if c.handle == h && r.kept.isNone then { c with kv := some { r with kept := some x } } else c } }

/-! ### KVALLOC, KVGROW and KVFREE (R164 to R166) -/

/-- The free descriptors of a die's KV map (R102). -/
def Die.freeSlabs (d : Die) : List (BitVec 14) :=
  ((List.range 16384).map (BitVec.ofNat 14)).filter fun i => match assocGet d.kv i with
    | none => true
    | some x => x.slab.isNone

/-- A slab allocated (R102, R104, R164). Which free descriptor it takes, and the generation of one never used, are not
fixed. -/
def State.kvalloc (s : State) (c : CtxNo) (k : BitVec 4) (d : DieIx) : State × EngOut :=
  let n := 2 ^ k.toNat
  let free := (s.die d).freeSlabs
  if !s.granted c d n then (s, engCode 2)
  else if free.isEmpty then (s, engCode 5)
  else
    let ch := s.choose free.length
    let i := free.getD ch.1 0
    let g : BitVec 16 × State := match assocGet (s.die d).kv i with
      | some x => (x.gen, ch.2)
      | none =>
        let r := ch.2.choose 65535
        (BitVec.ofNat 16 (r.1 + 1), r.2)
    let h : BitVec 32 := d ++ i ++ g.1
    ((g.2.setFree c d ((s.ctx c).pagesFree d - n)).setSlab h ⟨k, c, [], none⟩, (engStatus 0 0 h, 0, none))

/-- A slab freed: its pages return and its generation advances, skipping 0 (R102, R166). -/
def State.kvfree (s : State) (c : CtxNo) (h : BitVec 32) : State × EngOut :=
  match s.slabFor c h with
  | .error k => (s, engCode k)
  | .ok x =>
    if x.move.isSome then (s, engCode 6)
    else
      let d := slabDie h
      (((s.keepPages h x).setFree c d ((s.ctx c).pagesFree d + x.pages)).modDie d fun y =>
        { y with kv := assocSet y.kv (slabIx h) ⟨nextGen (slabGen h), none⟩ }, engCode 0)

/-- A growth granted, or the code that refuses it (R104, R105, R165). -/
def State.kvgrow (s : State) (c : CtxNo) (h : BitVec 32) : Except (BitVec 8) State :=
  match s.slabFor c h with
  | .error k => .error k
  | .ok x =>
    let d := slabDie h
    if x.move.isSome then .error 6
    else if x.k == 15 then .error 7
    else if !s.granted c d (2 * x.pages) then .error 2
    else .ok ((s.setFree c d ((s.ctx c).pagesFree d - 2 * x.pages)).setSlab h { x with move := some ⟨[], 0⟩ })

/-- KV_MAP_COMMAND: the head command of a queue reaches the KV map of its die and is applied there; a `GATH` or `KVPUT` moves
what it can (R167). -/
def execKvMapCommand (t : TileIx) (q : QueueId) (s : State) : Out :=
  match (s.tile t).started q with
  | none => .next s
  | some c =>
    if !s.engineRuns t || c.result.isSome || c.parked then .next s
    else
      let rows := State.rowRun t q (130 * rowCount c.s1 + 2) s
      .next (match c.instr with
        | .gath .. => rows
        | .gathList .. => rows
        | .kvput .. => rows
        | .kvalloc .. =>
          let r := s.kvalloc c.ctx (c.s0.extractLsb' 0 4) (c.s0.extractLsb' 4 2)
          r.1.setHead t q { c with result := some r.2 }
        | .kvfree .. =>
          let r := s.kvfree c.ctx c.handle
          r.1.setHead t q { c with result := some r.2 }
        | .kvgrow .. =>
          if c.reached != 0 then s
          else match s.kvgrow c.ctx c.handle with
            | .error k => s.setHead t q { c with result := some (engCode k) }
            | .ok s1 => s1.setHead t q { c with reached := 1 }
        | _ => s)

/-- KVGROW_CHUNK_MOVE: the next four rows of a growing slab move; past the last chunk the slab is active again, its old
pages return, and the command has its outcome (R105, R165). -/
def execKvgrowChunkMove (t : TileIx) (s : State) : Out :=
  match (s.tile t).started .cpy with
  | none => .next s
  | some c =>
    match c.instr with
    | .kvgrow .. =>
      if !s.engineRuns t || c.result.isSome || c.reached == 0 then .next s
      else match s.slab c.handle with
        | none => .next (s.setHead t .cpy { c with result := some (engCode 3) })
        | some x => match x.move with
          | none => .next s
          | some m =>
            let part := (cellsSlice x.rows (1024 * m.mark) 4096).map fun p => (p.1 + 1024 * m.mark, p.2)
            let rows := part.foldl (fun l p => cellSet l p.1 p.2) m.rows
            let mark := m.mark + 4
            if mark < x.oldRows then .next (s.setSlab c.handle { x with move := some ⟨rows, mark⟩ })
            else
              let d := slabDie c.handle
              let s1 := (s.setSlab c.handle ⟨x.k + 1, x.owner, rows, none⟩).setFree x.owner d ((s.ctx x.owner).pagesFree d + x.pages)
              .next (s1.setHead t .cpy { c with result := some (engStatus 0 0 ((x.k + 1).zeroExtend 32), 0, none) })
    | _ => .next s

end Sys2Proof.Machine
end

