-- ==== Sys2Proof/Machine/Spawn.lean ====
section
/-! DEFINITION. Spawning tasks and gangs, opening joins, quorum joins, and the join units that check them (R255 to R259,
R278, R279, R294 to R301). -/

namespace Sys2Proof.Machine

/-! ### Record images (R254 to R256, R295, R296) -/

/-- The record image in the eight scalar registers from `a` up (R295). -/
def State.group (s : State) (a : SReg) : Vector Word 8 := Vector.ofFn fun i : Fin 8 => s.rdS (a + BitVec.ofNat 6 i.val)

/-- AFFK of word 1. -/
def imgAffk (w1 : Word) : BitVec 2 := w1.extractLsb' 12 2
/-- AFFC of word 1. -/
def imgAffc (w1 : Word) : ClusterIx := w1.extractLsb' 16 5
/-- AFFM of word 1. -/
def imgAffm (w1 : Word) : BitVec 8 := w1.extractLsb' 24 8

/-- A reserved bit of an image is set, or AFFK = 3 (R295, R296). -/
def imgReserved (w0 w1 : Word) : Bool :=
  w0.extractLsb' 52 12 != 0 || w1.extractLsb' 60 4 != 0 || w1.extractLsb' 21 3 != 0 || w1.extractLsb' 14 2 != 0 ||
    w1.getLsbD 11 || w1.getLsbD 7 || imgAffk w1 == 3

/-- The queue that holds a record of an image (R256). -/
def imgTarget (home : ClusterIx) (w1 : Word) : ClusterIx := if imgAffk w1 == 0 then home else imgAffc w1

/-- The eligible tiles of an image in its queue's cluster (R256). -/
def imgTiles (home : ClusterIx) (c : CtxNo) (w1 : Word) : List TileIx :=
  (tilesOf (imgTarget home w1)).filter fun t => tileAllowed c (imgAffk w1) (imgAffc w1) (imgAffm w1) t

/-- What refuses an image on its own, with `FADDR` (R255, R296 causes 1 to 4). -/
def imgDefect (home : ClusterIx) (c : CtxNo) (w0 w1 : Word) : Option (BitVec 8 × Word) :=
  if imgReserved w0 w1 then some (causeReservedField, w1)
  else if w0.getLsbD 0 then some (causeMisalign, w0.extractLsb' 0 48 |>.zeroExtend 64)
  else if w1.extractLsb' 8 3 == 7 && c != 0 then some (causePriv, w1)
  else if (imgTiles home c w1).isEmpty then some (causeProt, w1)
  else none

/-- Word 1 of a record: PRIO, AFFK, AFFC and AFFM of the image, with the gang's fields and the context (R255). -/
def recWord1 (w1 : Word) (gsz stage : BitVec 3) (c : CtxNo) : Word :=
  (w1 &&& 0xFF1F3700#64) ||| (gsz.zeroExtend 64 <<< (51 : Nat)) ||| (stage.zeroExtend 64 <<< (48 : Nat)) ||| c.zeroExtend 64

/-- The record of an image (R255). -/
def imgRec (w : Vector Word 8) (c : CtxNo) (launch : Option LaunchRef) (task : Nat) : Rec :=
  Rec.plain ((w.set 0 (word0 (w[0].extractLsb' 0 48) false false false false)).set 1 (recWord1 w[1] 0 0 c)) task launch

/-- A record made member `ix` of a quorum join (R255, R279). -/
def Rec.asMember (r : Rec) (ix : Nat) : Rec :=
  let w1 := r.w 1 ||| ((BitVec.ofNat 6 ix).zeroExtend 64 <<< (54 : Nat))
  { r with words := (r.words.set 0 (r.w 0 ||| 0x4000000000000#64)).set 1 w1 }

/-- A record given its gang's number (R299). -/
def Rec.withGang (r : Rec) (g : GangNo) : Rec :=
  { r with words := r.words.set 1 (r.w 1 ||| (g.zeroExtend 64 <<< (32 : Nat))) }

/-! ### The count of a spawn at a join unit (R258, R279, R296) -/

/-- A contribution weight that a member may carry: neither negative, nor a NaN, nor infinite (R279). -/
def weightOk (w : BitVec 32) : Bool :=
  match readNum .f32 w.toNat with
  | .fin n m _ => !n || m == 0
  | _ => false

/-- The records of a spawn counted at the join a handle names for a context; none where the join unit refuses it (R258,
R279, R296). -/
def State.countSpawn (s : State) (h : Handle) (c : CtxNo) (spawner : Nat) (recs : List Rec) : Option (State × List Rec) :=
  match s.joinOf c h with
  | none => none
  | some j =>
    if 65535 < j.pending + recs.length then none
    else match j.quorum with
      | none => some (s.setJoin h { j with pending := j.pending + recs.length }, recs)
      | some q =>
        match recs with
        | [r] =>
          let tw := f32Add q.total r.weight
          if j.st == .open && j.owner == spawner && !r.gm && decide (q.members.length < 64) && weightOk r.weight && tw != 0x7F800000 then
            some (s.setJoin h
              { j with
                pending := j.pending + 1
                quorum := some { q with total := tw, members := q.members ++ [⟨r.weight, .running, r.task⟩] } },
              [r.asMember q.members.length])
          else none
        | _ => none

/-! ### SPAWN and SPAWNG (R295 to R299) -/

/-- The number of the running task of the current tile. -/
def State.taskNo (s : State) : Nat := ((s.t.run.map (·.record.task))).getD 0

/-- The launch of the running task of the current tile. -/
def State.launchRef (s : State) : Option LaunchRef := s.t.run.bind (·.record.launch)

/-- The open joins of the running task of the current tile (R302). -/
def State.openJoins (s : State) : List Handle := (s.t.run.map (·.openJoins)).getD []

/-- The handle names a quorum join that the task has not opened (R296 cause 6). -/
def State.foreignQuorum (s : State) (h : Handle) : Bool :=
  (match s.joinOf s.ctxn h with
  | some j => j.quorum.isSome
  | none => false) && !s.openJoins.contains h

/-- The tile holds as many unreturned spawns as it can (R297). -/
def State.spawnsFull (s : State) : Bool :=
  decide (8 ≤ (s.spawns.filter fun m => m.2.tile == s.cur && !m.2.returned).length)

/-- The issue checks of R296 over an image whose record goes to a parent handle. -/
def State.spawnGuard (s : State) (w0 w1 : Word) (h : Handle) (k : Out) : Out :=
  match imgDefect (clusterOf s.cur) s.ctxn w0 w1 with
  | some (c, a) => s.issueTrap c a
  | none =>
    if s.member then s.issueTrap causeQuorumUnsafe 0
    else if s.foreignQuorum h then s.issueTrap causeProt (h.zeroExtend 64)
    else k

/-- Records sent on their way: with a handle to its join unit, without one to their queue; every earlier access of the
task is performed first (R297, R298, R367). -/
def State.sendSpawn (s : State) (h : Handle) (recs : List Rec) (target : ClusterIx) (pipes : List (Nat × Pipe)) : State :=
  let s1 := s.releaseEdge .device
  let m : SpawnMsg :=
    { tile := s.cur, task := s.taskNo, handle := h, ctx := s.ctxn, recs := recs, target := target, pipes := pipes
      st := if h == 0 then .accepted else .checking, returned := h == 0, order := s1.nextOrder }
  let s2 := { s1 with
    spawns := s1.spawns ++ [(s1.nextMsg, m)], nextMsg := s1.nextMsg + 1, nextOrder := s1.nextOrder + 1
    nextTask := s1.nextTask + recs.length }
  if h == 0 then s2.launchAdd s.launchRef recs.length else s2

/-- `SPAWN` (R295 to R298). -/
def execSpawn (a : SReg) (s : State) : Out :=
  checked (.spawn a) s <|
  let w := s.group a
  let h : Handle := w[2].extractLsb' 0 32
  if s.spawnsFull then s.hold
  else s.spawnGuard w[0] w[1] h <|
    .next (s.sendSpawn h [imgRec w s.ctxn s.launchRef s.nextTask] (imgTarget (clusterOf s.cur) w[1]) [])

/-- Word k of image i of a gang's images (R299). -/
def gangWord (bs : List Byte) (i k : Nat) : Word := BitVec.ofNat 64 (leNat ((bs.drop (64 * i + 8 * k)).take 8))

/-- The record of gang member i of n (R299). -/
def gangRec (bs : List Byte) (n i : Nat) (c : CtxNo) (launch : Option LaunchRef) (task : Nat) : Rec :=
  let w2 : Word := (gangWord bs i 2).extractLsb' 32 32 ++ (gangWord bs 0 2).extractLsb' 0 32
  let words : Vector Word 8 := Vector.ofFn fun k : Fin 8 =>
    if k.val = 0 then word0 ((gangWord bs i 0).extractLsb' 0 48) false true false false
    else if k.val = 1 then recWord1 (gangWord bs 0 1) (BitVec.ofNat 3 (n - 1)) (BitVec.ofNat 3 i) c
    else if k.val = 2 then w2
    else gangWord bs i k.val
  Rec.plain words task launch

/-- The valid pipes of a pipe table with their numbers (R299). -/
def pipesOf (bs : List Byte) : List (Nat × Pipe) :=
  ((List.range 16).zip bs).filterMap fun p =>
    if p.2.getLsbD 7 then some (p.1, ⟨p.2.extractLsb' 0 3, p.2.extractLsb' 3 3, []⟩) else none

/-- The pipe table of a gang of n members is refused (R299). -/
def pipesBad (bs : List Byte) (n : Nat) : Bool :=
  let l := (pipesOf bs).map (·.2)
  (bs.any (·.getLsbD 6)) ||
  (l.any fun p => decide (n ≤ p.src.toNat) || decide (n ≤ p.dst.toNat) || p.src == p.dst) ||
  ((List.range 8).any fun k => decide (4 < (l.filter fun p => p.src.toNat == k || p.dst.toNat == k).length))

/-- `SPAWNG` (R299). -/
def execSpawng (a b : SReg) (s : State) : Out :=
  let n := ((s.rdS b).extractLsb' 0 3).toNat + 1
  let i : Instr := .spawng a b
  aligned 64 (s.rdS a) s <|
  if s.spawnsFull then s.hold
  else s.load i .sp (s.rdS a) (64 * n + 16) fun s bs =>
    let w1 := gangWord bs 0 1
    let h : Handle := (gangWord bs 0 2).extractLsb' 0 32
    let tbl := bs.drop (64 * n)
    match (List.range n).find? fun i => (gangWord bs i 0).getLsbD 0 with
    | some i =>
      if imgReserved (gangWord bs 0 0) w1 then s.issueTrap causeReservedField w1
      else s.issueTrap causeMisalign ((gangWord bs i 0).extractLsb' 0 48 |>.zeroExtend 64)
    | none =>
      s.spawnGuard (gangWord bs 0 0) w1 h <|
      if (imgTiles (clusterOf s.cur) s.ctxn w1).length < n || pipesBad tbl n then s.issueTrap causeProt s.openAddr
      else
        .next (s.sendSpawn h ((List.range n).map fun i => gangRec bs n i s.ctxn s.launchRef (s.nextTask + i))
          (imgTarget (clusterOf s.cur) w1) (pipesOf tbl))

/-! ### The spawn's way to its join unit and queue -/

/-- A spawn message replaced, or taken out once its record is enqueued, or refused, and its answer is back. -/
def State.setSpawn (s : State) (n : Nat) (m : SpawnMsg) : State :=
  { s with spawns :=
      if m.returned && (m.st == .enqueue || m.st == .refused) then s.spawns.filter fun p => p.1 != n
      else s.spawns.map fun p => if p.1 == n then (n, m) else p }

/-- SPAWN_JOIN_CHECK: the join unit counts a spawn or refuses it (R258, R296). -/
def execSpawnJoinCheck (n : Nat) (s : State) : Out :=
  match assocGet s.spawns n with
  | none => .next s
  | some m =>
    if m.st != .checking || !s.fabricUp then .next s
    else match s.countSpawn m.handle m.ctx m.task m.recs with
      | none => .next (s.setSpawn n { m with st := .refused })
      | some (s1, recs) =>
        .next ((s1.launchAdd (m.recs.head?.bind (·.launch)) recs.length).setSpawn n { m with st := .accepted, recs := recs })

/-- SPAWN_CHECK_RETURN: the answer of the join unit reaches the spawner's tile; a refusal becomes an asynchronous PROT of
the task (R296, R297). -/
def execSpawnCheckReturn (n : Nat) (s : State) : Out :=
  match assocGet s.spawns n with
  | none => .next s
  | some m =>
    if m.st == .checking || m.returned || !s.fabricUp then .next s
    else
      let s1 := s.setSpawn n { m with returned := true }
      .next (if m.st == .refused && ((s.tile m.tile).run.any fun r => r.record.task == m.task) then
        s1.raiseAsync m.tile causeProt 9 (m.handle.zeroExtend 64) else s1)

/-- Every access that a task issued before a place in the order of issue is performed: none of it stands aside, no matrix
instruction of it is in flight, on its tile or recorded beside its DEEP record, and no write of it to the control region is on
its way (R108, R298). -/
def State.accessesDone (s : State) (task order : Nat) : Bool :=
  let done (l : List MxOp) (accs : List Wait) : Bool :=
    (l.all fun m => m.reload || decide (order ≤ m.order)) && accs.all fun a => decide (order ≤ a.order)
  (s.tiles.toList.all fun x => (x.run.all fun r => r.record.task != task) ||
    (done x.mx.ops x.accs && x.wbuf.all fun w => !(w.ctl && w.task == task))) &&
  s.clusters.toList.all fun k => k.queue.all fun q => q.record.task != task || done q.record.redo q.record.accs

/-- The writes of a task performed at their homes, on whichever tile it runs. -/
def State.drainTask (s : State) (task : Nat) : State :=
  match allTiles.find? fun t => (s.tile t).run.any fun r => r.record.task == task with
  | some t => s.drain t
  | none => s

/-- SPAWN_RECORD_ENQUEUE: once every earlier access of the spawner is performed, an accepted record enters its queue; the
records of a gang enter together and take the next number of the cluster's counter (R298, R299). -/
def execSpawnRecordEnqueue (n : Nat) (s : State) : Out :=
  match assocGet s.spawns n with
  | none => .next s
  | some m =>
    if m.st != .accepted || !s.fabricUp || !s.accessesDone m.task m.order then .next s
    else
      let s1 := (s.drainTask m.task).setSpawn n { m with st := .enqueue }
      match m.recs with
      | [] => .next s1
      | r :: _ =>
        if r.gm then
          let g := (s1.cluster m.target).nextGang
          let s2 := s1.modCluster m.target fun k =>
            { k with nextGang := g + 1,
                     gangs := k.gangs ++ [⟨m.target, g, m.ctx, m.recs.length, [], m.pipes⟩] }
          let s3 := (m.recs.map (·.withGang g)).foldl (fun s r => s.enqueueOnly m.target r) s2
          .next (s3.offer m.target (r.withGang g))
        else .next (s1.enqueue m.target r)

/-! ### JINIT and QINIT (R300, R301) -/

/-- The join records of a cluster that are free (R257). -/
def Cluster.freeJoins (k : Cluster) : List (BitVec 10) :=
  ((List.range 1024).map (BitVec.ofNat 10)).filter fun i => match assocGet k.joins i with
    | none => true
    | some sl => sl.join.isNone

/-- A join opened for the current task in the join unit of its cluster, with a successor (R257, R300). Which free record
it takes, and the generation of one never used, are not fixed. -/
def State.openJoin (s : State) (free : List (BitVec 10)) (succ : Option (Rec × ClusterIx)) (counted : Bool) : State × Handle :=
  let c := clusterOf s.cur
  let ch := s.choose free.length
  let i := free.getD ch.1 0
  let g : (BitVec 16) × State := match assocGet (s.cluster c).joins i with
    | some sl => (sl.gen, ch.2)
    | none =>
      let r := ch.2.choose 65535
      (BitVec.ofNat 16 (r.1 + 1), r.2)
  let h := joinHandle c i g.1
  let j : JoinRec :=
    { st := .open, ctx := s.ctxn, owner := s.taskNo, pending := 0, arrived := 0, failed := 0, killed := 0, late := 0,
      weight := 0, succ := succ, counted := counted, quorum := none }
  ((g.2.setJoin h j).modRun s.cur fun r => { r with openJoins := r.openJoins ++ [h] }, h)

/-- `JINIT` (R300). -/
def execJinit (d a : SReg) (s : State) : Out :=
  checked (.jinit d a) s <|
  let free := (s.cluster (clusterOf s.cur)).freeJoins
  let full := free.isEmpty || decide (8 ≤ s.openJoins.length)
  if a == 0 then
    if s.member then s.issueTrap causeQuorumUnsafe 0
    else if full then .next (s.wrS d 0)
    else
      let r := s.openJoin free none false
      .next (r.1.wrS d (r.2.zeroExtend 64))
  else
    let w := s.group a
    let h : Handle := w[2].extractLsb' 0 32
    s.spawnGuard w[0] w[1] h <|
    if full then .next (s.wrS d 0)
    else
      let rec0 := imgRec w s.ctxn s.launchRef s.nextTask
      let target := imgTarget (clusterOf s.cur) w[1]
      let s0 := { s with nextTask := s.nextTask + 1 }
      let counted := if h == 0 then some (s0, [rec0]) else s0.countSpawn h s.ctxn s.taskNo [rec0]
      match counted with
      | none => .next (s.execTrap causeProt (h.zeroExtend 64) 0)
      | some (s1, recs) =>
        let s2 := s1.launchAdd s.launchRef 1
        let r := s2.openJoin free (some (recs.headD rec0, target)) (h != 0)
        .next (r.1.wrS d (r.2.zeroExtend 64))

/-- The configuration block of `QINIT`: its four words (R301). -/
structure QBlock where
  w0 : Word
  w1 : Word
  w2 : Word
  w3 : Word

/-- A reserved bit of the block is set. -/
def QBlock.reserved (b : QBlock) : Bool :=
  b.w0.extractLsb' 12 20 != 0 || b.w1.extractLsb' 46 18 != 0 || b.w1.extractLsb' 21 11 != 0 ||
    b.w2.extractLsb' 21 43 != 0 || b.w3.extractLsb' 48 16 != 0 || b.w3.extractLsb' 21 11 != 0

/-- The quorum join a block describes, at home on a tile (R278, R301). -/
def QBlock.quorum (b : QBlock) (home : TileIx) : Quorum :=
  { weighted := b.w0.getLsbD 9, frac := b.w0.extractLsb' 0 9, grace := b.w0.extractLsb' 32 32, rule := b.w0.extractLsb' 10 2
    cbase := b.w1.extractLsb' 0 21, len := b.w1.extractLsb' 32 14, sbase := b.w2.extractLsb' 0 21
    fbase := b.w3.extractLsb' 0 21, fsize := b.w3.extractLsb' 32 16, home := home, total := 0, members := []
    graceLeft := none, cut := false, cutByGrace := false }

/-- The values of a quorum join are out of range (R301). -/
def Quorum.illegal (q : Quorum) : Bool :=
  q.frac == 0 || decide (256 < q.frac.toNat) || decide (16368 < q.len.toNat) ||
  q.cbase.extractLsb' 0 6 != 0 || decide (2 ^ 21 < q.cbase.toNat + 64 + 4 * q.len.toNat) ||
  (q.rule == 2 && (q.sbase.extractLsb' 0 2 != 0 || decide (2 ^ 21 < q.sbase.toNat + 256 * q.len.toNat))) ||
  q.fbase.extractLsb' 0 6 != 0 || q.fsize.extractLsb' 0 6 != 0 || decide (2 ^ 21 < q.fbase.toNat + q.fsize.toNat)

/-- `QINIT`: a join of the task becomes a quorum join, and its header and buffer are zeroed as writes of the task (R279,
R301). Its counts and weight, which count members (R284, R290), start at zero: tasks that ended in it before are none. -/
def execQinit (a b : SReg) (s : State) : Out :=
  let h : Handle := (s.rdS a).extractLsb' 0 32
  let i : Instr := .qinit a b
  aligned 8 (s.rdS b) s <|
  s.load i .sp (s.rdS b) 32 fun s bs =>
    let w (k : Nat) : Word := BitVec.ofNat 64 (leNat ((bs.drop (8 * k)).take 8))
    let blk : QBlock := ⟨w 0, w 1, w 2, w 3⟩
    let q := blk.quorum s.cur
    if blk.reserved then s.issueTrap causeReservedField (s.rdS b)
    else if q.illegal then s.issueTrap causeIllegalOp (s.rdS b)
    else match (if s.openJoins.contains h then s.joinOf s.ctxn h else none) with
      | none => s.issueTrap causeProt (h.zeroExtend 64)
      | some j =>
        if j.quorum.isSome || decide (0 < j.pending) then s.issueTrap causeProt (h.zeroExtend 64)
        else if s.member then s.issueTrap causeQuorumUnsafe 0
        else
          let z := List.replicate (64 + 4 * q.len.toNat) (0 : Byte)
          if s.spWaits s.cur s.ctxn q.cbase.toNat z.length || s.mustWait (writesOf .sp [(q.cbase.zeroExtend 64, z.length)]) then s.hold
          else
            let s1 := s.offendIf s.cur true (s.spBad s.cur s.ctxn q.cbase.toNat z.length)
            .next ((s1.spStore s.cur s.ctxn q.cbase.toNat z).setJoin h
              { j with arrived := 0, failed := 0, killed := 0, late := 0, weight := 0, quorum := some q })

end Sys2Proof.Machine
end

