-- ==== Sys2Proof/Machine/Suspend.lean ====
section
/-! DEFINITION. Suspending and ending a task, hold sections and the gang barrier (R260, R264 to R268, R302 to R308). -/

namespace Sys2Proof.Machine

/-! ### HOLD and UNHOLD (R265, R307) -/

/-- HOLD_DEPTH with the depth at issue (R265, R373). -/
def State.holdDepthTrap (s : State) : Out := s.issueTrap causeHoldDepth (s.src.ctl.holdDepth.zeroExtend 64)

/-- `HOLD`: the depth rises, and the first level starts the timer (R265). -/
def execHold (s : State) : Out :=
  let d := s.src.ctl.holdDepth
  if d == 7 then s.holdDepthTrap
  else .next (s.modCtl fun c =>
    { c with holdDepth := d + 1, holdLeft := if d == 0 then s.t.view.holdlim else c.holdLeft })

/-- `UNHOLD`: the depth falls; at depth 0 the timer reads 0xFFFF_FFFF (R26, R265). -/
def execUnhold (s : State) : Out :=
  let d := s.src.ctl.holdDepth
  if d == 0 then s.holdDepthTrap
  else .next (s.modCtl fun c => { c with holdDepth := d - 1, holdLeft := if d == 1 then 0xFFFFFFFF else c.holdLeft })

/-! ### YIELD (R264, R268, R304) -/

/-- The instruction waits for the task's spawns to return, and for what is still to be performed of its accesses (R108,
R297). -/
def State.spawnHold (s : State) : Bool := s.spawnsOut s.cur != 0 || s.edgeWaits

/-- The write of a slot of the save area by an instruction stops: a page that does not translate parks, with the slot taken, and a
control page raises PROT (R311, R356, R357, R386). -/
def State.slotStops (s : State) (i : Instr) (n : BitVec 10) : GFail → Out
  | .park va m => (s.takeSlot s.cur s.ctxn n).parkWait i s.ctxn va .write m
  | .prot va => .next (s.execTrap causeProt (va.signExtend 64) 0)

/-- `YIELD` (R268, R304); a gang member waits for its gang (R264). -/
def execYield (s : State) : Out :=
  if s.spawnHold then s.hold
  else if s.src.ctl.hnd then s.issueTrap causeProt s.openAddr
  else if s.src.ctl.holdDepth != 0 then s.holdDepthTrap
  else match s.t.run with
    | none => .next s
    | some r =>
      if r.record.gm then .next ((s.releaseEdge .device).waitFor .yield s.t.view.pipewdog.toNat .none)
      else if s.yieldDue s.cur then
        match s.keepCommit s.cur s.ctxn r.commit with
        | .noSlot => .next s
        | .fail i e => s.slotStops .yield i e
        | .ok s1 slot =>
          let k := r.suspended s1.regs (s.returnAddr.extractLsb' 0 48) slot s.t.issue.pend
          .next ((((s1.leaveTile s.cur none).enqueueOnly r.home k).select s.cur).offer r.home k)
      else .next s

/-! ### JWAIT (R303) -/

/-- A `JINIT` successor discarded: its parent join and its launch no longer wait for it (R303). As a quorum member it stays in N and
TW and in none of the counts of R290, the model's choice (log entry 107). -/
def State.withdraw (s : State) (j : JoinRec) : State :=
  match j.succ with
  | none => s
  | some (r, _) =>
    let s1 := if j.counted then
        match s.joinOf j.ctx r.parent with
        | none => s
        | some p =>
          let q := p.quorum.map fun q =>
            { q with members := modNth (fun (m : Member) => { m with st := .withdrawn }) r.qidx.toNat q.members }
          (s.setJoin r.parent { p with pending := p.pending - 1, quorum := q }).settleJoin r.parent
      else s
    s1.launchDrop r.launch

/-- A record bound to one tile: AFFK = 2, with AFFC and AFFM naming it (R303). -/
def Rec.boundTo (r : Rec) (t : TileIx) : Rec :=
  { r with words := r.words.set 1 ((r.w 1 &&& 0xFFFFFFFF00E0CFFF#64) ||| 0x2000#64 |||
      ((clusterOf t).zeroExtend 64 <<< (16 : Nat)) ||| ((1#64 <<< (t.toNat % 8)) <<< (24 : Nat))) }

/-- The task on the current tile becomes the successor of a join of its own and leaves the tile (R258, R302, R303). -/
def State.waitJoin (s : State) (h : Handle) (k : Rec) (target : ClusterIx) : State :=
  let s1 := (match s.join h with
    | none => s
    | some j => s.withdraw j).leaveTile s.cur (some h)
  (match s1.join h with
    | none => s1
    | some j => (s1.setJoin h { j with st := .sealed, succ := some (k, target), counted := false }).settleJoin h).select s.cur

/-- `JWAIT` and `JWAIT.HERE` (R303). -/
def State.jwaitForm (s : State) (i : Instr) (a : SReg) (here : Bool) : Out :=
  let h : Handle := (s.rdS a).extractLsb' 0 32
  if s.spawnHold then s.hold
  else if s.src.ctl.hnd then s.issueTrap causeProt s.openAddr
  else match (if s.openJoins.contains h then s.joinOf s.ctxn h else none), s.t.run with
    | some j, some r =>
      if s.src.ctl.holdDepth != 0 then s.holdDepthTrap
      else if s.member then s.issueTrap causeQuorumUnsafe 0
      else match s.keepCommit s.cur s.ctxn r.commit with
        | .noSlot => s.issueTrap causeProt 0
        | .fail n e => s.slotStops i n e
        | .ok s1 slot =>
          let k := r.suspended s1.regs (s.returnAddr.extractLsb' 0 48) slot s.t.issue.pend
          let home : TileIx := match j.quorum with
            | some q => q.home
            | none => s.cur
          .next (if here then s1.waitJoin h (k.boundTo home) (clusterOf home) else s1.waitJoin h k r.home)
    | _, _ => s.issueTrap causeProt (h.zeroExtend 64)

/-- `JWAIT` (R303). -/
def execJwait (a : SReg) (s : State) : Out := s.jwaitForm (.jwait a) a false
/-- `JWAIT.HERE` (R303). -/
def execJwaitHere (a : SReg) (s : State) : Out := s.jwaitForm (.jwaitHere a) a true

/-! ### ABORT (R306) -/

/-- `ABORT` ends the task, counted failed (R306). -/
def execAbort (s : State) : Out :=
  if s.spawnsOut s.cur != 0 then s.hold else .next (s.endTask s.cur .failed false)

/-! ### BARG and the gang YIELD (R264, R308) -/

/-- `BARG`: the member waits at the barrier; each `BARG` but one repeated after a restore or a replay is a further one of the
member (R308). -/
def execBarg (s : State) : Out :=
  if s.spawnHold then s.hold
  else match s.gangOf s.cur with
    | none => s.issueTrap causeProt s.openAddr
    | some _ =>
      .next (((s.modRun s.cur fun r =>
        { r with bargs := if r.bargOpen then r.bargs else r.bargs + 1, bargOpen := true }).releaseEdge .cluster).waitFor .barg
          s.t.view.pipewdog.toNat .none)

/-- The `BARG`s of the member on a tile: one that its stop for a deep pre-emption has withdrawn does not count (R264,
R308). -/
def Running.bargCount (r : Running) : Nat := if r.stopped && r.bargOpen then r.bargs - 1 else r.bargs

/-- The member on a tile waits at a `BARG` of whose episode every member still running has issued its own (R308). -/
def State.episodeDone (s : State) (g : Gang) (t : TileIx) : Bool :=
  let x := s.tile t
  match x.run, x.wait with
  | some r, some w =>
    w.instr == .barg && x.waiting w && g.tiles.all fun p => (s.tile p.2).run.all fun m => decide (r.bargs ≤ m.bargCount)
  | _, _ => false

/-- The members on some tiles go on past their waits, with the edges of R111. -/
def State.goAll (s : State) (l : List TileIx) : State :=
  l.foldl (fun s t => match (s.tile t).wait with
    | none => s
    | some w => (((s.dropSaving t).acquireEdge t .cluster).modRun t fun r =>
        { r with bargOpen := r.bargOpen && w.instr != .barg }).endWait t w) s

/-- The gangs of a cluster's queue with a number. -/
def Cluster.gangsOf (k : Cluster) (n : GangNo) : List Gang := k.gangs.filter fun g => g.num == n

/-- BARRIER_EPISODE_COMPLETE: the members whose episode every member still running has reached go on (R308). -/
def execBarrierEpisodeComplete (cl : ClusterIx) (n : GangNo) (s : State) : Out :=
  if s.phase != .up then .next s
  else .next (((s.cluster cl).gangsOf n).foldl (fun s g => s.goAll ((g.tiles.map (·.2)).filter (s.episodeDone g))) s)

/-- Every running member of a gang waits at an instruction. -/
def State.gangAt (s : State) (g : Gang) (i : Instr) : Bool :=
  !g.tiles.isEmpty && g.tiles.all fun p => match (s.tile p.2).wait with
    | none => false
    | some w => w.instr == i && (s.tile p.2).waiting w

/-- Every running member of a gang goes on past its wait, with the edges of R111. -/
def State.gangGo (s : State) (g : Gang) : State := s.goAll (g.tiles.map (·.2))

/-- What becomes of a gang that suspends: its records with their queues, a slot write to be parked, or nothing (R311). -/
inductive SuspendR where
  | ok (s : State) (l : List (ClusterIx × Rec))
  | park (t : TileIx) (i : BitVec 10) (va : BitVec 48) (malformed : Bool)
  | no

/-- The members of a gang suspended one after another (R264, R311). -/
def State.suspendAll : List TileIx → State → SuspendR
  | [], s => .ok s []
  | t :: l, s =>
    let x := s.tile t
    match x.run, x.wait with
    | some r, some w =>
      match s.keepCommit t x.regs.ctl.ctxn r.commit with
      | .ok s1 slot =>
        let k := r.suspended x.regs (w.src.pc + BitVec.ofNat 48 w.issue.size) slot w.issue.pend
        match State.suspendAll l (s1.leaveTile t none) with
        | .ok s2 ks => .ok s2 ((r.home, k) :: ks)
        | o => o
      | .fail i (.park va m) => .park t i va m
      | _ => .no
    | _, _ => .no

/-- The gang at its `YIELD`s suspends, if it can keep the buffer of every member; a slot page that does not translate parks
first, and the gang stands where it is (R264, R311, R357). -/
def State.gangSuspend (s : State) (g : Gang) : State :=
  match State.suspendAll (g.tiles.map (·.2)) s with
  | .no => s.gangGo g
  | .park t i va m =>
    if s.parkFull t then s else (s.takeSlot t (s.ctxOn t) i).park t (s.ctxOn t) va .write m .suspend
  | .ok s1 ks =>
    let s2 := ks.foldl (fun s k => s.enqueueOnly k.1 k.2) s1
    let s3 := g.tiles.foldl (fun s p => s.select p.2) s2
    match ks with
    | [] => s3
    | k :: _ => s3.offer k.1 k.2

/-- GANG_YIELD_RENDEZVOUS: every member still running stands at a `YIELD`. The gang suspends as a whole where R268 applies
to a member and every pipe is empty; otherwise every member goes on (R264, R311). -/
def execGangYieldRendezvous (cl : ClusterIx) (n : GangNo) (s : State) : Out :=
  if s.phase != .up then .next s
  else .next (((s.cluster cl).gangsOf n).foldl (fun s g =>
    if !s.gangAt g .yield || g.tiles.any fun p => s.hasParked p.2 .suspend then s
    else if (g.tiles.any fun p => s.yieldDue p.2) && g.pipes.all fun p => p.2.entries.isEmpty then s.gangSuspend g
    else s.gangGo g) s)

end Sys2Proof.Machine
end

