-- ==== Sys2Proof/Machine/Traps.lean ====
section
/-! DEFINITION. Software traps, the return from a handler, system calls, and saving and restoring task state (R381 to
R390). -/

namespace Sys2Proof.Machine

/-! ### TRAP and RETT (R382, R384) -/

/-- `TRAP`: TRAPI once the other slots have taken effect, with STEP set (R374, R384). -/
def execTrap (i : BitVec 19) (s : State) : Out :=
  let f : TrapRec := { s.fault causeTrapi (i.zeroExtend 64) 0 false with step := true }
  .next (if s.inBundle then s.modIssue fun x => { x with pend := x.pend.orElse fun _ => some f } else s.takeTrap s.cur f)

/-- The checks of `RETT` at issue (R382): handler mode, an even address, and a resume word the form allows. -/
def State.rettGuard (s : State) (a w : Word) (bad : Bool) (k : Out) : Out :=
  if !s.src.ctl.hnd then s.issueTrap causePriv s.whereWord
  else if a.getLsbD 0 then s.issueTrap causeMisalign a
  else if w.getLsbD 10 && bad then s.illegal
  else k

/-- The return from a handler, unless the resume word keeps its mode (R377, R382). -/
def State.leaveFor (s : State) (w : Word) : State := if w.getLsbD 8 then s else s.modT (·.leaveHandler)

/-- The tile once a `RETT` resumes mode `hnd` at an address: with `slot`, that slot alone issues, and control then goes on where
the first issue of its bundle sent it; what bundles of the modes left behind is forgotten, the pending causes may be taken, and
the first bundle waits its whole stall (R37, R373, R375, R382). -/
def Tile.resumeAt (x : Tile) (hnd : Bool) (a : Addr48) (slot : Option Nat) : Tile :=
  { x with
    replay := slot.map fun k => ⟨k, (x.owed.find? fun o => o.hnd == hnd && o.pc == a).map (·.flow)⟩
    owed := if hnd then x.owed.filter (!·.hnd) else []
    run := x.run.map fun r => { r with asyncHeld := 0, bargOpen := r.bargOpen && (hnd || slot.isSome) }
    first := true }

/-- A return waits for the accesses that the handler has issued: their destinations are its own registers (R377, R382). -/
def State.handlerBusy (s : State) : Bool := s.t.accs.any (·.src.ctl.hnd)

/-- `RETT` (R382). -/
def execRett (a b : SReg) (s : State) : Out :=
  let w := s.rdS b
  let slot : BitVec 4 := w.extractLsb' 12 4
  let at' : Addr48 := (s.rdS a).extractLsb' 0 48
  s.rettGuard (s.rdS a) w (decide (7 < slot.toNat)) <|
    if s.handlerBusy then s.hold
    else .next (((s.leaveFor w).modT fun x =>
      x.resumeAt (w.getLsbD 8) at' (if w.getLsbD 10 then some slot.toNat else none)).jump at')

/-- `RETT.SKIP`: the bundle at the resume address is passed as if it had issued; the loop counts step (R382). -/
def execRettSkip (a b : SReg) (s : State) : Out :=
  let w := s.rdS b
  let at' : Addr48 := (s.rdS a).extractLsb' 0 48
  s.rettGuard (s.rdS a) w true <|
  if s.handlerBusy then s.hold
  else s.bundleAfter (.rettSkip a b) at' (s.rdS a) fun s next =>
    let s1 := (s.leaveFor w).modT (·.resumeAt (w.getLsbD 8) at' none)
    let r := s1.regs
    let f := loopStep at' next r.ctl.loop0 r.ctl.loop1
    .next ((s1.modRegs fun r => { r with ctl := { r.ctl with
      loop0 := { r.ctl.loop0 with lc := f.2.1 }, loop1 := { r.ctl.loop1 with lc := f.2.2 } } }).jump f.1)

/-! ### SYSC (R385) -/

/-- The die's system tile (R9). -/
def systemTile (d : DieIx) : TileIx := d ++ 63#6
/-- The cluster of a die's system tile. -/
def systemCluster (d : DieIx) : ClusterIx := d ++ 7#3

/-- A record of the device for a priority-7 task of context 0 on the system tile of a die (R385). -/
def systemRec (d : DieIx) (entry : Addr48) (task : Nat) (args : List Word) : Rec :=
  let w1 : Word := 0x80002700#64 ||| ((systemCluster d).zeroExtend 64 <<< (16 : Nat))
  Rec.plain (Vector.ofFn fun i : Fin 8 =>
    if i.val = 0 then word0 entry false false false false else if i.val = 1 then w1 else if i.val = 2 then 0
    else args.getD (i.val - 3) 0) task none

/-- The words of the record a `SYSC` slot holds. -/
def Rec.bytes (r : Rec) : List Byte := r.words.toList.flatMap (bvBytes 8)

/-- `SYSC`: a system task takes the request, and the task waits in a slot of its save area (R385). -/
def execSysc (i : BitVec 19) (s : State) : Out :=
  if s.spawnHold then s.hold
  else if s.src.ctl.holdDepth != 0 then s.holdDepthTrap
  else match s.t.run with
    | none => .next s
    | some r =>
      if s.src.ctl.hnd || r.record.gm then s.issueTrap causeProt s.openAddr
      else
        let c := s.ctxn
        match s.saveSlot s.cur c with
        | none => s.issueTrap causeProt 0
        | some k =>
          let rec' := r.suspended s.regs (s.returnAddr.extractLsb' 0 48) none s.t.issue.pend
          let va := slotVa (s.ctx c) k
          match s.slotPut s.cur c va [(0, rec'.bytes), (0x900, r.commit.image)] with
          | .error e => s.slotStops (.sysc i) k e
          | .ok s1 =>
            let d := dieOf s.cur
            let held : SaveSlot := .sysc rec' r.home (clusterOf s.cur) s1.nextOrder
            let s2 := ({ s1 with nextOrder := s1.nextOrder + 1 }.modCtx c fun x =>
              { x with slots := assocSet x.slots k held }).leaveTile s.cur none
            let req : Word := (0#16 ++ s.cur ++ 0#1 ++ c ++ 24#8 ++ 0#5 ++ i : BitVec 64)
            let q := systemRec d s.settings.syscEntry s2.nextTask [req, slotHandle false true c k]
            .next (({ s2 with nextTask := s2.nextTask + 1 }.enqueue (systemCluster d) q).select s.cur)

/-! ### SAVEX (R388) -/

/-- The task has matrix work or an engine token in flight, which a save or a restore of its registers waits for (R22). -/
def Tile.inFlight (x : Tile) : Bool :=
  !x.mx.ops.isEmpty || !x.accs.isEmpty || (List.range 64).any fun a => x.busy true (.s (BitVec.ofNat 6 a))

/-- What `SAVEX` writes to slot k (R386, R388): the registers as the next bundle finds them, with the handle that reads as
restored in `rd`, the stepped loop counts, and the address of that bundle. -/
def State.savexImage (s : State) (d : SReg) (k : BitVec 10) : List (Nat × List Byte) :=
  let f := s.follow
  let img := s.regs.setS d (slotHandle true false s.ctxn k)
  let img' : Regs := { img with ctl := { img.ctl with
    loop0 := { img.ctl.loop0 with lc := f.2.1 }, loop1 := { img.ctl.loop1 with lc := f.2.2 } } }
  { s.t with regs := img' }.fullImage s.cur f.1 (s.t.mx.stopped.filter (·.isMma))

/-- `SAVEX` (R388). -/
def execSavex (d : SReg) (s : State) : Out :=
  if s.src.ctl.hnd || (s.t.run.any (·.record.gm)) then s.issueTrap causeProt s.openAddr
  else if s.member then s.issueTrap causeQuorumUnsafe 0
  else
    let c := s.ctxn
    match s.saveSlot s.cur c with
    | none => .next (s.wrS d 0)
    | some k =>
      if !s.t.mx.ops.isEmpty || s.spawnHold then s.hold
      else
        match s.slotPut s.cur c (slotVa (s.ctx c) k) (s.savexImage d k) with
        | .error e => s.slotStops (.savex d) k e
        | .ok s1 => .next (((s1.keepSlot s.cur c k (.state s.cur)).drain s.cur).wrS d (slotHandle false false c k))

/-! ### RESTX (R389) -/

/-- The fields of a slot handle: KIND, context and slot; none for a word that is no handle (R386). -/
def handleSlot (w : Word) : Option (Bool × CtxNo × BitVec 10) :=
  if w.extractLsb' 25 38 != 0 || w.getLsbD 23 || w.extractLsb' 10 6 != 0 then none
  else some (w.getLsbD 24, w.extractLsb' 16 7, w.extractLsb' 0 10)

/-- What a `RESTX` acts on: a saved state of its own context, or, in system mode, a record of `SYSC` (R389). -/
inductive RestTarget where
  | state (slot : BitVec 10) (savedOn : TileIx)
  | record (c : CtxNo) (slot : BitVec 10) (r : Rec) (home : ClusterIx) (source : EndFrom)

/-- The slot a handle names, if `RESTX` may act on it in the mode of the task (R389). -/
def State.restTarget (s : State) (w : Word) : Option RestTarget :=
  match handleSlot w with
  | none => none
  | some (kind, c, k) =>
    match assocGet (s.ctx c).slots k with
    | some (.state t) => if !kind && !s.system && c == s.ctxn then some (.state k t) else none
    | some (.sysc r home ran n) => if kind && s.system then some (.record c k r home (.queue ran n)) else none
    | _ => none

/-- The restore of a saved image over the registers of the task on the current tile (R389). -/
def State.restore (s : State) (l : List Host.Cell) (from' : TileIx) : State :=
  let x := s.t
  let r := s.regs.load l false x.view.holdlim
  let win := if from' == s.cur then none else some from'
  ((s.modT fun x =>
    { x with
      regs := { r with pc := s.regs.pc }
      mx := { imgMatrix l win (imgStopped l) with
        gated := x.mx.gated, waking := x.mx.waking ||| (x.mx.gated &&& r.ctl.ashape), idle := x.mx.idle }
      accPoison := [], regPoison := [], pending := [], late := [], owed := [], first := true
      peat := { x.peat with dirty := true } }).checkReloads s.cur).jump r.pc

/-- The record that a slot of `SYSC` holds: words 3 to 7 and the commit buffer as they stand in the slot (R310, R385, R386). -/
def State.recordGet (s : State) (c : CtxNo) (k : BitVec 10) (r : Rec) : Except GFail Rec :=
  let va := slotVa (s.ctx c) k
  match s.slotPart s.cur c va 0 64 [] with
  | .error e => .error e
  | .ok l => match (if r.commit.lines.isEmpty && r.commit.contribs.isEmpty then .ok l else s.slotPart s.cur c va 0x900 2304 l) with
    | .error e => .error e
    | .ok l => .ok
      { r with
        words := Vector.ofFn fun j : Fin 8 => if j.val < 3 then r.words[j] else BitVec.ofNat 64 (imgNat l (8 * j.val) 8)
        commit := r.commit.load l }

/-- The forms of `RESTX` (R389). -/
def State.restxForm (s : State) (i : Instr) (a : SReg) (keep drop : Bool) : Out :=
  let prot := s.issueTrap causeProt s.openAddr
  if s.src.ctl.hnd || (s.t.run.any (·.record.gm)) then prot
  else match s.restTarget (s.rdS a) with
    | none => prot
    | some (.state k t) =>
      let c := s.ctxn
      let va := slotVa (s.ctx c) k
      let stop (e : GFail) : Out := match e with
        | .park va m => s.parkWait i c va .read m
        | .prot va => .next (s.execTrap causeProt (va.signExtend 64) 0)
      if drop then
        if t == s.cur then .next (s.freeSaveSlot c (some k))
        else match s.slotPart s.cur c va 0x1240 192 [] with
          | .error e => stop e
          | .ok l => if imgNeedsCaddy l then prot else .next (s.freeSaveSlot c (some k))
      else if s.src.ctl.holdDepth != 0 then s.holdDepthTrap
      else if s.t.inFlight then s.hold
      else match s.slotGet s.cur c va with
        | .error e => stop e
        | .ok l =>
          if (imgNeedsCaddy l && t != s.cur) || (imgNeedsCluster l && clusterOf t != clusterOf s.cur) then prot
          else .next ((if keep then s else s.freeSaveSlot c (some k)).restore l t)
    | some (.record c k r home o) =>
      if keep then s.illegal
      else if drop then .next (((s.freeSaveSlot c (some k)).cancelCommands r.task).sendEnd (r.endMsg .killed false o))
      else match s.recordGet c k r with
        | .error (.park va m) => s.parkWait i c va .read m
        | .error (.prot va) => .next (s.execTrap causeProt (va.signExtend 64) 0)
        | .ok r' => .next ((s.freeSaveSlot c (some k)).enqueue home r')

/-- `RESTX` (R389). -/
def execRestx (a : SReg) (s : State) : Out := s.restxForm (.restx a) a false false
/-- `RESTX.KEEP` (R389). -/
def execRestxKeep (a : SReg) (s : State) : Out := s.restxForm (.restxKeep a) a true false
/-- `RESTX.DROP` (R389). -/
def execRestxDrop (a : SReg) (s : State) : Out := s.restxForm (.restxDrop a) a false true

end Sys2Proof.Machine
end

