-- ==== Sys2Proof/Machine/Region.lean ====
section
/-! DEFINITION. Isolation: invalidation, the writes of a tile reaching their homes, the control region, the parking units,
the contexts from activation to end, and the ends of tasks on their way to their joins (R89, R116, R121, R122, R259, R305,
R350 to R362). -/

namespace Sys2Proof.Machine

/-! ### Scope instances and invalidation (R107, R121, R122, R144, R359, R360) -/

/-- The tiles of the scope instance of a tile; SYSTEM acts as DEVICE (R107, R359). -/
def instanceTiles (t : TileIx) (sc : Scope) : List TileIx :=
  match sc with
  | .tile => [t]
  | .cluster => tilesOf (clusterOf t)
  | .die => tilesOfDie (dieOf t)
  | _ => allTiles

/-- The clusters that lie whole in a scope instance. -/
def instanceClusters (t : TileIx) (sc : Scope) : List ClusterIx :=
  match sc with
  | .tile => []
  | .cluster => [clusterOf t]
  | .die => clustersOf (dieOf t)
  | _ => allClusters

/-- What a `TLBINV` drops (R359). -/
inductive InvKind where
  | page (asid : BitVec 7) (va : BitVec 48)
  | asid (asid : BitVec 7)
  | all
deriving DecidableEq, Repr

/-- A translation is dropped. -/
def InvKind.hits (k : InvKind) (e : TlbEntry) : Bool :=
  match k with
  | .page a va => e.covers a va
  | .asid a => e.asid == a
  | .all => true

/-- A line under an address is dropped: for a page, every line that a page of either size over it may hold. -/
def InvKind.hitsLine (k : InvKind) (asid : BitVec 7) (va : BitVec 48) : Bool :=
  match k with
  | .page a v => asid == a && va.extractLsb' 29 19 == v.extractLsb' 29 19
  | .asid a => asid == a
  | .all => true

/-- A commit buffer of a context holds a provisional store of some tiles under an address that is dropped (R144). -/
def State.holdsLine (s : State) (k : InvKind) (ts : List TileIx) (c : CtxNo) (b : CommitBuf) : Bool :=
  b.lines.any fun l => l.inGlobal && l.stores.any fun p => ts.contains p.1 && k.hitsLine (s.ctx c).asid p.2

/-- A provisional store made in a scope instance keeps a `TLBINV` waiting, wherever its task is by now (R122, R144). -/
def State.provisionalIn (s : State) (t : TileIx) (sc : Scope) (k : InvKind) : Bool :=
  let has (c : CtxNo) (b : CommitBuf) : Bool := s.holdsLine k (instanceTiles t sc) c b
  (s.tiles.toList.any fun x => x.run.any fun r => has r.record.ctxn r.commit) ||
  (s.ends.any fun m => has m.2.ctx m.2.commit) ||
  (s.clusters.toList.any fun x => (x.queue.any fun q => has q.record.ctxn q.record.commit) ||
    x.joins.any fun j => j.2.join.any fun y => y.succ.any fun p => has p.1.ctxn p.1.commit) ||
  s.ctxs.toList.any fun x => x.slots.any fun p => match p.2 with
    | .sysc r .. => has r.ctxn r.commit
    | _ => false

/-- The entries and lines of a tile dropped. -/
def Tile.invalidate (x : Tile) (k : InvKind) : Tile :=
  { x with tlb := x.tlb.filter fun e => !k.hits e, l1 := x.l1.filter fun l => !k.hitsLine l.asid l.va }

/-- The entries of a cluster TLB dropped. -/
def State.invalidateCluster (s : State) (k : InvKind) (c : ClusterIx) : State :=
  s.modCluster c fun x => { x with tlb := x.tlb.filter fun e => !k.hits e }

/-- The forms of `TLBINV`: once every access of the instance that used an old translation is performed, the entries are
gone (R122, R359). -/
def State.tlbinv (s : State) (k : InvKind) (sc : Scope) : Out :=
  let ts := instanceTiles s.cur sc
  systemOnly s <|
  if (ts.any fun t => (s.tile t).ctlPending) || s.provisionalIn s.cur sc k then s.hold
  else
    let s1 := ts.foldl (fun s t => (s.drain t).modTile t (·.invalidate k)) s
    .next ((clusterOf s.cur :: instanceClusters s.cur sc).foldl (fun s c => s.invalidateCluster k c) s1)

/-- `TLBINV.PAGE` (R359). -/
def execTlbinvPage (a b : SReg) (sc : Scope) (s : State) : Out :=
  s.tlbinv (.page ((s.rdS b).extractLsb' 0 7) ((s.rdS a).extractLsb' 0 48)) sc
/-- `TLBINV.ASID` (R359). -/
def execTlbinvAsid (b : SReg) (sc : Scope) (s : State) : Out := s.tlbinv (.asid ((s.rdS b).extractLsb' 0 7)) sc
/-- `TLBINV.ALL` (R359). -/
def execTlbinvAll (sc : Scope) (s : State) : Out := s.tlbinv .all sc

/-- `ICINV`: the writes the task sees are performed at their homes, then the lines of its context are gone from every instruction
cache of the instance, and the die caches behind these give up their lines (R95, R121, R360). A task running on one of these tiles
may then fetch a line old or new until its next suspension point: here it fetches new, the model's choice (log entry 86). -/
def execIcinv (sc : Scope) (s : State) : Out :=
  let asid := (s.ctx s.ctxn).asid
  if s.t.ctlPending then s.hold
  else .next ((instanceTiles s.cur sc).foldl (fun s t => (s.dropDie (dieOf t)).modTile t fun x =>
    { x with ic := x.ic.filter fun l => l.asid != asid }) (s.drain s.cur))

/-! ### Answers of the memory manager (R357, R358, R386) -/

/-- A parked request of a die. -/
def Die.request (d : Die) (id : BitVec 12) : Option Parked := d.parked.find? fun p => p.id == id

/-- A parked request leaves its unit. -/
def State.unpark (s : State) (d : DieIx) (id : BitVec 12) : State :=
  s.modDie d fun x => { x with parked := x.parked.filter fun p => p.id != id }

/-- The command of a queue that waits for a translation goes on after the answer. -/
def State.engAnswered (s : State) (t : TileIx) (q : QueueId) (o : Option EngOut) : State :=
  match ((s.tile t).queue q).cmds.find? (·.parked) with
  | none => s
  | some c => s.setCmd t q { c with parked := false, result := c.result.orElse fun _ => o }

/-- The first `MUPD` subcommand goes on after its translation has been answered. -/
def Tile.mupdAnswered (x : Tile) (o : Option (Word × Option TrapRec)) : Tile :=
  match x.mupd with
  | m :: l => { x with mupd := { m with parked := false, result := m.result.orElse fun _ => o } :: l }
  | [] => x

/-- RETRY: the tables are walked again, and a request that fails again parks again (R357). -/
def State.parkRetry (s : State) (d : DieIx) (id : BitVec 12) : State :=
  match (s.die d).request id with
  | none => s
  | some p =>
    let s1 := (s.unpark d id).dropTranslation p.tile p.ctx p.va
    match p.kind with
    | .matrix n => s1.mxRetry p.tile n
    | .engine q => s1.engAnswered p.tile q none
    | .mupd => s1.modTile p.tile (·.mupdAnswered none)
    | _ => s1

/-- XLATE at a boundary for the task on a tile, at an address (R358, R374), behind the asynchronous causes that are due there
(R375). -/
def State.boundaryXlate (s : State) (t : TileIx) (slot : BitVec 4) (addr : Word) : State :=
  if (s.tile t).asyncDue.isSome then s.takeAsync t
  else s.takeTrap t
    { cause := causeXlate, sub := 0, slot := slot, replay := false, step := false, addr := addr
      pc := (s.tile t).regs.pc.zeroExtend 64 }

/-- The address of the slot of a context's save area that holds an address (R386). -/
def Context.slotAt (x : Context) (va : BitVec 48) : BitVec 48 :=
  slotVa x ((va - slotVa x 0).extractLsb' 18 10)

/-- XLATE for the access of this place in the order of issue (R358): the instruction the task waits for takes it, and a
load or store parked beside the task's bundles does. `RETT.SKIP` names its operand (R382), and an instruction that suspends
names its slot (R311). -/
def State.accessFail (s : State) (t : TileIx) (n : Nat) (va : Word) : State :=
  let x := s.tile t
  let addr (w : Wait) : Word := match w.instr with
    | .rettSkip a _ => w.src.getS a
    | .yield | .jwait _ | .jwaitHere _ | .sysc _ => ((s.ctx (s.ctxOn t)).slotAt (va.extractLsb' 0 48)).signExtend 64
    | _ => va
  match x.accs.find? fun a => a.order == n with
  | some a => s.accFault t a causeXlate va 0
  | none => match x.wait with
    | some w => if w.begun && w.order = n then (s.dropSaving t).waitTrap t w causeXlate (addr w) 0 else s
    | none => s

/-- FAIL: the request ends with XLATE in its issuer (R357, R358); a deep pre-emption ends with it (R386), and a gang that
cannot keep a member's buffer goes on past its `YIELD`s (R311). -/
def State.parkFail (s : State) (d : DieIx) (id : BitVec 12) : State :=
  match (s.die d).request id with
  | none => s
  | some p =>
    let s1 := s.unpark d id
    let va := p.va.signExtend 64
    match p.kind with
    | .access n => s1.accessFail p.tile n va
    | .fetch => s1.boundaryXlate p.tile 10 ((s1.tile p.tile).regs.pc.zeroExtend 64)
    | .matrix n => s1.mxFail p.tile n p.va
    | .engine q => s1.engAnswered p.tile q (some (engFailure 16 causeXlate va))
    | .mupd => s1.modTile p.tile (·.mupdAnswered (some ((engFailure 16 causeXlate va).1, some (engCause causeXlate va))))
    | .save => (s1.putOffAll p.tile).raiseAsync p.tile causeXlate 9 va
    | .suspend =>
      match s1.gangOf p.tile with
      | none => s1
      | some g => if s1.gangAt g .yield then s1.gangGo g else s1
    | .restore => s1.restoreFail p.tile causeXlate va

/-- PARKNEXT_READ: a read of PARKNEXT takes the oldest unpresented record (R357). -/
def execParknextRead (die : DieIx) (s : State) : Out := .next (s.parkTake die)
/-- PARKANS_RETRY (R357). -/
def execParkansRetry (die : DieIx) (id : BitVec 12) (s : State) : Out := .next (if s.phase == .up then s.parkRetry die id else s)
/-- PARKANS_FAIL (R357). -/
def execParkansFail (die : DieIx) (id : BitVec 12) (s : State) : Out := .next (if s.phase == .up then s.parkFail die id else s)
/-- PARK_TIMEOUT: a request unanswered for 10 ms is answered FAIL by the unit (R357). -/
def execParkTimeout (die : DieIx) (id : BitVec 12) (s : State) : Out :=
  .next (if s.phase == .up && ((s.die die).request id).any fun p => p.leftNs == 0 then s.parkFail die id else s)

/-! ### Segments and Caddy regions (R89, R361, R362) -/

/-- SEGMENT_OWNER_WRITE (R361). -/
def execSegmentOwnerWrite (t : TileIx) (g : BitVec 5) (o : BitVec 8) (s : State) : Out := .next (s.writeOwner t g o)

/-- SEGMENT_ZERO_COMPLETE: the segment reads zero with its tags full (R89). -/
def execSegmentZeroComplete (t : TileIx) (g : BitVec 5) (s : State) : Out :=
  .next (if ((s.tile t).seg g).zeroing then s.modTile t (·.zeroSeg g) else s)

/-- Two regions share a 64 KiB unit. -/
def Region.overlaps (a b : Region) : Bool :=
  decide (a.base.toNat < b.base.toNat + b.len.toNat) && decide (b.base.toNat < a.base.toNat + a.len.toNat)

/-- A region entry with the fields of its first word written (R362). -/
def Region.write (r : Region) (w : Word) : Region :=
  { r with owner := w.extractLsb' 40 7, valid := w.getLsbD 32, len := w.extractLsb' 16 9, base := w.extractLsb' 0 9 }

/-- A write of the first word of entry i is refused (R362). An overlap refuses only a write that sets VALID: the spec does not say
what one with VALID clear does, and this is the model's choice (log entry 110). -/
def Caddy.refuses (c : Caddy) (i : BitVec 4) (n : Region) : Bool :=
  let r := c.region i
  decide (376 < n.base.toNat + n.len.toNat) ||
  (n.valid && (List.range 16).any fun j => j != i.toNat && (c.region (BitVec.ofNat 4 j)).valid && n.overlaps (c.region (BitVec.ofNat 4 j))) ||
  (r.updating && (n.base != r.base || n.len != r.len || n.owner != r.owner))

/-- A word of a Caddy region entry of tile t written (R362); the measurement register of a region placed anew is that of its
BASE and LEN (R371). -/
def Caddy.writeRegion (c : Caddy) (t : TileIx) (i : BitVec 4) (hi : Bool) (w : Word) : Caddy :=
  if hi then c.modRegion i fun r => { r with grant := w }
  else
    let r := c.region i
    let n := r.write w
    if c.refuses i n then c
    else c.modRegion i fun _ => if n.base == r.base && n.len == r.len then n else { n with measure := c.digest t n, measured := n.version }

/-- CADDY_REGION_WRITE (R362). -/
def execCaddyRegionWrite (t : TileIx) (i : BitVec 4) (hi : Bool) (w : BitVec 64) (s : State) : Out :=
  .next (s.modTile t fun x => x.modCaddy fun c => c.writeRegion t i hi w)

/-! ### The end of a context (R352) -/

/-- The joins of a context freed with no fill and no successor: a `JWAIT` continuation is counted killed, a `JINIT`
successor never comes to run (R293, R352, R367). -/
def State.dropJoins (s : State) (c : CtxNo) : State :=
  allClusters.foldl (fun s cl =>
    (s.cluster cl).joins.foldl (fun s p =>
      match p.2.join with
      | none => s
      | some j =>
        if j.ctx != c then s
        else
          let s1 := s.freeJoin (joinHandle cl p.1 p.2.gen)
          match j.succ with
          | none => s1
          | some (r, _) =>
            if (r.w 0).getLsbD 48 then s1.sendEnd { (r.endMsg .killed false (.queue cl 0)) with handle := 0, joins := [] }
            else s1.launchDrop r.launch) s) s

/-- The spawns of a context on their way: an accepted one is counted killed (R352, R367). -/
def State.dropSpawns (s : State) (c : CtxNo) : State :=
  let mine := s.spawns.filter fun m => m.2.ctx == c
  (mine.filter fun m => m.2.st == .accepted).foldl (fun s m =>
    m.2.recs.foldl (fun s r => s.sendEnd (r.endMsg .killed false (.queue m.2.target m.2.order))) s)
    { s with spawns := s.spawns.filter fun m => m.2.ctx != c }

/-- Every slot of the save area of a context freed (R352, R387). -/
def State.dropSlots (s : State) (c : CtxNo) : State := s.modCtx c fun x => { x with slots := [] }

/-- The slabs of a context freed: their pages return (R104, R352). -/
def State.dropSlabs (s : State) (c : CtxNo) : State :=
  allDies.foldl (fun s d =>
    (s.die d).kv.foldl (fun s p =>
      match p.2.slab with
      | none => s
      | some x =>
        if x.owner != c then s
        else
          let n := if x.move.isSome then 3 * x.pages else x.pages
          ((s.keepPages (d ++ p.1 ++ p.2.gen) x).setFree c d ((s.ctx c).pagesFree d + n)).modDie d fun y =>
            { y with kv := assocSet y.kv p.1 ⟨nextGen p.2.gen, none⟩ }) s) s

/-- What a tile holds for a context that ends: its commands that have not started are cancelled, its open `MUPD` transaction
is rolled back, its segments are revoked, and its lines and translations are gone (R89, R154, R352, R408). -/
def Tile.forget (x : Tile) (c : CtxNo) (asid : BitVec 7) : Tile :=
  let y := x.invalidate (.asid asid)
  { y with
    eng := x.eng.map fun q => { q with cmds := q.cmds.map fun k =>
      if k.ctx == c && !k.started then { k with live := false, cancelled := true } else k }
    mupd := x.mupd.filter fun m => m.ctx != c || m.switched
    caddy := if (x.caddy.txn.any fun t => t.ctx == c) && !(x.mupd.any (·.switched)) then x.caddy.rollback else x.caddy
    segs := x.segs.map fun g => if g.owner == some c then { g with owner := none } else g
    ic := x.ic.filter fun l => l.asid != asid }

/-- The system context ends a context: the six steps of R352. The completions of its launches follow as its ends are
counted. -/
def State.endContext (s : State) (c : CtxNo) : State :=
  let asid := (s.ctx c).asid
  let s1 := s.modCtx c fun x => { x with st := .ending, launches := x.launches.map fun l => { l with ended := true } }
  let s2 := ((s1.dropJoins c).killQueued c false allClusters).killRunning c false allTiles
  let s3 := ((s2.dropSpawns c).dropSlots c).dropSlabs c
  let s4 : State := { s3 with
    tiles := s3.tiles.map fun x => Tile.forget x c asid
    clusters := s3.clusters.map fun k =>
      { k with gangs := k.gangs.filter (fun g => g.ctx != c), tlb := k.tlb.filter fun e => e.asid != asid } }
  State.checkResumed s4

/-- CONTEXT_END_COMPLETE: the launches of the context are complete and its ends counted, so STATE reads FREE; a slot halted
for it takes tasks again (R352, R379). -/
def execContextEndComplete (x : CtxNo) (s : State) : Out :=
  let k := s.ctx x
  .next <|
    if s.phase == .up && k.st == .ending && k.launches.isEmpty && k.pendingTo = 0 && !(s.ends.any fun m => m.2.ctx == x) then
      let ts := allTiles.filter fun t => (s.tile t).halted == some x
      ts.foldl (fun s t => (s.modTile t fun y => { y with halted := none }).freed t) (s.modCtx x fun y => { y with st := .free })
    else s

/-! ### Context blocks (R354) -/

/-- The ASID of a context is in use: another context that is not FREE has it (R350, R354). -/
def State.asidUsed (s : State) (c : CtxNo) (a : BitVec 7) : Bool :=
  (List.range 128).any fun i => i != c.toNat && (s.ctx (BitVec.ofNat 7 i)).st != .free && (s.ctx (BitVec.ofNat 7 i)).asid == a

/-- A write that a row refuses: the block is unchanged, and ERR is set (R354). -/
def State.refuseBlock (s : State) (c : CtxNo) : State := s.modCtx c fun x => { x with err := true }

/-- Word 0 of a context block written; `ones` holds the bits written as 1 (R350, R352, R354). -/
def State.writeState (s : State) (c : CtxNo) (w ones : Word) : State :=
  let x := s.ctx c
  let st : BitVec 2 := w.extractLsb' 0 2
  let asid : BitVec 7 := w.extractLsb' 8 7
  let activate := x.st == .free && st == 1
  let finish := x.st == .active && st == 2
  if !(st == CtxSt.code x.st || activate || finish) || (x.st != .free && asid != x.asid) || (activate && s.asidUsed c asid) then
    s.refuseBlock c
  else
    let s1 := s.modCtx c fun x =>
      { x with
        group := w.extractLsb' 16 6, asid := asid, err := x.err && !ones.getLsbD 2
        st := if activate then .active else x.st }
    if finish then s1.endContext c else s1

/-- A word of a context block written; the block of context 0 ignores writes (R354). -/
def State.writeBlock (s : State) (c : CtxNo) (k : Nat) (w ones : Word) : State :=
  let lo : BitVec 32 := w.extractLsb' 0 32
  let hi : BitVec 32 := w.extractLsb' 32 32
  let kv (d : Fin 4) (x : Context) : Context := { x with kvReserve := x.kvReserve.set d.val hi d.isLt, kvFree := x.kvFree.set d.val lo d.isLt }
  if c == 0 then s
  else match k with
    | 0 => s.writeState c w ones
    | 1 => s.modCtx c fun x => { x with root := w.extractLsb' 12 34 }
    | 2 =>
      if hi.toNat < 100000 || 100000000 < hi.toNat then s.refuseBlock c
      else s.modCtx c fun x => { x with period := hi, allowance := lo }
    | 3 => s.modCtx c fun x => { x with save := w.extractLsb' 6 42 }
    | 4 => s.modCtx c fun x => { x with peers := lo }
    | 5 => s.modCtx c fun x => { x with sqlog := w.extractLsb' 60 4, sqbase := w.extractLsb' 7 51 }
    | 6 => s.modCtx c fun x => { x with cqlog := w.extractLsb' 60 4, cqbase := w.extractLsb' 5 53 }
    | 7 => if hi == 0 || lo == 0 then s.refuseBlock c else s.modCtx c fun x => { x with quantum := hi, holdlim := lo }
    | 8 => s.modCtx c (kv 0)
    | 9 => s.modCtx c (kv 1)
    | 10 => s.modCtx c (kv 2)
    | 11 => s.modCtx c (kv 3)
    | 12 => if hi == 0 || lo == 0 then s.refuseBlock c else s.modCtx c fun x => { x with pipewdog := hi, fewdog := lo }
    | _ => s

/-- CONTEXT_ACTIVATE: a write of 1 to the STATE of a context (R350, R354). -/
def execContextActivate (x : CtxNo) (s : State) : Out :=
  .next (s.writeBlock x 0 ((s.ctxWord x 0 &&& 0xFFFFFFFFFFFFFFF8#64) ||| 1) 0)

/-- CONTEXT_END: a write of 2 to the STATE of a context (R352, R354). -/
def execContextEnd (x : CtxNo) (s : State) : Out :=
  .next (s.writeBlock x 0 ((s.ctxWord x 0 &&& 0xFFFFFFFFFFFFFFF8#64) ||| 2) 0)

/-! ### Writes of the control region (R353) -/

/-- A word of the parking window of a die written, `w` with the bytes that the write leaves as they were. PARKANS, which holds
nothing, acts when the bytes of its two fields are written, the model's choice for a partial write (R357; log entry 115). -/
def State.writePark (s : State) (d : DieIx) (off : Nat) (l : List (Option Byte)) (w : Word) : State :=
  match off with
  | 16 =>
    if (l.take 3).any (·.isNone) then s
    else if w.getLsbD 16 then s.parkFail d (w.extractLsb' 0 12)
    else s.parkRetry d (w.extractLsb' 0 12)
  | 24 => s.modDie d fun x => { x with parkBell := w.extractLsb' 0 32 }
  | _ => s

/-- A word of a device-memory aperture written; the base is aligned to 1 GiB (R365). -/
def Aperture.write (a : Aperture) (base : Bool) (w ones : Word) : Aperture :=
  if base then { a with base := w &&& 0xFFFFFFFFC0000000#64 }
  else { a with ctx := w.extractLsb' 0 7, valid := w.getLsbD 7, err := a.err && !ones.getLsbD 8 }

/-- An aperture of the host port. -/
def State.aperture (s : State) (a : BitVec 6) : Aperture := s.port.apertures[a.toNat]'a.isLt
/-- An aperture of the host port changed. -/
def State.modAperture (s : State) (a : BitVec 6) (f : Aperture → Aperture) : State :=
  { s with port := { s.port with apertures := s.port.apertures.set a.toNat (f (s.aperture a)) a.isLt } }

/-- The bytes of an aligned word that a write of `bs` at `off` covers. -/
def coveredBytes (base off : Nat) (bs : List Byte) : List (Option Byte) :=
  (List.range 8).map fun j => if off ≤ base + j then bs[base + j - off]? else none

/-- A word from bytes, those not written taken from another word. -/
def mergeBytes (l : List (Option Byte)) (old : Word) : Word :=
  BitVec.ofNat 64 (leNat (((List.range 8).zip l).map fun p => p.2.getD (old.extractLsb' (8 * p.1) 8)))

/-- An aligned word of the control region written, with the bytes that are written (R353). -/
def State.writeCtlWord (s : State) (base : Nat) (l : List (Option Byte)) : State :=
  let w := mergeBytes l (s.ctlWord base)
  let ones := mergeBytes l 0
  if base < 0x4000 then s.writeBlock (BitVec.ofNat 7 (base / 128)) (base % 128 / 8) w ones
  else if 0x10000 ≤ base && base < 0x12000 then
    ((List.range 8).zip l).foldl (fun s p => match p.2 with
      | none => s
      | some b => s.writeOwner (BitVec.ofNat 8 ((base - 0x10000) / 32)) (BitVec.ofNat 5 (base + p.1)) b) s
  else if 0x20000 ≤ base && base < 0x30000 then
    let t : TileIx := BitVec.ofNat 8 ((base - 0x20000) / 256)
    s.modTile t fun x => x.modCaddy fun c => c.writeRegion t (BitVec.ofNat 4 (base / 16)) (base % 16 == 8) w
  else if 0x30000 ≤ base && base < 0x30400 then s.writePark (BitVec.ofNat 2 ((base - 0x30000) / 256)) (base % 256) l w
  else if 0x31000 ≤ base && base < 0x31400 then
    s.modAperture (BitVec.ofNat 6 ((base - 0x31000) / 16)) (·.write (base % 16 == 8) w ones)
  else s

/-- Bytes written to the control region, word by word (R353). -/
def State.ctlWrite (s : State) (off : Nat) (bs : List Byte) : State :=
  ((List.range ((off % 8 + bs.length + 7) / 8)).map fun i => off / 8 * 8 + 8 * i).foldl (fun s b =>
    s.writeCtlWord b (coveredBytes b off bs)) s

/-- A pending write of the control region performed: each word with the bytes that the write replaces (R353). -/
def State.ctlWritten (s : State) (w : PendingWrite) : State :=
  ((List.range ((w.addr % 8 + w.bytes.length + 7) / 8)).map fun i => w.addr / 8 * 8 + 8 * i).foldl (fun s b =>
    s.writeCtlWord b ((List.range 8).map fun j =>
      if (w.at (b + j)).mask == 0 then none
      else some ((w.at (b + j)).on ((s.ctlWord b).extractLsb' (8 * j) 8)))) s

/-- What an arrival that is being counted has written to the control region performed (R144, R292). -/
def State.flushCtl (s : State) : State :=
  s.ctlDue.foldl (fun s p => s.writeCtlWord p.1 p.2) { s with ctlDue := [] }

/-! ### Ends (R259, R260, R305) -/

/-- `END` retires the task once its spawns have returned and its accesses are performed (R260, R297, R305). Only a task in system
mode has provisional stores to the control region (R351). -/
def execEndTask (s : State) : Out :=
  if s.spawnHold then s.hold
  else if s.src.ctl.holdDepth != 0 then s.holdDepthTrap
  else if !s.t.mx.ops.isEmpty || s.linesWait s.ctxn s.t.commit then s.hold
  else
    let s1 := s.endTask s.cur .arrived false
    .next (if s.system then s1.flushCtl else s1)

/-- An end may arrive: behind every spawn of its task, its writes to the control region and the zeroing of the segments its
provisional stores go to (R89, R292, R297). -/
def State.endReady (s : State) (m : EndMsg) : Bool :=
  !(s.spawns.any fun p => p.2.task == m.task && p.2.st == .checking) && !s.linesWait m.ctx m.commit &&
  (match m.source with
  | .tile t => (s.tile t).wbuf.all fun w => w.task != m.task
  | .queue _ _ => true)

/-- Ends of one cycle in the order they are counted: those a tile reports by tile index, then the others by the cluster of
their queue and their place in it (R259). -/
def EndFrom.before : EndFrom → EndFrom → Bool
  | .tile a, .tile b => decide (a.toNat ≤ b.toNat)
  | .tile _, .queue .. => true
  | .queue .., .tile _ => false
  | .queue c m, .queue d n => decide (c.toNat < d.toNat) || (c == d && decide (m ≤ n))

/-- An end put in its place among others of its cycle. -/
def insertEnd (m : Nat × EndMsg) : List (Nat × EndMsg) → List (Nat × EndMsg)
  | [] => [m]
  | p :: l => if m.2.source.before p.2.source then m :: p :: l else p :: insertEnd m l

/-- The ends that reach the join unit of an end in the same cycle. Which do is not fixed. -/
def State.sameCycle (s : State) (n : Nat) (m : EndMsg) : State × List (Nat × EndMsg) :=
  let l := s.ends.filter fun p =>
    p.1 != n && m.handle != 0 && p.2.handle != 0 && joinCluster p.2.handle == joinCluster m.handle && s.endReady p.2
  if l.isEmpty then (s, [])
  else
    let ch := s.choose (2 ^ l.length)
    (ch.2, (((List.range l.length).zip l).filter fun p => ch.1.testBit p.1).map (·.2))

/-- JOIN_END_ARRIVAL: an end reaches its join unit, behind every spawn of the task; the ends of one cycle are counted in the
order of R259 (R259, R297, R305). -/
def execJoinEndArrival (n : Nat) (s : State) : Out :=
  match assocGet s.ends n with
  | none => .next s
  | some m =>
    if !s.fabricUp || !s.endReady m then .next s
    else
      let r := s.sameCycle n m
      let l := r.2.foldl (fun l p => insertEnd p l) [(n, m)]
      .next (l.foldl (fun s p => { s with ends := assocDel s.ends p.1 }.countEnd p.2) r.1).flushCtl

/-! ### A write reaches its home (R108, R116) -/

/-- A write that a tile sees performed at its home (R108, R116). -/
def State.performWrite (s : State) (t : TileIx) (w : PendingWrite) : State :=
  if w.ctl then s.ctlWritten w else s.atHome (dieOf t) w

/-- The n-th write that a tile sees on its way taken from the list that holds it (R107). -/
def State.takeWrite (s : State) (t : TileIx) (n : Nat) : State :=
  let a := (s.die (dieOf t)).wbuf.length
  let b := a + (s.cluster (clusterOf t)).wbuf.length
  if n < a then s.modDie (dieOf t) fun x => { x with wbuf := x.wbuf.eraseIdx n }
  else if n < b then s.modCluster (clusterOf t) fun k => { k with wbuf := k.wbuf.eraseIdx (n - a) }
  else s.modTile t fun x => { x with wbuf := x.wbuf.eraseIdx (n - b) }

/-- WRITE_REACHES_HOME: a write that a tile sees on its way is performed at its home, behind the earlier ones to its line: one of
its die cache, of its cluster or its own (R107, R108, R116). -/
def execWriteReachesHome (t : TileIx) (n : Nat) (s : State) : Out :=
  let l := s.ahead t
  match l[n]? with
  | none => .next s
  | some w =>
    if !s.fabricUp || (l.take n).any (·.sameLine w) then .next s
    else .next ((s.takeWrite t n).performWrite t w)

end Sys2Proof.Machine
end

