-- ==== Sys2Proof/Machine/Persist.lean ====
section
/-! DEFINITION. Persistence and service life: the Peat save and `CKPT`, the loss of power, the start and the resume, readiness,
retraining and the Caddy patrol (R31, R248, R394 to R417). -/

namespace Sys2Proof.Machine

/-! ### The save (R30, R394 to R397) -/

/-- The bits set in a mask, ascending. -/
def bitsOf {n : Nat} (m : BitVec n) : List Nat := (List.range n).filter m.getLsbD

/-- The bytes before the window in a save (R396). -/
def saveWindow (accm : BitVec 8) (vm : BitVec 32) : Nat := 28672 * (bitsOf accm).length + 512 * (bitsOf vm).length

/-- The place of byte p of a save in the save area, by offset from its start; it wraps (R396). -/
def savePlace (slot : BitVec 2) (p : Nat) : Nat := (slot.toNat * 0x20000 + p) % 0x80000

/-- The start of the save area in the Caddy (R93, R396). -/
def saveArea : Nat := 0x1780000

/-- Bytes of a save written from byte p on (R396). -/
def Caddy.savePut (c : Caddy) (slot : BitVec 2) (p : Nat) (bs : List Byte) : Caddy :=
  let q := savePlace slot p
  let k := 0x80000 - q
  { c with bytes := cellsWrite (cellsWrite c.bytes (saveArea + q) (bs.take k)) saveArea (bs.drop k) }

/-- Bytes of a save read from byte p on (R400). -/
def Caddy.saveGet (c : Caddy) (slot : BitVec 2) (p n : Nat) : List Byte :=
  let q := savePlace slot p
  let k := min n (0x80000 - q)
  cellsRead c.bytes (saveArea + q) k ++ cellsRead c.bytes saveArea (n - k)

/-- The Caddy word of byte p of a save. -/
def saveWord (slot : BitVec 2) (p : Nat) : Nat := (saveArea + savePlace slot p) / 8

/-- The offsets of the bytes of a persist window; none for one that the context does not own (R30). -/
def Tile.windowAt (x : Tile) (c : CtxNo) (pb pl : Nat) : List (Option Nat) := spOffsets x c pb pl

/-- The words of a window with their offset, where the context owns them: word j of the window. -/
def windowWords (l : List (Option Nat)) : List (Nat × Nat) :=
  (List.range (l.length / 8)).filterMap fun j => (l.getD (8 * j) none).map fun off => (j, off)

/-- The Peat save of steps 4 to 6 of R396: nothing while the newest save still holds. -/
def Tile.save (x : Tile) : Tile :=
  if x.peat.valid && !x.peat.dirty then x
  else
    let c := x.regs.ctl
    let slot := x.peat.slot + 1
    let accm := x.mx.written
    let l := x.windowAt c.ctxn c.persb.toNat c.persl.toNat
    let win := l.map fun o => match o with
      | none => 0
      | some off => cellGet x.sp off
    let body := ((bitsOf accm).flatMap fun i => bvBytes 28672 (x.regs.getC (BitVec.ofNat 3 i))) ++
      ((bitsOf c.livev).flatMap fun i => bvBytes 512 (x.regs.getV (BitVec.ofNat 5 i))) ++ win
    let base := saveWindow accm c.livev
    let all := (List.range (body.length / 8)).map fun j => saveWord slot (8 * j)
    let tagged (f : Nat → Bool) : List Nat := ((windowWords l).filter fun w => f w.2).map fun w => saveWord slot (base + 8 * w.1)
    let put (old : List Nat) (f : Nat → Bool) : List Nat := (tagged f).foldl numPut (old.filter fun w => !all.contains w)
    let pages := ((List.range ((body.length + 4095) / 4096)).map fun j => (saveArea + savePlace slot (4096 * j)) / 4096)
    let cd := pages.foldl (fun c p => c.wearPage (c.physPage p)) (x.caddy.savePut slot 0 body)
    { x with
      caddy := { cd with
        empties := put cd.empties fun off => !x.tagFull off
        poisoned := put cd.poisoned fun off => numIn x.poison (off / 8) }
      peat := { x.peat with
        valid := true, dirty := false, slot := slot, epoch := x.peat.epoch + 1, accm := accm, vm := c.livev
        pb := c.persb, pl := c.persl } }

/-- The parked requests of a tile dropped, those of its engines too; what they stopped is issued again (R396). -/
def State.dropAllParked (s : State) (t : TileIx) : State :=
  (s.modDie (dieOf t) fun d => { d with parked := d.parked.filter fun p => p.tile != t }).modTile t fun x =>
    { x with
      eng := x.eng.map fun q => { q with cmds := q.cmds.map fun c => { c with parked := false } }
      mupd := x.mupd.map fun m => { m with parked := false } }

/-- The matrix work of a tile as a save records it (R246, R248). -/
def Tile.recordWork (x : Tile) : Tile :=
  let y := x.recorded
  { y with mx := { y.mx with ops := y.mx.ops.map (·.again) } }

/-- The persist window of the task on a tile has bytes in a segment of its context that is being zeroed: its bytes are read
behind that (R89). -/
def Tile.windowZeroing (x : Tile) : Bool :=
  (List.range 32).any fun i =>
    let g := BitVec.ofNat 5 i
    (x.seg g).zeroing && (x.seg g).owner == some x.regs.ctl.ctxn && x.windowMeets g

/-- `CKPT` saves once no matrix instruction in flight can go on; then the accesses that were dropped are issued again, and the
epoch is written (R248, R403). -/
def execCkpt (d : SReg) (s : State) : Out :=
  if s.mxGoing s.cur || s.t.windowZeroing then s.hold
  else
    let s1 := s.modDie (dieOf s.cur) fun x =>
      { x with parked := x.parked.filter fun p => !(p.tile == s.cur && (match p.kind with
        | .matrix _ => true
        | _ => false)) }
    let s2 := (s1.modT fun x => x.recordWork.save).mxReissue s.cur
    .next (s2.wrS d (s2.t.peat.epoch.zeroExtend 64))

/-- The matrix work that must end before a save: the older of two `MMA`s, and a drain, where they can go on (R248). -/
def State.workBefore (s : State) (t : TileIx) : Bool :=
  let x := s.tile t
  (decide (1 < x.mmas.length) && x.mmas.head?.any fun m => !s.mxStands t m) ||
    x.mx.ops.any fun m => m.isDrain && !s.mxStands t m

/-- The record of a task that a tile has taken and that has issued no bundle: a save leaves it out (R395, R420). A gang has
started as a whole. -/
def Running.unstarted (r : Running) : Option Queued :=
  if r.record.gm then none else r.fresh.orElse fun _ => r.restoring

/-- A tile with a task that is to be saved at a warning, and is not yet (R395, R396). -/
def Tile.toSave (x : Tile) : Bool := (x.run.any fun r => r.unstarted.isNone) && !x.peat.held && !x.peat.saved

/-- PEAT_SAVE: after a warning or a power-off command, a tile that holds a task saves it (R395, R396). -/
def execPeatSave (t : TileIx) (s : State) : Out :=
  let x := s.tile t
  .next <|
    if s.phase != .warned || !x.toSave || x.power.st != .on || s.workBefore t || x.windowZeroing then s
    else ((s.dropAllParked t).drain t).modTile t fun x =>
      let y := x.recordWork.save
      { y with peat := { y.peat with saved := true } }

/-! ### The loss (R395, R398, R409) -/

/-- Issue stops everywhere, and every tile that holds a task is to save it (R395, R396). -/
def State.warn (s : State) : State :=
  { s with phase := .warned, tiles := s.tiles.map fun x => { x with peat := { x.peat with saved := false } } }

/-- POWER_FAIL_WARNING (R395). -/
def execPowerFailWarning (s : State) : Out := .next (if s.phase == .up then s.warn else s)

/-- A power-off command of the host (R395, R409). -/
def State.powerOff (s : State) (c : PowerCmd) : State :=
  if s.phase == .up then { s.warn with port := { s.port with pwrcmd := some c } } else s

/-- PWRCMD_WARM_OFF (R409). -/
def execPwrcmdWarmOff (s : State) : Out := .next (s.powerOff .warm)
/-- PWRCMD_COLD_OFF (R409). -/
def execPwrcmdColdOff (s : State) : Out := .next (s.powerOff .cold)

/-- Every write that a tile sees on its way performed (R398). -/
def State.drainAll (s : State) (t : TileIx) : State :=
  let l := (s.tile t).wbuf.filter (·.ctl)
  l.foldl (fun s w => s.performWrite t w) ((s.drain t).modTile t fun x => { x with wbuf := [] })

/-- A tile whose task the Peat flip-flops hold while power is away. A save that has not completed leaves DIRTY set (R396,
R401). -/
def Tile.powerDown (x : Tile) : Tile :=
  let lost := x.run.isSome && !x.peat.saved && (x.peat.dirty || !x.peat.valid)
  { x with peat := { x.peat with held := x.run.isSome, dirty := x.peat.dirty || lost, valid := x.peat.valid && !lost } }

/-- The collectives that have started when power goes end with LINK, since their other parties are not saved (R400). -/
def State.cutCollectives (s : State) : State :=
  let l := allTiles.flatMap fun t => (s.tile t).collectives.map fun c => (t, c)
  s.endMembers 11 l.length l

/-- The record of a task that has issued no bundle is back in its queue (R420). -/
def State.putBack (s : State) (t : TileIx) : State :=
  match (s.tile t).run with
  | none => s
  | some r => match r.unstarted with
    | none => s
    | some q => ((s.modCluster r.home fun k => { k with queue := k.queue ++ [q] }).dropParked t).modTile t (·.vacate)

/-- The module may lose power in an orderly way: every save is made, every message of the fabric has been delivered, and no
retraining window is open (R398, R415). -/
def State.quiesced (s : State) : Bool :=
  s.phase == .warned && (s.tiles.all fun x => !x.toSave) && s.spawns.isEmpty && s.ends.isEmpty && s.kills.isEmpty &&
    s.port.windows.isEmpty

/-- MODULE_POWER_DOWN: after the saves every message of the fabric has been delivered and no retraining window is open, so power
goes, with or without the board keeping LPDDR-6; a power-off command decides that itself (R398, R399, R415). -/
def execModulePowerDown (retained : Bool) (s : State) : Out :=
  .next <|
    if !s.quiesced then s
    else
      let kept := match s.port.pwrcmd with
        | some .warm => true
        | some .cold => false
        | none => retained
      let s1 := allTiles.foldl State.drainAll (allTiles.foldl State.putBack s.cutCollectives)
      { s1 with phase := .down kept, tiles := s1.tiles.map (·.powerDown), port := { s1.port with pwrcmd := none } }

/-! ### The start (R370, R371, R399, R408, R411, R412) -/

/-- The lines of a tile's open transaction settled: a COMMIT past its switch is completed, else the transaction is rolled
back (R408). -/
def Tile.settleMupd (x : Tile) (t : TileIx) : Tile :=
  match x.caddy.txn with
  | none => x
  | some y =>
    if x.mupd.any (·.switched) then
      { x with
        caddy := x.caddy.finishCommit t
        mupd := x.mupd.map fun m => if m.switched then
          { m with result := some (mupdDone 0 (x.caddy.region y.region).version.toNat) } else m }
    else
      { x with
        caddy := x.caddy.rollback
        mupd := x.mupd.map fun m => if m.result.isSome then m else match m.instr with
          | .mupdWrite .. => { m with result := some (mupdDone 25 0) }
          | .mupdCommit .. => { m with result := some (mupdDone 25 0) }
          | _ => m }

/-- A scratchpad address lies in the saved window of tile t (R401). -/
def Tile.savedAt (x : Tile) (t : TileIx) (a : Word) (n : Nat) : Bool :=
  spHome t a.toNat == some t && x.peat.valid &&
    decide (x.peat.pb.toNat ≤ a.toNat % 2 ^ 21) && decide (a.toNat % 2 ^ 21 + n ≤ x.peat.pb.toNat + x.peat.pl.toNat)

/-- The scratchpad places a started command writes (R400). -/
def EngCmd.spTargets (t : TileIx) (c : EngCmd) : List (Word × Nat) :=
  match c.instr with
  | .gath .. => (List.range (rowCount c.s1)).map fun j => (rowAt c.da j, 1024)
  | .gathList .. => (List.range (rowCount c.s1)).map fun j => (rowAt c.da j, 1024)
  | _ => if dSpace c.da != 0 then [] else (copyTargets c.da c.db).flatMap fun e => (c.homes t).map fun f => (f e.1, e.2)

/-- A command after a loss: a started collective or peer copy ends with LINK, and one whose destination lies partly in lost
scratchpad starts again from element 0 (R400). -/
def EngCmd.afterLoss (c : EngCmd) (x : Tile) (t : TileIx) : EngCmd :=
  if !c.started then c
  else match c.instr with
    | .coll .. => { c with result := some (engCode 11) }
    | .cpyPeer .. => { c with result := some (engCode 11) }
    | _ =>
      if (isCopy c.instr || (match c.instr with
          | .gath .. => true
          | .gathList .. => true
          | _ => false)) && (c.spTargets t).any fun e => !x.savedAt t e.1 e.2 then
        { c with reached := 0, result := none, buf := none, scaled := 0, kv := c.kv.map fun r => ⟨r.ps, none, 0, 0, none, r.kept⟩ }
      else { c with buf := none }

/-- The places a command has still to read. -/
def EngCmd.unread (c : EngCmd) : List (Word × Nat) :=
  if c.result.isSome || c.cancelled || dSpace c.db != 0 then []
  else if c.kv.isSome && (match c.instr with
    | .kvput .. => false
    | _ => true) then []
  else match c.instr with
    | .kvput .. => ((List.range (rowCount c.s1)).drop c.reached).map fun j => (rowAt c.db j, 1008)
    | .gathList .. => (List.range (rowCount c.s1)).map fun j => (dAt c.db j, 4)
    | .gath .. => []
    | .kvalloc .. => []
    | .kvgrow .. => []
    | .kvfree .. => []
    | _ => ((List.range (dTotal c.db)).drop c.reached).map fun k => (dAt c.db k, (dBits c.db + 7) / 8)

/-- A tile at a warm start: in OFF, everything volatile gone (R31, R90, R412). -/
def Tile.warmStart (x : Tile) (t : TileIx) : Tile :=
  let y := x.settleMupd t
  { y with
    regs := { x.regs with v := .replicate 32 0, c := .replicate 8 0 }
    mx := { x.mx with
      w := x.mx.w.map fun w => { w with elems := 0, scales := 0 }
      st := x.mx.st.map fun w => { w with elems := 0, scales := 0 }, gated := 0, waking := 0 }
    sp := [], empties := [], poison := [], segs := x.segs.map fun g => { g with zeroing := false }
    eng := x.eng.map fun q => { q with cmds := q.cmds.map fun c => EngCmd.afterLoss { c with parked := false } x t }
    l1 := [], ic := [], tlb := [], pending := [], late := [], units := .replicate 7 0, issue := .idle
    power := { st := .off, idle := .none, idleNs := 0, prewarmed := false, waking := none, ballast := 0 } }

/-- An engine queue at a cold start: its commands are gone, and its counts go on (R28, R399). -/
def EngQueue.coldStart (q : EngQueue) : EngQueue := { EngQueue.reset with last := q.last, timeline := q.timeline }

/-- A tile at a cold start: its Caddy, the rotation of its saves, and the registers that the tile itself holds in Peat, `CYC`
and the timelines, survive (R26, R28, R31, R394, R399). -/
def Tile.coldStart (x : Tile) (t : TileIx) : Tile :=
  { Tile.reset with
    caddy := (x.settleMupd t).caddy, peat := { Peat.reset with slot := x.peat.slot, epoch := x.peat.epoch }
    cyc := x.cyc, eng := x.eng.map (·.coldStart) }

/-- The rails of the fabric and memory-port islands of a die raised to their voltages (R12, R411). -/
def State.raiseIslands (s : State) (d : DieIx) : State :=
  let f := s.islandMv d (fabricDom d)
  let p := s.islandMv d (portDom d)
  s.modDie d fun x => { x with fabric := ⟨f, f⟩, port := ⟨p, p⟩ }

/-- The rails of a cluster at the minimum point with the cold table (R411). -/
def State.minimumPoint (s : State) (cl : ClusterIx) : State :=
  let s1 := s.modPower cl fun _ => Cluster.reset.power
  s1.modPower cl fun k => { k with rail := ⟨s1.volts cl .minimum, s1.volts cl .minimum⟩ }

/-- What a warm start keeps (R399). -/
def State.warmStart (s : State) : State :=
  { s with
    tiles := Vector.ofFn fun i : Fin 256 => (s.tiles[i]).warmStart (BitVec.ofNat 8 i.val)
    clusters := s.clusters.map fun k => { k with tlb := [], wbuf := [] }
    dies := s.dies.map fun d => { d with parked := [], cache := [], wbuf := [] } }

/-- The completion entries of a context that the host has not consumed are lost from its ring (R365, R420). -/
def State.loseCompletions (s : State) (c : CtxNo) : State :=
  let x := s.ctx c
  let n := 2 ^ x.cqlog.toNat
  let left := min n (BitVec.ofNat 16 x.completions - x.cqhead).toNat
  (List.range left).foldl (fun s k =>
    { s with host := cellsErase s.host (x.cqbase.toNat * 32 + 32 * ((x.completions - 1 - k) % n)) 32 }) s

/-- What a cold start keeps: Caddies and region entries, wear, measurement registers and firmware, and the raises of the voltage
tables; of the completion entries those the host has consumed (R399, R416, R420). -/
def State.coldStart (s0 : State) : State :=
  let s := ((List.range 128).map (BitVec.ofNat 7)).foldl State.loseCompletions s0
  { s with
    tiles := Vector.ofFn fun i : Fin 256 => (s.tiles[i]).coldStart (BitVec.ofNat 8 i.val)
    clusters := State.reset.clusters, ctxs := State.reset.ctxs, gm := [], gmPoison := [], frames := []
    dies := s.dies.map fun d => { Die.reset with cold := d.cold, chilled := d.chilled }
    spawns := [], ends := [], kills := []
    port := { Port.reset with
      fw := s.port.fw, cfg := s.port.cfg, fwVersion := s.port.fwVersion, age := s.port.age, lifts := s.port.lifts } }

/-- A measurement register extended with a digest (R371). -/
def extendReg (r digest : BitVec 256) : BitVec 256 := Config.sm3 ((bvBytes 32 r ++ bvBytes 32 digest).map (·.toNat))

/-- A firmware image as the ROM finds it: its digest, its version, and the public key and the signature beside it (R370). -/
structure Firmware where
  digest : BitVec 256
  version : BitVec 32
  key : BitVec 512
  signature : BitVec 512

/-- The ROM accepts an image: the key is the fused one, the signature verifies, and the version is not rolled back (R370). -/
def Firmware.accepted (f : Firmware) : Bool :=
  Config.sm3 ((bvBytes 64 f.key).map (·.toNat)) == Config.fusedKey && Config.verifies f.key f.digest f.signature &&
    decide (Config.rollback.toNat ≤ f.version.toNat)

/-- The image that is found at a start: which one is not fixed. -/
def State.findImage (s : State) : Firmware × State :=
  let d := s.choose (2 ^ 256)
  let v := d.2.choose (2 ^ 32)
  let k := v.2.choose (2 ^ 512)
  let g := k.2.choose (2 ^ 512)
  (⟨BitVec.ofNat 256 d.1, BitVec.ofNat 32 v.1, BitVec.ofNat 512 k.1, BitVec.ofNat 512 g.1⟩, g.2)

/-- A value of the module configuration within its range, which is not fixed. -/
def State.chooseIn (s : State) (lo hi : Nat) : Nat × State :=
  let c := s.choose (hi + 1 - lo)
  (lo + c.1, c.2)

/-- CFG extended with the digest of each of n configuration sets (R371). -/
def State.extendCfg : Nat → State → State
  | 0, s => s
  | n + 1, s =>
    let k := s.choose (2 ^ 256)
    State.extendCfg n { k.2 with port := { k.2.port with cfg := extendReg k.2.port.cfg (BitVec.ofNat 256 k.1) } }

/-- The scheduler settings of a cluster set from the module configuration, each within its range (R274). -/
def State.configureCluster (s : State) (cl : ClusterIx) : State :=
  let a := s.chooseIn 10000 1000000
  let b := a.2.chooseIn 500 100000
  let c := b.2.chooseIn 1000 1000000
  c.2.modCluster cl fun k =>
    { k with agingNs := a.1, stealNs := b.1, reserveNs := c.1, queue := k.queue.map (·.age a.1) }

/-- The settings firmware makes at boot from the module configuration, which is not fixed: the number of configuration sets, the
scheduler settings, the reclaim threshold, the idle interval (up to never), the pre-warm hold, and the system-call entry
(R274, R330, R371, R385). -/
def State.configure (s : State) : State :=
  let n := s.choose (2 ^ 32)
  let s1 := allClusters.foldl State.configureCluster (n.2.extendCfg n.1)
  let r := s1.chooseIn 1 64
  let i := r.2.choose (2 ^ 64)
  let p := i.2.chooseIn 10000 1000000
  let e := p.2.choose (2 ^ 47)
  { e.2 with settings :=
    { reclaim := r.1, idleNs := if i.1 = 0 then none else some (i.1 + 9999), prewarmNs := p.1
      syscEntry := BitVec.ofNat 48 (2 * e.1) } }

/-- The boot of Dyinusk: a firmware image is accepted or rejected, the measurement registers are extended, the settings are
made, HOST and FWOK or FWREJ are set, and the rails are raised: those of the islands of the dies, then those of the clusters at the
minimum point (R370, R371, R411). -/
def State.boot (s : State) (warm : Bool) (loss : Word) : State :=
  let f := s.findImage
  let ok := f.1.accepted
  let bits : Word := if ok then (if warm then 7 else 3) else (if warm then 21 else 17)
  let p := f.2.port
  let s1 := { f.2 with phase := .up, port := { p with ready0 := bits, ready1 := 0, loss := loss, windows := [] } }
  if ok then
    let s2 := { s1 with port := { s1.port with fw := extendReg p.fw f.1.digest, fwVersion := f.1.version } }
    allClusters.foldl State.minimumPoint (allDies.foldl State.raiseIslands s2.configure)
  else s1

/-- LOSS at a start: its kind and the tiles saved (R409). -/
def State.lossWord (s : State) (kind : Word) : Word :=
  kind ||| (BitVec.ofNat 64 (s.tiles.toList.filter fun x => x.peat.saved).length) <<< (16 : Nat)

/-- POWER_RESTORE: power returns and the module starts warm or cold; in the state after reset it is the first start that
boots (R399, R411). -/
def execPowerRestore (s : State) : Out :=
  .next <|
    match s.phase with
    | .down true => s.warmStart.boot true (s.lossWord 1)
    | .down false => s.coldStart.boot false (s.lossWord 2)
    | .up => if s.port.ready0 == 0 then s.boot false 0 else s
    | .warned => s

/-! ### Readiness (R409 to R413) -/

/-- Firmware has been accepted at this start (R370). -/
def State.booted (s : State) : Bool := s.phase == .up && s.port.ready0.getLsbD 1

/-- A bit of READY0 set (R409). -/
def State.setReady0 (s : State) (i : Nat) : State := { s with port := { s.port with ready0 := s.port.ready0 ||| (1#64 <<< i) } }
/-- A bit of READY1 set (R409). -/
def State.setReady1 (s : State) (i : Nat) : State := { s with port := { s.port with ready1 := s.port.ready1 ||| (1#64 <<< i) } }

/-- The temperature of the last training of a channel, in the high half of its RETRAIN word (R415). -/
def State.setTrained (s : State) (ch : BitVec 5) (temp : BitVec 16) (n : BitVec 32) : State :=
  { s with port := { s.port with retrain := s.port.retrain.set ch.toNat (0#16 ++ temp ++ n : BitVec 64) ch.isLt } }

/-- The retrainings of a channel (R415). -/
def State.trainings (s : State) (ch : BitVec 5) : BitVec 32 := (s.port.retrain[ch.toNat]'ch.isLt).extractLsb' 0 32

/-- CHANNEL_TRAINED: the CHAN bit of a channel, trained at a temperature that is not fixed here (R411, R415). -/
def execChannelTrained (ch : BitVec 5) (s : State) : Out :=
  .next <|
    if !s.booted then s
    else
      let k := s.choose 65536
      (k.2.setTrained ch (BitVec.ofNat 16 k.1) (s.trainings ch)).setReady1 (32 + ch.toNat)

/-- A channel of a die is trained (R410). -/
def State.channelUp (s : State) (d : DieIx) : Bool := (List.range 8).any fun i => s.port.ready1.getLsbD (32 + 8 * d.toNat + i)

/-- CLUSTER_READY: with its rails at the voltage of its point and a trained channel on its die, the Caddy read and die cache
of the die and then the cluster are ready; its system tile wakes, and the records in its queue are offered. A warm start that holds
no task is then resumed (R15, R410 to R412). -/
def execClusterReady (cl : ClusterIx) (s : State) : Out :=
  let d := dieOfCluster cl
  .next <|
    if s.booted && s.channelUp d && s.railsReach cl (s.cluster cl).power.point then
      let s1 := ((s.setReady0 (8 + d.toNat)).setReady0 (16 + d.toNat)).setReady1 cl.toNat
      let s2 := if cl == systemCluster d then s1.wake (systemTile d) false else s1
      (s2.offerAll cl).checkResumed
    else s

/-- CDWR_READY: Caddy writes are ready on a die, once every sensor of it has read -20 °C or above (R413). -/
def execCdwrReady (die : DieIx) (s : State) : Out :=
  .next (if s.booted && !(s.die die).chilled then s.setReady0 (12 + die.toNat) else s)

/-- YALTAN_LINK_READY: the LINK bit of a link (R409, R410). -/
def execYaltanLinkReady (l : BitVec 3) (s : State) : Out := .next (if s.booted then s.setReady0 (20 + l.toNat) else s)

/-! ### The resume (R400, R401) -/

/-- The source bytes of a latch or of rows of an operand that the resume must read again. -/
def opPlaces (d : Desc) (ss : Word) (from' n : Nat) : List (Word × Nat) :=
  ((List.range n).drop from').flatMap fun j => rowElems d ss j ++ rowScales d ss j

/-- Every scratchpad byte of some places lies in the saved window. -/
def Tile.kept (x : Tile) (t : TileIx) (d : Desc) (l : List (Word × Nat)) : Bool :=
  dSpace d != 0 || l.all fun e => x.savedAt t e.1 e.2

/-- The source of the reload of latch i survives, at the version it was loaded from (R401). A load that had not completed has
recorded no version. -/
def State.latchKept (s : State) (t : TileIx) (i : Fin 2) : Bool :=
  let x := s.tile t
  let w := x.mx.w[i]
  let loading := x.mx.ops.any fun m => match m.kind with
    | .mldw l .. => l.toNat == i.val
    | _ => false
  if !w.full then true
  else if dSpace w.desc == 2 then
    let r := x.caddy.regionAt (dAddr w.desc 0 (ssRow0 w.ss) 0 0).toNat
    loading || r.all fun r => r.version == x.peat.lver[i]
  else x.kept t w.desc (loadBytes w.desc w.ss)

/-- The source of the reload of Steep slot i is at the version it was loaded from (R401). -/
def State.slotKept (s : State) (t : TileIx) (i : Fin 4) : Bool :=
  let x := s.tile t
  let w := x.mx.st[i]
  let loading := x.mx.ops.any fun m => match m.kind with
    | .steepld _ ms => ms.getLsbD i.val
    | _ => false
  !w.valid || loading || (x.caddy.regionAt w.src.toNat).all fun r => r.version == x.peat.sver[i]

/-- The grants of the reloads that a resume makes from the Caddy hold (R362, R401). -/
def State.grantsHold (s : State) (t : TileIx) : Bool :=
  let x := s.tile t
  let ok (a n : Nat) : Bool := match s.cdCheck t (s.ctxOn t) a n with
    | .denied _ | .prot _ => false
    | _ => true
  (x.mx.w.toList.all fun w => !w.full || dSpace w.desc != 2 || (loadBytes w.desc w.ss).all fun e => ok e.1.toNat e.2) &&
  x.mx.st.toList.all fun w => !w.valid || ok w.src.toNat (mfImageBytes w.fmt)

/-- The task a tile holds can resume (R401). -/
def State.resumable (s : State) (t : TileIx) : Bool :=
  let x := s.tile t
  !x.peat.dirty && ((List.finRange 2).all (s.latchKept t)) && ((List.finRange 4).all (s.slotKept t)) &&
  ((x.mx.ops ++ x.mx.stopped).all fun m => !m.isMma || x.kept t m.desc (opPlaces m.desc m.ss m.done m.count)) &&
  x.eng.toList.all fun q => q.cmds.all fun c => c.unread.all fun e => x.savedAt t e.1 e.2

/-- The volatile state of a task from the newest save: accumulator tiles, vectors and the window with its tags; the rest of the
scratchpad reads zero with its tags full (R90, R400). -/
def Tile.restoreSave (x0 : Tile) : Tile :=
  let x := x0.clearSp
  let p := x.peat
  if !p.valid then x
  else
    let rank {n : Nat} (m : BitVec n) (i : Nat) : Nat := ((bitsOf m).filter fun j => decide (j < i)).length
    let base := saveWindow p.accm p.vm
    let l := x.windowAt x.regs.ctl.ctxn p.pb.toNat p.pl.toNat
    let ws := windowWords l
    let bs := x.caddy.saveGet p.slot base l.length
    let marked (f : List Nat) : List Nat := (ws.filter fun w => numIn f (saveWord p.slot (base + 8 * w.1))).map fun w => w.2 / 8
    { x with
      regs := { x.regs with
        c := Vector.ofFn fun i : Fin 8 => if p.accm.getLsbD i.val then
          BitVec.ofNat 229376 (leNat (x.caddy.saveGet p.slot (28672 * rank p.accm i.val) 28672)) else 0
        v := Vector.ofFn fun i : Fin 32 => if p.vm.getLsbD i.val then
          BitVec.ofNat 4096 (leNat (x.caddy.saveGet p.slot (28672 * (bitsOf p.accm).length + 512 * rank p.vm i.val) 512)) else 0 }
      sp := (l.zip bs).foldl (fun m q => match q.1 with
        | none => m
        | some off => cellSet m off q.2) x.sp
      empties := (marked x.caddy.empties).foldl numPut x.empties
      poison := (marked x.caddy.poisoned).foldl numPut x.poison }

/-- The matrix work a resume goes on with: the slots, then the latches from their records, then the interrupted `MMA` and a
drain to be redone (R248, R400). -/
def Tile.resumeWork (x : Tile) : List MxOp :=
  reloads x.mx.st x.mx.w ++ x.mx.ops.filter fun m => match m.kind with
    | .mma .. => true
    | .mdrain .. => true
    | _ => false

/-- TILE_RESUME: the resume helper restores a tile whose Peat flip-flops hold a task, or the task ends with RESUME_LOST (R400,
R401). Where a grant was revoked, R401 ends the task with RESUME_LOST and R362 with CADDY_DENIED at its first bundle: which
of the two is not fixed (log entry 74). -/
def execTileResume (t : TileIx) (s : State) : Out :=
  let x := s.tile t
  .next <|
    if !s.booted || !s.port.ready1.getLsbD (clusterOf t).toNat || !x.peat.held then s
    else
      let s1 := { s.modTile t fun x =>
        { x with
          peat := { x.peat with held := false, saved := false }, first := true
          wait := x.wait.map fun w => { w with arrived := s.nextOrder }
          power := { st := .on, idle := .none, idleNs := 0, prewarmed := false, waking := none, ballast := 0 } } with
        nextOrder := s.nextOrder + 1 }
      let ch := if s.grantsHold t then (1, s1) else s1.choose 2
      if s.resumable t && ch.1 == 1 then
        ((ch.2.modTile t fun x => { x.restoreSave with mx := { x.mx with ops := x.resumeWork } }).checkReloads t).checkResumed
      else
        let s2 := { ch.2 with
          freeCount := ch.2.freeCount + 1
          port := { s1.port with loss := s1.port.loss + (1#64 <<< (32 : Nat)) } }
        (s2.takeTrap t
          { cause := causeResumeLost, sub := 0, slot := 8, replay := false, step := false, addr := ch.2.openAddr
            pc := x.regs.pc.zeroExtend 64 }).checkResumed

/-! ### Retraining and the patrol (R406, R415, R417) -/

/-- RETRAIN_WINDOW_START: at most one channel of a die is in a window (R415). -/
def execRetrainWindowStart (ch : BitVec 5) (s : State) : Out :=
  .next (if s.booted && s.port.ready1.getLsbD (32 + ch.toNat) && s.port.windows.all fun c => c.extractLsb' 3 2 != ch.extractLsb' 3 2 then
    { s with port := { s.port with windows := ch :: s.port.windows } } else s)

/-- RETRAIN_WINDOW_END: the RETRAIN word of the channel counts the training and holds its temperature (R415). -/
def execRetrainWindowEnd (ch : BitVec 5) (temp : BitVec 16) (s : State) : Out :=
  .next (if s.fabricUp && s.port.windows.contains ch then
    { s with port := { s.port with windows := s.port.windows.filter (· != ch) } }.setTrained ch temp (s.trainings ch + 1)
  else s)

/-- The logical line of a physical one, if a page of the address space lies there. -/
def Caddy.logicalLine (c : Caddy) (l : Nat) : Option Nat :=
  ((((c.pageMap.find? fun p => p.2 == l / 64).map (·.1)).orElse fun _ =>
    if l / 64 < 6144 && (assocGet c.pageMap (l / 64)).isNone then some (l / 64) else none)).map fun p => 64 * p + l % 64

/-- The data of a line are lost: its region is DAMAGED, and its measurement shows it (R393, R417). -/
def Caddy.loseLine (c : Caddy) (t : TileIx) (l : Nat) : Caddy :=
  match c.logicalLine l with
  | none => c
  | some k =>
    { c with regions := c.regions.map fun r =>
        if r.valid && decide (1024 * r.base.toNat ≤ k) && decide (k < 1024 * (r.base.toNat + r.len.toNat)) then
          let r1 := { r with damaged := true, lost := numPut r.lost k }
          { r1 with measure := c.digest t r1, measured := r1.version }
        else r }

/-- Thirty days in ns (R417). -/
def thirtyDays : Nat := 2592000000000000

/-- A line read with corrected bits at a time: rewritten in place, or moved to a spare when that is the second time within 30
days; a rewrite that fails verification with no spare left loses the line (R406, R417). -/
def Caddy.rewriteLine (c : Caddy) (t : TileIx) (l now : Nat) : Caddy :=
  let again := match assocGet c.rewritten l with
    | none => false
    | some u => decide (now ≤ u + thirtyDays)
  if again && c.spares != 0 then { c.spare l with rewritten := assocDel c.rewritten l }
  else match (c.wearPage (l / 64)).verify l with
    | none => c.loseLine t l
    | some (c1, _) => { c1 with rewritten := assocSet c1.rewritten l now }

/-- CADDY_PATROL: a line read with corrected bits, or one that has been lost (R393, R417). Before Caddy writes are ready on the die
no line is written (R413). -/
def execCaddyPatrol (t : TileIx) (line : BitVec 19) (lost : Bool) (s : State) : Out :=
  let l := line.toNat
  let write := s.port.ready0.getLsbD (12 + (dieOf t).toNat)
  .next (if s.phase == .up then s.modTile t fun x => x.modCaddy fun c =>
    if lost then (let c1 := c.loseLine t l; if write then c1.spare l else c1)
    else if write then c.rewriteLine t l s.time.toNat else c
  else s)

end Sys2Proof.Machine
end

