-- ==== Sys2Proof/Machine/Host.lean ====
section
/-! DEFINITION. The host and the peers: launches from the submission queue, the registers of the host port, apertures, peer
writes and attestation (R365 to R372, R409). -/

namespace Sys2Proof.Machine

/-! ### Launches (R15, R255, R365 to R368) -/

/-- The records of a context's queue: 2^SQLOG (R354). -/
def Context.sqSize (x : Context) : Nat := 2 ^ x.sqlog.toNat

/-- A notify of value n (R366). Of a context that is not ACTIVE nothing becomes pending (R352). -/
def State.notify (s : State) (c : CtxNo) (n : BitVec 16) : State :=
  let x := s.ctx c
  let k := (n + 1 - x.sqhead).toNat
  if x.sqSize < k then s.modCtx c fun x => { x with nrange := true }
  else if k ≤ x.pendingTo || x.st != .active then s
  else s.modCtx c fun x => { x with pendingTo := k }

/-- NOTIFY (R366). -/
def execNotify (x : CtxNo) (n : BitVec 16) (s : State) : Out := .next (s.notify x n)

/-- CQHEAD: the host has consumed completion entries (R365). -/
def execCqhead (x : CtxNo) (n : BitVec 16) (s : State) : Out := .next (s.modCtx x fun y => { y with cqhead := n })

/-- The completion ring has a free entry for every launch in flight and one more (R366). -/
def Context.ringFree (x : Context) : Bool :=
  decide ((BitVec.ofNat 16 x.completions - x.cqhead).toNat + x.launches.length < 2 ^ x.cqlog.toNat)

/-- The next record of a context's stream: its 16 words, in host memory (R354, R366). -/
def State.launchRecord (s : State) (c : CtxNo) : Vector Word 16 :=
  let x := s.ctx c
  let a := 128 * x.sqbase.toNat + 128 * (x.sqhead.toNat % x.sqSize)
  Vector.ofFn fun i : Fin 16 => BitVec.ofNat 64 (leNat (cellsRead s.host (a + 8 * i.val) 8))

/-- The head of a context's stream advances past a record. -/
def State.sqAdvance (s : State) (c : CtxNo) : State :=
  s.modCtx c fun x => { x with sqhead := x.sqhead + 1, pendingTo := x.pendingTo - 1, refetches := 0 }

/-- A launch that runs nothing completes with a code; its launch join has counted nothing (R255, R366 to R368). -/
def State.launchFails (s : State) (c : CtxNo) (code : BitVec 8) (user : Word) : State :=
  (s.complete c (s.ctx c).sqhead code 0 user).sqAdvance c

/-- The status code of a refused record (R255, R368). -/
def launchCode (cause : BitVec 8) : BitVec 8 :=
  if cause == causeReservedField then 7 else if cause == causeMisalign then 8 else if cause == causePriv then 9 else 6

/-- A reserved bit of a launch record is set, beyond those of a spawn (R367). -/
def launchReserved (w : Vector Word 16) : Bool :=
  w[0].extractLsb' 48 16 != 0 || w[2] != 0 || w[8] != 0 || w[9] != 0 || w[10] != 0 || w[11] != 0 || w[12] != 0 || w[13] != 0 ||
    w[15].extractLsb' 16 48 != 0

/-- The clusters that may take the first task of a launch and are marked ready: the named one, or any (R15, R256). -/
def State.launchClusters (s : State) (w1 : Word) : List ClusterIx :=
  (if imgAffk w1 == 0 then allClusters else [imgAffc w1]).filter fun c => s.port.ready1.getLsbD c.toNat

/-- A record with a matching stamp becomes a launch with its first task, or completes with the cause that refuses it. Which
ready cluster a first task without affinity goes to is not fixed; with no ready cluster the record waits (R15, R255, R256,
R367). -/
def State.launch (s : State) (c : CtxNo) (w : Vector Word 16) : State :=
  let defect := if launchReserved w then some (causeReservedField, w[1]) else imgDefect (imgAffc w[1]) c w[0] w[1]
  match defect with
  | some (cause, _) => s.launchFails c (launchCode cause) w[14]
  | none =>
    match s.launchClusters w[1] with
    | [] => s
    | k :: l =>
      let ch := s.choose (l.length + 1)
      let target := (k :: l).getD ch.1 k
      let x := s.ctx c
      let img : Vector Word 8 := Vector.ofFn fun i : Fin 8 => if i.val = 2 then f32One.zeroExtend 64 <<< (32 : Nat) else w[i.val]
      let r := imgRec img c (some ⟨c, x.nextLaunch⟩) s.nextTask
      let launch : Launch :=
        { num := x.nextLaunch, stamp := x.sqhead, user := w[14], live := 1, first := none, firstTask := s.nextTask
          arrived := 0, failed := 0, killed := 0, powerKilled := false, ended := false }
      let s1 := { ch.2 with nextTask := s.nextTask + 1 }.modCtx c fun x =>
        { x with launches := x.launches ++ [launch], nextLaunch := x.nextLaunch + 1 }
      (s1.sqAdvance c).enqueue target r

/-- A record of a context may be fetched: power is good, a record is pending, and the ring and the launch unit have room
(R366, R367). -/
def State.canFetch (s : State) (c : CtxNo) : Bool :=
  let x := s.ctx c
  s.phase == .up && x.pendingTo != 0 && x.ringFree && decide ((s.ctxs.toList.map fun y => y.launches.length).sum < 4096)

/-- The stamp of a fetched record is that of the head (R366). -/
def State.stampOk (s : State) (c : CtxNo) (w : Vector Word 16) : Bool := w[15].extractLsb' 0 16 == (s.ctx c).sqhead

/-- LAUNCH_RECORD_FETCH: the next pending record is fetched. One whose stamp differs is to be fetched again; those of a context
that is ending complete with CONTEXT_ENDED (R352, R366, R367). -/
def execLaunchRecordFetch (x : CtxNo) (s : State) : Out :=
  .next <|
    if !s.canFetch x then s
    else
      let w := s.launchRecord x
      if (s.ctx x).st != .active then s.launchFails x 5 w[14]
      else if (s.ctx x).refetches != 0 then s
      else if s.stampOk x w then s.launch x w
      else s.modCtx x fun y => { y with refetches := 1 }

/-- STAMP_REFETCH: a record whose stamp differed is fetched again; after 16 times it completes with QUEUE_STAMP (R366). -/
def execStampRefetch (x : CtxNo) (s : State) : Out :=
  let k := s.ctx x
  .next <|
    if !s.canFetch x || k.refetches = 0 || k.st != .active then s
    else
      let w := s.launchRecord x
      if s.stampOk x w then s.launch x w
      else if k.refetches = 16 then (s.modCtx x fun y => { y with stampfail := true }).launchFails x 4 w[14]
      else s.modCtx x fun y => { y with refetches := y.refetches + 1 }

/-! ### Accesses from outside (R365, R369) -/

/-- Where the pieces of an access from outside lie: the tables of a context are walked, and nothing parks. A failed translation
or a control page gives none (R365, R369). -/
def State.outsidePlan (s : State) (c : CtxNo) (acc : Acc) (va : BitVec 64) (n : Nat) : Option (List (Bool × Nat × Nat)) :=
  if !canonicalRange va n then none
  else (gPieces (va.extractLsb' 0 48) n).foldr (fun p o => match o, s.walk ((s.ctx c).root.toNat * 4096) p.1 with
    | some l, .leaf e large =>
      if leafAllows e acc && !e.getLsbD 6 then some ((e.getLsbD 5, leafPa e large p.1, p.2) :: l) else none
    | _, _ => none) (some [])

/-- The bytes of a planned access. -/
def State.outsideRead (s : State) (l : List (Bool × Nat × Nat)) : List Byte :=
  l.flatMap fun p => cellsRead (if p.1 then s.host else s.gm) p.2.1 p.2.2

/-- Bytes written at the places of a planned access. -/
def State.outsideWrite : List (Bool × Nat × Nat) → List Byte → State → State
  | [], _, s => s
  | (h, a, n) :: l, bs, s => State.outsideWrite l (bs.drop n) (s.memPut h a ((bs.take n).map .full))

/-- HOST_APERTURE_ACCESS: 8 bytes through an aperture of BAR2, at an offset; `w` holds the value of a write. A failing access
reads as ones or is dropped, and sets bit 8 of the aperture word (R365). -/
def execHostApertureAccess (off : BitVec 36) (w : Option (BitVec 64)) (s : State) : Out :=
  let i : BitVec 6 := off.extractLsb' 30 6
  let a := s.aperture i
  let acc : Acc := if w.isSome then .write else .read
  let plan := if a.valid then s.outsidePlan a.ctx acc (a.base + (off.extractLsb' 0 30).zeroExtend 64) 8 else none
  let answer (s : State) (x : Word) : State := { s with port := { s.port with answer := x } }
  .next <|
    if !s.fabricUp then s
    else match plan, w with
      | none, none => answer (s.modAperture i fun a => { a with err := true }) 0xFFFFFFFFFFFFFFFF
      | none, some _ => s.modAperture i fun a => { a with err := true }
      | some l, none => answer s (BitVec.ofNat 64 (leNat (s.outsideRead l)))
      | some l, some v => State.outsideWrite l (bvBytes 8 v) s

/-- PEER_WRITE_INBOUND: 8 bytes that a peer writes, translated in the context of the same number; a write that fails is dropped
(R369). -/
def execPeerWriteInbound (x : CtxNo) (va w : BitVec 64) (s : State) : Out :=
  .next <|
    if !s.fabricUp then s
    else match s.outsidePlan x .write va 8 with
      | none => s
      | some l => State.outsideWrite l (bvBytes 8 w) s

/-! ### Attestation (R371, R372) -/

/-- The part of a report for a selected region: tile, entry, version and measurement, as they were before a commit that has not
been reported complete, or after it (R371, R372). -/
def reportRegion (t : TileIx) (i : BitVec 4) (r : Region) : List Byte :=
  [t, i.zeroExtend 8] ++ bvBytes 4 r.measured ++ bvBytes 32 r.measure

/-- The fields of a report before its signature (R372). -/
def State.reportBody (s : State) : List Byte :=
  let p := s.port
  [1] ++ bvBytes 32 p.nonce ++ bvBytes 32 Config.identity ++ bvBytes 4 p.fwVersion ++ bvBytes 32 p.fw ++ bvBytes 32 p.cfg ++
    (bitsOf p.select).flatMap fun k =>
      let t := BitVec.ofNat 8 (k / 16)
      let i := BitVec.ofNat 4 k
      reportRegion t i ((s.tile t).caddy.region i)

/-- ATTESTATION_GO: Dyinusk answers with a signed report (R372). -/
def execAttestationGo (s : State) : Out :=
  let b := s.reportBody
  .next (if s.booted then { s with port := { s.port with report := b ++ bvBytes 64 (Config.sign (b.map (·.toNat))) } } else s)

/-! ### Registers without a row of their own (R353, R365, R372, R409) -/

/-- A field of a wide register with word i replaced. -/
def setWord {n : Nat} (x : BitVec n) (i : Nat) (w : Word) : BitVec n :=
  (x &&& ~~~(BitVec.ofNat n ((2 ^ 64 - 1) <<< (64 * i)))) ||| BitVec.ofNat n (w.toNat <<< (64 * i))

/-- A register of a queue page written (R365). -/
def State.writeQueuePage (s : State) (c : CtxNo) (off : Nat) (w : Word) : State :=
  match off with
  | 0 => s.notify c (w.extractLsb' 0 16)
  | 16 => s.modCtx c fun x => { x with cqhead := w.extractLsb' 0 16 }
  | 24 => s.modCtx c fun x => { x with nrange := x.nrange && !w.getLsbD 0, stampfail := x.stampfail && !w.getLsbD 1 }
  | _ => s

/-- A word of BAR0 written: a queue page, the nonce and the mask of the attestation mailbox, or PWRCMD (R365, R372, R409). -/
def State.writeBar0 (s : State) (off : Nat) (w : Word) : State :=
  if off < 0x80000 then s.writeQueuePage (BitVec.ofNat 7 (off / 0x1000)) (off % 0x1000) w
  else if off < 0x80020 then { s with port := { s.port with nonce := setWord s.port.nonce ((off - 0x80000) / 8) w } }
  else if 0x80040 ≤ off && off < 0x80240 then
    { s with port := { s.port with select := setWord s.port.select ((off - 0x80040) / 8) w } }
  else if off == 0x90010 then
    (if w.extractLsb' 0 2 == 1 then s.powerOff .warm else if w.extractLsb' 0 2 == 2 then s.powerOff .cold else s)
  else s

/-- A register of a queue page as it reads (R365). -/
def Context.queuePage (x : Context) (off : Nat) : Word :=
  match off with
  | 8 => x.sqhead.zeroExtend 64
  | 16 => x.cqhead.zeroExtend 64
  | 24 => (0#62 ++ BitVec.ofBool x.stampfail ++ BitVec.ofBool x.nrange : BitVec 64)
  | _ => 0

/-- A register of the service page as it reads (R409). -/
def Port.servicePage (p : Port) (off : Nat) : Word :=
  if off == 0 then p.ready0
  else if off == 8 then p.ready1
  else if off == 0x18 then p.loss
  else if 0x100 ≤ off && off < 0x100 + 8 * 56 then p.age.toList.getD ((off - 0x100) / 8) 0
  else if 0x300 ≤ off && off < 0x300 + 8 * 32 then p.retrain.toList.getD ((off - 0x300) / 8) 0
  else 0

/-- A read of an aligned word of BAR0 by the host: a queue page, the service page, or the mailbox, whose report reads from
0x8_0400 up (R365, R372, R409; log entry 69). -/
def State.readBar0 (s : State) (off : BitVec 20) : State :=
  let o := off.toNat / 8 * 8
  let p := s.port
  let w : Word :=
    if o < 0x80000 then (s.ctx (BitVec.ofNat 7 (o / 0x1000))).queuePage (o % 0x1000)
    else if o < 0x80020 then p.nonce.extractLsb' (64 * ((o - 0x80000) / 8)) 64
    else if 0x80040 ≤ o && o < 0x80240 then p.select.extractLsb' (64 * ((o - 0x80040) / 8)) 64
    else if 0x80400 ≤ o && o < 0x90000 then BitVec.ofNat 64 (leNat ((p.report.drop (o - 0x80400)).take 8))
    else if 0x90000 ≤ o then p.servicePage (o - 0x90000)
    else 0
  if s.fabricUp then { s with port := { p with answer := w } } else s

/-- CONTROL_REGION_WRITE: an aligned word written to the control region, or with bit 20 of the offset to BAR0 (R353, R365). -/
def execControlRegionWrite (off : BitVec 21) (w : BitVec 64) (s : State) : Out :=
  let o := (off.extractLsb' 0 20).toNat / 8 * 8
  .next <|
    if !s.fabricUp then s
    else if off.getLsbD 20 then s.writeBar0 o w
    else if o < 0x40000 then s.ctlWrite o (bvBytes 8 w)
    else s

end Sys2Proof.Machine
end

