-- ==== Sys2Proof/Machine/Atomics.lean ====
section
/-! DEFINITION. Atomics and fences (R107 to R113, R137 to R143). -/

namespace Sys2Proof.Machine

/-! ### The points of execution -/

/-- Writes lie in the line of a physical or host address. -/
def PendingWrite.inLine (w : PendingWrite) (host : Bool) (pa : Nat) : Bool := !w.ctl && w.host == host && w.addr / 64 == pa / 64

/-- The writes to one line that a tile sees on their way, taken out of the lists that hold them: in order, and the state without
them. -/
def State.takeLine (s : State) (t : TileIx) (host : Bool) (pa : Nat) : List PendingWrite × State :=
  let cut (l : List PendingWrite) : List PendingWrite := l.filter fun w => !w.inLine host pa
  ((s.ahead t).filter (·.inLine host pa),
   ((s.modDie (dieOf t) fun x => { x with wbuf := cut x.wbuf }).modCluster (clusterOf t) fun k =>
    { k with wbuf := cut k.wbuf }).modTile t fun x => { x with wbuf := cut x.wbuf })

/-- The writes to one line that a tile sees performed at their home, so that an access there follows them (R108). -/
def State.lineHome (s : State) (t : TileIx) (host : Bool) (pa : Nat) : State :=
  let r := s.takeLine t host pa
  r.1.foldl (fun s w => s.atHome (dieOf t) w) r.2

/-- The writes to one line that a tile sees performed at the cache of its die, which takes the line (R95, R108). -/
def State.lineDie (s : State) (t : TileIx) (pa : Nat) : State :=
  let r := (s.fillDie (dieOf t) pa).takeLine t false pa
  r.2.modDie (dieOf t) fun x => { x with wbuf := x.wbuf ++ r.1 }

/-- A read-modify-write of bytes of a scratchpad at its home: `f` gives the new value of the old one, or none for a read
only. The tags become full either way (R91, R137, R141). A release is performed before a write (R138). -/
def State.rmwSp (s : State) (t : TileIx) (rel : Bool) (h : TileIx) (locs : List (Option Nat)) (f : Nat → Option Nat) :
    State × Nat :=
  let x := s.tile h
  let old := leNat (locs.map fun o => match o with
    | none => 0
    | some off => cellGet x.sp off)
  match f old with
  | some v =>
    let s1 := if rel then s.releaseAt t .cluster else s
    (s1.modTile h fun x => x.spPut locs (leBytes locs.length v), old)
  | none => (s.modTile h fun x => (locs.filterMap id).foldl (fun x off => x.setTag true off) x, old)

/-- The place of a planned access that lies in one line. -/
def placeOf (l : List (BitVec 48 × Nat × GSrc)) : Option GSrc := l.head?.map fun p => p.2.2

/-- The L1 of a tile without a line, and the die's cache too where the access was made at the home (R109, R137). -/
def State.dropLine (s : State) (t : TileIx) (sc : Scope) (pa : Nat) : State :=
  let s1 := s.modTile t (·.dropLine pa)
  match sc with
  | .device | .system => s1.modDie (dieOf t) fun x => { x with cache := x.cache.filter fun l => l.pa != pa / 64 * 64 }
  | _ => s1

/-- A read-modify-write of `n` bytes of global memory, at the point of its scope: the tile's own atomic unit, the cache of the
die, or the home (R137); the host for a host page (R96). A release is performed before the write (R138). Merging in the
routers of the cluster gives each request the value of one of their orders, and so does executing them one by one. -/
def State.rmwG (s : State) (t : TileIx) (c : CtxNo) (rel : Bool) (sc : Scope) (n : Nat) (l : List (BitVec 48 × Nat × GSrc))
    (f : Nat → Option Nat) : State × Nat :=
  let bytes (v : Nat) : List Patch := (leBytes n v).map Patch.full
  let free (s : State) : State := if rel then s.releaseAt t sc else s
  let go (s : State) (old : Nat) (write : State → Nat → State) : State × Nat :=
    match f old with
    | some v => (write (free s) v, old)
    | none => (s, old)
  match placeOf l with
  | some (.mem pa) =>
    let w (v : Nat) : PendingWrite := ⟨false, false, pa, bytes v, 0, none⟩
    let r := match sc with
      | .tile => go s (leNat (s.memBytes t false pa n)) fun s v => s.gSend t c none [(l, bytes v)]
      | .cluster | .die =>
        let s1 := s.lineDie t pa
        go s1 (leNat (s1.memBytes t false pa n)) fun s v => s.modDie (dieOf t) fun x => { x with wbuf := x.wbuf ++ [w v] }
      | _ =>
        let s1 := s.lineHome t false pa
        go s1 (leNat (cellsRead s1.gm pa n)) fun s v => s.atHome (dieOf t) (w v)
    (r.1.dropLine t sc pa, r.2)
  | some (.host pa) =>
    let s1 := s.lineHome t true pa
    go s1 (leNat (cellsRead s1.host pa n)) fun s v => s.memPut true pa ((leBytes n v).map .full)
  | some (.ctl off) => go (s.ctlRead l) (leNat (s.ctlBytes off n)) fun s v => s.ctlWrite off (leBytes n v)
  | _ => (s, 0)

/-- Acquire order. -/
def Order.acq : Order → Bool
  | .acq | .acqrel => true
  | _ => false
/-- Release order. -/
def Order.rel : Order → Bool
  | .rel | .acqrel => true
  | _ => false
/-- CLUSTER scope or wider. -/
def Scope.wide : Scope → Bool
  | .tile => false
  | _ => true
/-- The scope of an edge made by an access of a space: in SP a wider one acts as CLUSTER (R107). -/
def Scope.within (sc : Scope) : Space → Scope
  | .sp => if Scope.wide sc then .cluster else .tile
  | _ => sc

/-- Atomic elements of `n` bytes each, in ascending order from an address: `f` gives the new value of element k. -/
def State.rmwAllSp (s : State) (rel : Bool) (a : Word) (n count : Nat) (f : Nat → Nat → Option Nat) : State × List Nat :=
  let p := s.spLocs s.cur s.ctxn a.toNat (n * count)
  (List.range count).foldl (fun r k =>
    let q := r.1.rmwSp s.cur rel p.1 ((p.2.drop (n * k)).take n) (f k)
    (q.1, r.2 ++ [q.2])) (s, [])

/-- Atomic elements at planned places. -/
def State.rmwAllG (s : State) (rel : Bool) (sc : Scope) (n : Nat) (ls : List (List (BitVec 48 × Nat × GSrc))) (f : Nat → Nat → Option Nat) :
    State × List Nat :=
  ((List.range ls.length).zip ls).foldl (fun r p =>
    let q := r.1.rmwG s.cur s.ctxn rel sc n p.2 (f p.1)
    (q.1, r.2 ++ [q.2])) (s, [])

/-- The memory of an atomic of `n` bytes from an address, with the edges of its order (R108, R138). -/
def atomicMem (spc : Space) (a : Word) (n : Nat) (o : Order) : MemAcc :=
  ⟨inSpace spc [(a, n)], true, true, Order.acq o, Order.rel o⟩

/-- An atomic of `count` elements of `n` bytes from `a`, aligned to `al` (R127, R137, R138): a release is performed after every
earlier access of the task. `k` takes the old values. -/
def State.atomic (s : State) (i : Instr) (spc : Space) (a : Word) (al n count : Nat) (sc : Scope) (o : Order)
    (f : Nat → Nat → Option Nat) (k : State → List Nat → State) : Out :=
  let m := atomicMem spc a (n * count) o
  let fin (r : State × List Nat) : Out :=
    .next ((fun s : State => if Order.acq o then s.acquireEdge s.cur (Scope.within sc spc) else s) (k r.1 r.2))
  aligned al a s <|
  s.frameGuard spc [(a, n * count)] <|
  match spc with
  | .sp =>
    if s.spWaits s.cur s.ctxn a.toNat (n * count) then s.hold
    else s.orderGuard i m <| if Order.rel o && s.t.ctlPending then s.aside i m
    else
      let s1 := s.offendIf s.cur true (s.spBad s.cur s.ctxn a.toNat (n * count))
      match s.spPoisoned s.cur s.ctxn a.toNat (n * count) with
      | some p => .next (s1.execTrap causeEccUncorr (BitVec.ofNat 64 p) 0)
      | none => fin (s1.rmwAllSp (Order.rel o && Scope.wide sc) a n count f)
  | _ =>
    if !canonicalRange a (n * count) then s.issueTrap causeProt a
    else s.orderGuard i m <| if s.t.ctlPending then s.aside i m
    else
      match State.planAll s.cur s.ctxn .write false s ((List.range count).map fun j => (a + BitVec.ofNat 64 (n * j), n)) with
      | .error (.park va mal) => s.parkAccess i m va .write mal
      | .error (.prot va) => .next (s.execTrap causeProt (va.signExtend 64) 0)
      | .ok (s0, ls) =>
        let s1 := s0.refill ls
        match firstOf s1.gPoisoned ls with
        | some va => .next (s1.execTrap causeEccUncorr (va.signExtend 64) 0)
        | none => fin (s1.rmwAllG (Order.rel o && Scope.wide sc) sc n ls f)

/-! ### The operations (R139, R140) -/

/-- The new value of an integer atomic on w bits (R139). -/
def amoNew (f : AmoOp) (w old b : Nat) : Nat :=
  match f with
  | .add => (old + b) % 2 ^ w
  | .and => old &&& b
  | .or => old ||| b
  | .xor => old ^^^ b
  | .swap => b
  | .min => if toSigned w old ≤ toSigned w b then old else b
  | .max => if toSigned w b ≤ toSigned w old then old else b
  | .minn => Nat.min old b
  | .maxn => Nat.max old b

/-- The new value and flags of a floating atomic (R140). -/
def famoNew (f : FAmo) (t : ETy) (old b : Nat) : Nat × Flags :=
  let x := readNum t old
  let y := readNum t b
  let nan : Nat := ((binFmt t).map BinFmt.nanPat).getD 0
  let fl := flIf (x.isSnan || y.isSnan) flNV
  let pick (prop mn : Bool) : Nat :=
    if prop && (x.isNan || y.isNan) then nan
    else if x.isNan && y.isNan then nan
    else if x.isNan then b
    else if y.isNan then old
    else if mn then (if y.below x then b else old)
    else if x.below y then b else old
  match f with
  | .add _ =>
    let r := floatOp .add t .rne old b 0
    (r.1, r.2 ||| fl)
  | .min prop _ => (pick prop true, fl)
  | .max prop _ => (pick prop false, fl)

/-- The type of a floating atomic (R140). -/
def famoTy (f : FAmo) (z : Size) : ETy :=
  match z with
  | .w => .f32
  | .d => .a56
  | _ => if (match f with
    | .add bf => bf
    | .min _ bf => bf
    | .max _ bf => bf) then .bf16 else .f16

/-- The low n bytes of a word as a number. -/
def lowBytes (n : Nat) (w : Word) : Nat := w.toNat % 2 ^ (8 * n)

/-- `AMO` (R139). -/
def execAmo (spc : Space) (d b : SReg) (f : AmoOp) (sc : Scope) (z : Size) (o : Order) (s : State) : Out :=
  checked (.amo spc d b f sc z o) s <|
  let n := Size.bytes z
  let x := lowBytes n (s.rdS d)
  s.atomic (.amo spc d b f sc z o) spc (s.rdS b) n n 1 sc o (fun _ old => some (amoNew f (8 * n) old x)) fun s l =>
    s.wrS d (BitVec.ofNat 64 (l.headD 0))

/-- `AMOF` (R140). -/
def execAmof (spc : Space) (d b : SReg) (f : FAmo) (sc : Scope) (z : Size) (o : Order) (s : State) : Out :=
  checked (.amof spc d b f sc z o) s <|
  let n := Size.bytes z
  let t := famoTy f z
  let m := 2 ^ valWidth t
  let x := lowBytes n (s.rdS d) % m
  s.atomic (.amof spc d b f sc z o) spc (s.rdS b) n n 1 sc o (fun _ old => some (famoNew f t (old % m) x).1) fun s l =>
    (s.wrS d (BitVec.ofNat 64 (l.headD 0))).raise (famoNew f t (l.headD 0 % m) x).2

/-- `CAS`: a failing one only reads (R141). -/
def execCas (spc : Space) (d b : SReg) (sc : Scope) (z : Size) (o : Order) (s : State) : Out :=
  checked (.cas spc d b sc z o) s <|
  let n := Size.bytes z
  let e := lowBytes n (s.rdS d)
  let x := lowBytes n (s.rdS (d + 1))
  s.atomic (.cas spc d b sc z o) spc (s.rdS b) n n 1 sc o (fun _ old => if old = e then some x else none) fun s l =>
    s.wrS d (BitVec.ofNat 64 (l.headD 0))

/-- The new value and flags of an element of a vector atomic (R142). -/
def vamoNew (f : VamoOp) (w old b : Nat) : Nat × Flags :=
  match f with
  | .int g => (amoNew g w old b, 0)
  | .addF32 => famoNew (.add false) .f32 old b
  | .addBf16 => famoNew (.add true) .bf16 old b

/-- `VAMO`: one atomic for each element, in ascending order (R142). -/
def execVamo (spc : Space) (d : VReg) (b : SReg) (f : VamoOp) (sc : Scope) (z : Size) (o : Order) (s : State) : Out :=
  checked (.vamo spc d b f sc z o) s <|
  let n := Size.bytes z
  let x := (s.rdV d).toNat
  s.atomic (.vamo spc d b f sc z o) spc (s.rdS b) 64 n (512 / n) sc o
    (fun k old => some (vamoNew f (8 * n) old (elemOf (8 * n) x k)).1) fun s l =>
      (s.wrV d (vecOfElems n (List.range (512 / n)) (l.map (leBytes n)))).raise
        (((List.range (512 / n)).zip l).foldl (fun fl p => fl ||| (vamoNew f (8 * n) p.2 (elemOf (8 * n) x p.1)).2) 0)

/-- `FENCE`: it is performed at once, or once the accesses before it have been; what it orders waits for it, and no other bundle
does (R143). -/
def execFence (sc : Scope) (o : Order) (s : State) : Out :=
  checked (.fence sc o) s <|
  let i : Instr := .fence sc o
  let m : MemAcc := ⟨[], false, false, Order.acq o, Order.rel o⟩
  s.orderGuard i m <| if Order.rel o && s.t.ctlPending then s.aside i m
  else
    let s1 := if Order.rel o then s.releaseEdge sc else s
    .next (if Order.acq o then s1.acquireEdge s1.cur sc else s1)

end Sys2Proof.Machine
end

