-- ==== Sys2Proof/Machine/Functions.lean ====
section
/-! DEFINITION. The special functions of the vector space (R212 to R215): each exact value is approximated in fixed
point far below half a unit of the result, and rounded once. -/

namespace Sys2Proof.Machine

/-- The fraction bits of the fixed-point approximations. A value that is not an exact point is irrational, or rational
without a finite binary form, so the floor at this precision with a sticky bit rounds as the exact value does. -/
def fxBits : Nat := 400
/-- One in fixed point. -/
def fxOne : Nat := 1 <<< fxBits
/-- The product of two fixed-point numbers, rounded down. -/
def fxMul (a b : Nat) : Nat := (a * b) >>> fxBits

/-- The sum of z2^i / (2i+1) over i below n, with or without alternating signs, by Horner's rule. -/
def fxOdd (alt : Bool) (z2 : Nat) : Nat → Nat → Nat
  | 0, acc => acc
  | n + 1, acc =>
    let t := fxMul z2 acc
    fxOdd alt z2 n (if alt then fxOne / (2 * n + 1) - t else fxOne / (2 * n + 1) + t)

/-- The square root's floor, bit by bit from 2^n down. -/
def isqrtFrom (x : Nat) : Nat → Nat → Nat
  | 0, r => r
  | n + 1, r =>
    let r' := r + 1 <<< n
    isqrtFrom x n (if r' * r' ≤ x then r' else r)

/-- The floor of the square root of a number below 2^1024. -/
def isqrt (x : Nat) : Nat := isqrtFrom x (Nat.log2 x / 2 + 1) 0

/-- ln((1+z)/(1-z)) / 2 in fixed point: the series of the inverse hyperbolic tangent, for z of at most a third. -/
def fxAtanh (z : Nat) : Nat := fxMul z (fxOdd false (fxMul z z) 140 0)
/-- arctan z in fixed point, for z of at most a fifth. -/
def fxAtan (z : Nat) : Nat := fxMul z (fxOdd true (fxMul z z) 100 0)
/-- ln 2 in fixed point: twice the inverse hyperbolic tangent of a third. -/
def fxLn2 : Nat := 2 * fxAtanh (fxOne / 3)
/-- π in fixed point, by Machin's formula. -/
def fxPi : Nat := 16 * fxAtan (fxOne / 5) - 4 * fxAtan (fxOne / 239)

/-- e^z in fixed point by Horner's rule over n terms. -/
def fxExp (z : Nat) : Nat → Nat → Nat
  | 0, acc => acc
  | n + 1, acc => fxExp z n (fxOne + fxMul z acc / (n + 1))

/-- 1 - z2/((k+1)(k+2)) (1 - ...) by Horner's rule: the tail of the sine (k odd start 2) and cosine (1) series. -/
def fxTrig (z2 : Nat) (off : Nat) : Nat → Nat → Nat
  | 0, acc => acc
  | n + 1, acc => fxTrig z2 off n (fxOne - fxMul z2 acc / ((2 * n + off) * (2 * n + off + 1)))

/-- sin(π t) in fixed point for t at most a half. -/
def fxSinPi (t : Nat) : Nat :=
  let z := fxMul fxPi t
  fxMul z (fxTrig (fxMul z z) 2 60 fxOne)
/-- cos(π t) in fixed point for t at most a half. -/
def fxCosPi (t : Nat) : Nat :=
  let z := fxMul fxPi t
  fxTrig (fxMul z z) 1 60 fxOne

/-- The exact value of a special function: special, exact, or between two neighbours at the working precision. A real
that is not exact is carried as an odd numerator one bit below its floor, which no format represents. -/
structure FnVal where
  num : Num
  flags : Flags
  exact : Bool
deriving DecidableEq, Repr

/-- A special result with its flags (R213). -/
def fnSpecial (x : Num) (f : Flags) : FnVal := ⟨x, f, true⟩
/-- An exact point (R214). -/
def fnExact (neg : Bool) (m : Nat) (e : Int) : FnVal := ⟨.fin neg m e, 0, true⟩
/-- A real strictly between m and m+1 units of 2^e. -/
def fnBetween (neg : Bool) (m : Nat) (e : Int) : FnVal := ⟨.fin neg (2 * m + 1) (e - 1), 0, false⟩
/-- The canonical NaN of a NaN operand (R213). -/
def fnNan (sig : Bool) : FnVal := fnSpecial (.nan false) (flIf sig flNV)
/-- An invalid operand (R213). -/
def fnInvalid : FnVal := fnSpecial (.nan false) flNV

/-- 2^x (R212, R213, R214). -/
def fnExp2 (x : Num) : FnVal :=
  match x with
  | .nan sg => fnNan sg
  | .inf n => if n then fnSpecial (.fin false 0 0) 0 else fnSpecial (.inf false) 0
  | .fin n m e =>
    if m = 0 then fnExact false 1 0
    else if 12 < e + (Nat.log2 m : Int) then fnBetween false 1 (if n then -8192 else 8192)
    else
      let num := scaled n m e (min e 0)
      let den : Int := 2 ^ (-(min e 0)).toNat
      let k := num / den
      let r := num % den
      if r = 0 then fnExact false 1 k
      else fnBetween false (fxExp (fxMul fxLn2 ((r.toNat <<< fxBits) / den.toNat)) 120 fxOne) (k - fxBits)

/-- log2 x (R212, R213, R214). -/
def fnLog2 (x : Num) : FnVal :=
  match x with
  | .nan sg => fnNan sg
  | .inf n => if n then fnInvalid else fnSpecial (.inf false) 0
  | .fin n m e =>
    if m = 0 then fnSpecial (.inf true) flDZ
    else if n then fnInvalid
    else
      let l := Nat.log2 m
      let k : Int := e + l
      if m = 2 ^ l then (if k = 0 then fnExact false 0 0 else fnExact (decide (k < 0)) k.natAbs 0)
      else
        let z := ((m - 2 ^ l) <<< fxBits) / (m + 2 ^ l)
        let f := (2 * fxAtanh z <<< fxBits) / fxLn2
        let v : Int := k * (fxOne : Int) + (f : Int)
        if 0 ≤ v then fnBetween false v.toNat (-(fxBits : Int)) else fnBetween true ((-v).toNat - 1) (-(fxBits : Int))

/-- 1 / x (R212, R213, R214). -/
def fnRcp (x : Num) : FnVal :=
  match x with
  | .nan sg => fnNan sg
  | .inf n => fnSpecial (.fin n 0 0) 0
  | .fin n m e =>
    if m = 0 then fnSpecial (.inf n) flDZ
    else
      let l := Nat.log2 m
      if m = 2 ^ l then fnExact n 1 (-(e + l))
      else fnBetween n ((1 <<< (fxBits + l)) / m) (-(e + l + fxBits))

/-- The square root, exact or with its floor at the working precision (R212, R213, R214). -/
def fnSqrt (x : Num) : FnVal :=
  match x with
  | .nan sg => fnNan sg
  | .inf n => if n then fnInvalid else fnSpecial (.inf false) 0
  | .fin n m e =>
    if m = 0 then fnSpecial (.fin n 0 0) 0
    else if n then fnInvalid
    else
      let odd := (e % 2).toNat
      let y := m <<< (odd + 2 * fxBits)
      let r := isqrt y
      let u := (e - odd) / 2 - fxBits
      if r * r = y then fnExact false r u else fnBetween false r u

/-- 1 / √x (R212, R213, R214). -/
def fnRsqrt (x : Num) : FnVal :=
  match x with
  | .nan sg => fnNan sg
  | .inf n => if n then fnInvalid else fnSpecial (.fin false 0 0) 0
  | .fin n m e =>
    if m = 0 then fnSpecial (.inf n) flDZ
    else if n then fnInvalid
    else
      let odd := (e % 2).toNat
      let h := (e - odd) / 2
      let y := m <<< odd
      let l := Nat.log2 y
      if y = 2 ^ l && l % 2 = 0 then fnExact false 1 (-(h + (l / 2 : Nat)))
      else fnBetween false (isqrt ((1 <<< (2 * fxBits)) / y)) (-(h + fxBits))

/-- sin(πx) or cos(πx) (R212, R213, R214): the argument is reduced exactly to quarter turns. -/
def fnSinCos (cos : Bool) (x : Num) : FnVal :=
  match x with
  | .nan sg => fnNan sg
  | .inf _ => fnInvalid
  | .fin n m e =>
    if m = 0 then (if cos then fnExact false 1 0 else fnExact n 0 0)
    else
      let den := 2 ^ (-(min e 0)).toNat
      let num := (m <<< (max e 0).toNat) % (2 * den)
      let k := num / den
      let r := num % den
      if r = 0 then
        (if cos then fnExact (k == 1) 1 0 else fnExact n 0 0)
      else if 2 * r = den then
        (if cos then fnExact false 0 0 else fnExact (n ^^ (k == 1)) 1 0)
      else
        let t := (r <<< fxBits) / den
        let low := decide (2 * r < den)
        if cos then
          fnBetween ((k == 1) ^^ !low) (if low then fxCosPi t else fxCosPi (fxOne - t)) (-(fxBits : Int))
        else
          fnBetween (n ^^ (k == 1)) (if low then fxSinPi t else fxSinPi (fxOne - t)) (-(fxBits : Int))

/-- tanh x (R212, R213, R214). -/
def fnTanh (x : Num) : FnVal :=
  match x with
  | .nan sg => fnNan sg
  | .inf n => fnSpecial (.fin n 1 0) 0
  | .fin n m e =>
    if m = 0 then fnSpecial (.fin n 0 0) 0
    else if 4 ≤ e + (Nat.log2 m : Int) then ⟨.fin n 1 0, flNX, false⟩
    else
      let z := if 0 ≤ e then m <<< (e.toNat + fxBits) else (m <<< fxBits) >>> (-e).toNat
      let k := 2 * z / fxLn2
      let w := fxExp (2 * z - k * fxLn2) 120 fxOne <<< k
      fnBetween n (((w - fxOne) <<< fxBits) / (w + fxOne)) (-(fxBits : Int))

/-- A magnitude pattern of a format as a number. -/
def BinFmt.ofMag (f : BinFmt) (neg : Bool) (mag : Nat) : Num := f.read (f.signed neg mag)

/-- The distance of a representable value from the real is within a number of units of the spacing at the real's
magnitude (R214). -/
def withinUlps (f : BinFmt) (ulps : Nat) (m : Nat) (e : Int) (v : Num) : Bool :=
  match v with
  | .fin _ m' e' =>
    let u := max f.umin (e + (Nat.log2 m : Int) - f.p)
    let lo := min (min e e') u
    let y := scaled false m e lo
    let w := scaled false m' e' lo
    decide ((y - w).natAbs ≤ ulps * (2 ^ (u - lo).toNat))
  | _ => false

/-- The representable magnitudes within the bound of an inexact result, around its correctly rounded pattern. -/
def candidates (f : BinFmt) (ulps m : Nat) (e : Int) (pat : Nat) : List Nat :=
  [pat - 3, pat - 2, pat - 1, pat, pat + 1, pat + 2, pat + 3].filter fun q =>
    decide (q ≤ f.maxPat) && withinUlps f ulps m e (f.ofMag false q)

/-- The bound of a special function in F32, in ulps (R214); `none` where it is correctly rounded. -/
def fnUlps : SpecialFn → Option Nat
  | .exp2 => some 1
  | .log2 => some 2
  | .rcp => some 1
  | .rsqrt => some 1
  | .sqrt => none
  | .sin => some 2
  | .cos => some 2
  | .tanh => some 2

/-- The exact value a special function has (R212). -/
def fnVal : SpecialFn → Num → FnVal
  | .exp2, x => fnExp2 x
  | .log2, x => fnLog2 x
  | .rcp, x => fnRcp x
  | .rsqrt, x => fnRsqrt x
  | .sqrt, x => fnSqrt x
  | .sin, x => fnSinCos false x
  | .cos, x => fnSinCos true x
  | .tanh, x => fnTanh x

/-- The result of a special function on a pattern, with its flags. F16 and BF16 are correctly rounded; an inexact F32
result that neither overflows nor lies below half the smallest subnormal is the device's own choice among the values
within the bound, a free value (R213, R214, R215). The values it may choose have the sign of the exact one: R214 leaves the sign
open near zero, and this is the model's choice (log entry 10). -/
def specialFn (fn : SpecialFn) (t : ETy) (x : Nat) : Nat × Flags :=
  match binFmt t with
  | none => (0, 0)
  | some f =>
    let v := fnVal fn (readNum t x)
    let r := f.round .rne false v.num
    match v.exact, v.num, fnUlps fn, t with
    | false, .fin neg m e, some ulps, .f32 =>
      let pat := (f.roundMag .rne neg m e).1
      if decide (f.maxPat < pat) || decide (e + (Nat.log2 m : Int) < f.umin - 1) || (fn == .tanh && m == 1) then
        (r.1, r.2 ||| v.flags)
      else
        let cs := candidates f ulps m e pat
        let q := cs.getD (Config.fnChoice fn (BitVec.ofNat 32 x) % cs.length) pat
        (f.signed neg q, v.flags ||| flNX ||| flIf (f.tiny m e) flUF)
    | _, _, _, _ => (r.1, r.2 ||| v.flags)

/-- A special function on every governed element (R212). -/
def fnForm (fn : SpecialFn) (d a : VReg) (t : ETy) (mk : MReg) (s : State) : Out :=
  plainForm d a a t mk (fun x _ _ => specialFn fn t x) s

/-- `VEXP2` (R212). -/
def execVexp2 (d a : VReg) (t : ETy) (mk : MReg) (s : State) : Out :=
  checked (.vexp2 d a t mk) s <| fnForm .exp2 d a t mk s
/-- `VLOG2` (R212). -/
def execVlog2 (d a : VReg) (t : ETy) (mk : MReg) (s : State) : Out :=
  checked (.vlog2 d a t mk) s <| fnForm .log2 d a t mk s
/-- `VRCP` (R212). -/
def execVrcp (d a : VReg) (t : ETy) (mk : MReg) (s : State) : Out :=
  checked (.vrcp d a t mk) s <| fnForm .rcp d a t mk s
/-- `VRSQRT` (R212). -/
def execVrsqrt (d a : VReg) (t : ETy) (mk : MReg) (s : State) : Out :=
  checked (.vrsqrt d a t mk) s <| fnForm .rsqrt d a t mk s
/-- `VSQRT` (R212). -/
def execVsqrt (d a : VReg) (t : ETy) (mk : MReg) (s : State) : Out :=
  checked (.vsqrt d a t mk) s <| fnForm .sqrt d a t mk s
/-- `VSINCOS` (R212). -/
def execVsincos (d a : VReg) (t : ETy) (mk : MReg) (cs : Bool) (s : State) : Out :=
  checked (.vsincos d a t mk cs) s <| fnForm (if cs then .cos else .sin) d a t mk s
/-- `VTANH` (R212). -/
def execVtanh (d a : VReg) (t : ETy) (mk : MReg) (s : State) : Out :=
  checked (.vtanh d a t mk) s <| fnForm .tanh d a t mk s

end Sys2Proof.Machine
end

