-- ==== Sys2Proof/Machine/Pipes.lean ====
section
/-! DEFINITION. The pipes of a gang (R145). -/

namespace Sys2Proof.Machine

/-- The stage of the current task in its gang (R26). -/
def Ctl.stage (c : Ctl) : BitVec 3 := c.task.extractLsb' 32 3

/-- Pipe n of the gang of the task on a tile. -/
def State.pipe (s : State) (t : TileIx) (n : BitVec 4) : Option Pipe := (s.gangOf t).bind fun g => assocGet g.pipes n.toNat

/-- Pipe n of the gang of the task on a tile replaced. -/
def State.setPipe (s : State) (t : TileIx) (n : BitVec 4) (p : Pipe) : State :=
  match s.gangOf t, (s.tile t).run with
  | some g, some r => s.modGang r.home g.ctx g.num fun x => some { x with pipes := assocSet x.pipes n.toNat p }
  | _, _ => s

/-- The edges of R111 that a completed put or get carries within its cluster: writes before it are performed, stale lines are
gone. -/
def State.pipeEdge (s : State) (t : TileIx) : State := (s.releaseAt t .cluster).acquireEdge t .cluster

/-- A put or get of the task on a tile, if the pipe has room or an entry: `r` holds the registers it reads, `put` writes the
destination (R145). -/
def State.pipeDo (s : State) (t : TileIx) (i : Instr) (r : Regs) (put : (Regs → Regs) → State → State) : Option State :=
  match i with
  | .pipep d n =>
    match s.pipe t n with
    | some p =>
      if p.entries.length < 8 then
        some (put id ((s.setPipe t n { p with entries := p.entries ++ [r.getV d] }).pipeEdge t))
      else none
    | none => none
  | .pipeg d n =>
    match s.pipe t n with
    | some ⟨a, b, v :: rest⟩ => some (put (·.setV d v) ((s.setPipe t n ⟨a, b, rest⟩).pipeEdge t))
    | _ => none
  | _ => none

/-- The edges of a put or get: it touches no memory (R111, R145). -/
def pipeMem : MemAcc := ⟨[], false, false, true, true⟩

/-- The meaning of a put or get: PROT unless the task's stage is the pipe's end; carried out at once, or the task waits
(R145). -/
def State.pipeForm (s : State) (i : Instr) (n : BitVec 4) (put : Bool) : Out :=
  match s.pipe s.cur n with
  | none => s.issueTrap causeProt s.openAddr
  | some p =>
    if (if put then p.src else p.dst) != s.src.ctl.stage then s.issueTrap causeProt s.openAddr
    else if s.mustWait pipeMem || s.t.ctlPending then s.later i pipeMem
    else match s.pipeDo s.cur i s.src (fun f s => s.modRegs f) with
      | some s1 => .next s1
      | none => .next (s.waitFor i s.t.view.pipewdog.toNat pipeMem)

/-- `PIPEP` (R145). -/
def execPipep (d : VReg) (n : BitVec 4) (s : State) : Out := s.pipeForm (.pipep d n) n true
/-- `PIPEG` (R145). -/
def execPipeg (d : VReg) (n : BitVec 4) (s : State) : Out := s.pipeForm (.pipeg d n) n false

/-- PIPE_WAIT_COMPLETE: a waiting put or get goes through (R145). -/
def execPipeWaitComplete (t : TileIx) (s : State) : Out :=
  match (s.tile t).wait with
  | none => .next s
  | some w =>
    if s.phase != .up || !(s.tile t).waiting w then .next s
    else match s.pipeDo t w.instr w.src (fun f s => s.modTile t fun x => { x with regs := f x.regs }) with
      | some s1 => .next (s1.endWait t w)
      | none => .next s

/-- The pipe number a PIPE_TIMEOUT records: 0x100 for `BARG`, 0x101 for a gang `YIELD` (R373). -/
def pipeCode : Instr → Option Word
  | .pipep _ n => some (n.zeroExtend 64)
  | .pipeg _ n => some (n.zeroExtend 64)
  | .barg => some 0x100
  | .yield => some 0x101
  | _ => none

/-- PIPE_TIMEOUT: a wait on a pipe, at `BARG` or at a gang `YIELD` has reached the watchdog; the pipe is unchanged (R145,
R264, R308). -/
def execPipeTimeout (t : TileIx) (s : State) : Out :=
  match (s.tile t).wait with
  | none => .next s
  | some w =>
    match pipeCode w.instr with
    | none => .next s
    | some a =>
      let x := s.tile t
      if s.phase == .up && x.waiting w && x.watched w && w.leftNs = 0 && !x.killDue then
        .next (s.waitTrap t w causePipeTimeout a 0)
      else .next s

end Sys2Proof.Machine
end

