-- ==== Sys2Proof/Machine/Provisional.lean ====
section
/-! DEFINITION. The commit buffer: provisional stores and contributions (R144, R309, R310). -/

namespace Sys2Proof.Machine

/-- The lines of the commit buffer that contributions take (R310). -/
def CommitBuf.size (b : CommitBuf) : Nat :=
  b.lines.length + (b.contribs.map fun k => (k.values.length + 15) / 16).foldl (· + ·) 0

/-- The lines that provisional stores and contributions may take: one of 32 is the arrival's (R310). -/
def commitLines : Nat := 31

/-- Two lines of the commit buffer are one (R144). -/
def CommitLine.same (l m : CommitLine) : Bool :=
  l.inGlobal == m.inGlobal && l.host == m.host && l.base == m.base && (l.inGlobal || l.tile == m.tile)

/-- A provisional byte entered: it merges into a line already held (R144). -/
def CommitBuf.putByte (b : CommitBuf) (k : CommitLine) (a : Nat) (x : Byte) : CommitBuf :=
  if b.lines.any (·.same k) then
    { b with lines := b.lines.map fun l => if l.same k then
        { l with bytes := assocSet l.bytes a x, stores := l.stores ++ k.stores.filter fun p => !l.stores.contains p } else l }
  else { b with lines := b.lines ++ [{ k with bytes := [(a, x)] }] }

/-- The provisional bytes of a scratchpad store entered; offending ones are dropped (R144). -/
def CommitBuf.putSp (b : CommitBuf) (h : TileIx) (locs : List (Option Nat)) (bs : List Byte) : CommitBuf :=
  (locs.zip bs).foldl (fun b p => match p.1 with
    | none => b
    | some off => b.putByte ⟨false, false, h, off / 64 * 64, [], []⟩ off p.2) b

/-- The provisional bytes of a global store entered (R144). -/
def CommitBuf.putG (t : TileIx) : CommitBuf → List (BitVec 48 × Nat × GSrc) → List Byte → CommitBuf
  | b, [], _ => b
  | b, (va, n, src) :: rest, bs =>
    let put (host : Bool) (pa : Nat) : CommitBuf :=
      ((List.range n).zip bs).foldl (fun b p =>
        b.putByte ⟨true, host, t, (pa + p.1) / 64 * 64, [(t, va &&& 0xFFFFFFFFFFC0#48)], []⟩ (pa + p.1) p.2) b
    let b1 := match src with
      | .mem pa => put false pa
      | .host pa => put true pa
      | .ctl off => put false (ctlBase + off)
      | .line _ _ => b
    CommitBuf.putG t b1 rest (bs.drop n)

/-- The commit buffer of the current task replaced, or COMMIT_OVERFLOW where it has too few lines (R144, R310). -/
def State.setCommit (s : State) (b : CommitBuf) (addr : Word) : Out :=
  if commitLines < b.size then s.issueTrap causeCommitOverflow addr
  else .next (s.modRun s.cur fun r => { r with commit := b })

/-- A provisional store (R144). -/
def State.provisional (s : State) (i : Instr) (spc : Space) (a : Word) (bs : List Byte) : Out :=
  match spc with
  | .sp =>
    if s.spWaits s.cur s.ctxn a.toNat bs.length then s.hold
    else s.orderGuard i (writesOf .sp [(a, bs.length)]) <|
      let p := s.spLocs s.cur s.ctxn a.toNat bs.length
      (s.offendIf s.cur true (firstBad a.toNat p.2)).setCommit (s.t.commit.putSp p.1 p.2 bs) a
  | _ =>
    if !canonicalRange a bs.length then s.issueTrap causeProt a
    else s.orderGuard i (writesOf .g [(a, bs.length)]) <|
      match s.gPlan s.cur s.ctxn .write false (gPieces (a.extractLsb' 0 48) bs.length) with
      | .error (.park va m) => s.parkAccess i (writesOf .g [(a, bs.length)]) va .write m
      | .error (.prot va) => .next (s.execTrap causeProt (va.signExtend 64) 0)
      | .ok (s1, l) => s1.setCommit (CommitBuf.putG s.cur s1.t.commit l bs) a

/-- `STP` (R144). -/
def execStp (spc : Space) (d b : SReg) (z : Size) (o : BitVec 8) (s : State) : Out :=
  checked (.stp spc d b z o) s <|
    s.provisional (.stp spc d b z o) spc (eaMs (s.rdS b) z o) (bvBytes (Size.bytes z) (s.rdS d))

/-- `VSTP` (R144). -/
def execVstp (spc : Space) (d : VReg) (b : SReg) (o : BitVec 11) (s : State) : Out :=
  checked (.vstp spc d b o) s <|
  let a := eaM (s.rdS b) o
  aligned 64 a s <| s.provisional (.vstp spc d b o) spc a (bvBytes 512 (s.rdV d))

/-- `CONTRIB`: elements 0 to n of a vector register are held for the member's arrival (R309, R310). -/
def execContrib (d : VReg) (i : SReg) (n : BitVec 7) (s : State) : Out :=
  if s.src.ctl.qjoin == 0 then s.issueTrap causeProt s.openAddr
  else
    let b := s.t.commit
    let vs := (List.range (n.toNat + 1)).map fun k => BitVec.ofNat 32 (elemOf 32 (s.rdV d).toNat k)
    s.setCommit { b with contribs := b.contribs ++ [⟨(s.rdS i).toNat, vs⟩] } 0

end Sys2Proof.Machine
end

