-- ==== Sys2Proof/Machine/Dispatch.lean ====
section
/-! DEFINITION. The dispatch of every instruction to its meaning. -/

namespace Sys2Proof.Machine

def exec (i : Instr) (s : State) : Host.Outcome State Fault Refusal :=
  match i with
  | .noOpBundle stall => Sys2Proof.Machine.execNoOpBundle stall s
  | .paddingHeader stall => Sys2Proof.Machine.execPaddingHeader stall s
  | .add d a b => Sys2Proof.Machine.execAdd d a b s
  | .addi d a imm => Sys2Proof.Machine.execAddi d a imm s
  | .sub d a b => Sys2Proof.Machine.execSub d a b s
  | .and d a b => Sys2Proof.Machine.execAnd d a b s
  | .andi d a imm => Sys2Proof.Machine.execAndi d a imm s
  | .or d a b => Sys2Proof.Machine.execOr d a b s
  | .ori d a imm => Sys2Proof.Machine.execOri d a imm s
  | .xor d a b => Sys2Proof.Machine.execXor d a b s
  | .xori d a imm => Sys2Proof.Machine.execXori d a imm s
  | .shl d a b => Sys2Proof.Machine.execShl d a b s
  | .shli d a n => Sys2Proof.Machine.execShli d a n s
  | .shr d a b => Sys2Proof.Machine.execShr d a b s
  | .shri d a n => Sys2Proof.Machine.execShri d a n s
  | .sra d a b => Sys2Proof.Machine.execSra d a b s
  | .srai d a n => Sys2Proof.Machine.execSrai d a n s
  | .min d a b => Sys2Proof.Machine.execMin d a b s
  | .max d a b => Sys2Proof.Machine.execMax d a b s
  | .minn d a b => Sys2Proof.Machine.execMinn d a b s
  | .maxn d a b => Sys2Proof.Machine.execMaxn d a b s
  | .addx d a b h => Sys2Proof.Machine.execAddx d a b h s
  | .movi d imm => Sys2Proof.Machine.execMovi d imm s
  | .movhi d imm => Sys2Proof.Machine.execMovhi d imm s
  | .bfx d a pos len1 => Sys2Proof.Machine.execBfx d a pos len1 s
  | .bfxs d a pos len1 => Sys2Proof.Machine.execBfxs d a pos len1 s
  | .bfi d a pos len1 => Sys2Proof.Machine.execBfi d a pos len1 s
  | .clz d a => Sys2Proof.Machine.execClz d a s
  | .ctz d a => Sys2Proof.Machine.execCtz d a s
  | .popc d a => Sys2Proof.Machine.execPopc d a s
  | .cmp pd c a b => Sys2Proof.Machine.execCmp pd c a b s
  | .cmpi pd c a imm => Sys2Proof.Machine.execCmpi pd c a imm s
  | .sel d a b neg q => Sys2Proof.Machine.execSel d a b neg q s
  | .plog pd pa pb tb => Sys2Proof.Machine.execPlog pd pa pb tb s
  | .movp d => Sys2Proof.Machine.execMovp d s
  | .movpSet a => Sys2Proof.Machine.execMovpSet a s
  | .mul d a b => Sys2Proof.Machine.execMul d a b s
  | .mulh d a b => Sys2Proof.Machine.execMulh d a b s
  | .mulhn d a b => Sys2Proof.Machine.execMulhn d a b s
  | .div d a b => Sys2Proof.Machine.execDiv d a b s
  | .divn d a b => Sys2Proof.Machine.execDivn d a b s
  | .rem d a b => Sys2Proof.Machine.execRem d a b s
  | .remn d a b => Sys2Proof.Machine.execRemn d a b s
  | .sfadd d a b t r => Sys2Proof.Machine.execSfadd d a b t r s
  | .sfsub d a b t r => Sys2Proof.Machine.execSfsub d a b t r s
  | .sfmul d a b t r => Sys2Proof.Machine.execSfmul d a b t r s
  | .sfma d a b t r => Sys2Proof.Machine.execSfma d a b t r s
  | .sfmin d a b t => Sys2Proof.Machine.execSfmin d a b t s
  | .sfmax d a b t => Sys2Proof.Machine.execSfmax d a b t s
  | .sfcmp pd c a b t => Sys2Proof.Machine.execSfcmp pd c a b t s
  | .sfcvt d a dty sty r => Sys2Proof.Machine.execSfcvt d a dty sty r s
  | .br q neg o => Sys2Proof.Machine.execBr q neg o s
  | .brp q neg o => Sys2Proof.Machine.execBrp q neg o s
  | .jr a neg q => Sys2Proof.Machine.execJr a neg q s
  | .call q neg o => Sys2Proof.Machine.execCall q neg o s
  | .callr a neg q => Sys2Proof.Machine.execCallr a neg q s
  | .ret a neg q => Sys2Proof.Machine.execRet a neg q s
  | .loop l a e => Sys2Proof.Machine.execLoop l a e s
  | .loopi l n e => Sys2Proof.Machine.execLoopi l n e s
  | .brk imm => Sys2Proof.Machine.execBrk imm s
  | .movc d cr => Sys2Proof.Machine.execMovc d cr s
  | .movcw a cr => Sys2Proof.Machine.execMovcw a cr s
  | .spawn a => Sys2Proof.Machine.execSpawn a s
  | .spawng a b => Sys2Proof.Machine.execSpawng a b s
  | .jinit d a => Sys2Proof.Machine.execJinit d a s
  | .qinit a b => Sys2Proof.Machine.execQinit a b s
  | .jwait a => Sys2Proof.Machine.execJwait a s
  | .jwaitHere a => Sys2Proof.Machine.execJwaitHere a s
  | .yield => Sys2Proof.Machine.execYield s
  | .endTask => Sys2Proof.Machine.execEndTask s
  | .hold => Sys2Proof.Machine.execHold s
  | .unhold => Sys2Proof.Machine.execUnhold s
  | .waitt a q => Sys2Proof.Machine.execWaitt a q s
  | .barg => Sys2Proof.Machine.execBarg s
  | .sysc imm => Sys2Proof.Machine.execSysc imm s
  | .trap imm => Sys2Proof.Machine.execTrap imm s
  | .rett a b => Sys2Proof.Machine.execRett a b s
  | .rettSkip a b => Sys2Proof.Machine.execRettSkip a b s
  | .sleepCg => Sys2Proof.Machine.execSleepCg s
  | .sleepRetain => Sys2Proof.Machine.execSleepRetain s
  | .sleepOff => Sys2Proof.Machine.execSleepOff s
  | .wake a => Sys2Proof.Machine.execWake a s
  | .ckpt d => Sys2Proof.Machine.execCkpt d s
  | .savex d => Sys2Proof.Machine.execSavex d s
  | .restx a => Sys2Proof.Machine.execRestx a s
  | .restxKeep a => Sys2Proof.Machine.execRestxKeep a s
  | .restxDrop a => Sys2Proof.Machine.execRestxDrop a s
  | .tlbinvPage a b sc => Sys2Proof.Machine.execTlbinvPage a b sc s
  | .tlbinvAsid b sc => Sys2Proof.Machine.execTlbinvAsid b sc s
  | .tlbinvAll sc => Sys2Proof.Machine.execTlbinvAll sc s
  | .icinv sc => Sys2Proof.Machine.execIcinv sc s
  | .abort => Sys2Proof.Machine.execAbort s
  | .ld spc d b z x o => Sys2Proof.Machine.execLd spc d b z x o s
  | .st spc d b z o => Sys2Proof.Machine.execSt spc d b z o s
  | .ldx spc d b imm z x scl => Sys2Proof.Machine.execLdx spc d b imm z x scl s
  | .stx spc d b imm z scl => Sys2Proof.Machine.execStx spc d b imm z scl s
  | .vld spc d b o => Sys2Proof.Machine.execVld spc d b o s
  | .vst spc d b o => Sys2Proof.Machine.execVst spc d b o s
  | .vlds spc d b imm z mk => Sys2Proof.Machine.execVlds spc d b imm z mk s
  | .vsts spc d b imm z mk => Sys2Proof.Machine.execVsts spc d b imm z mk s
  | .vldx spc d b imm z scl mk => Sys2Proof.Machine.execVldx spc d b imm z scl mk s
  | .vstx spc d b imm z scl mk => Sys2Proof.Machine.execVstx spc d b imm z scl mk s
  | .vldd d k imm mk => Sys2Proof.Machine.execVldd d k imm mk s
  | .vstd d k imm mk => Sys2Proof.Machine.execVstd d k imm mk s
  | .ldfe spc d b z o => Sys2Proof.Machine.execLdfe spc d b z o s
  | .ldfeV spc d b z o => Sys2Proof.Machine.execLdfeV spc d b z o s
  | .ldfec spc d b z o => Sys2Proof.Machine.execLdfec spc d b z o s
  | .ldfecV spc d b z o => Sys2Proof.Machine.execLdfecV spc d b z o s
  | .stfe spc d b z o => Sys2Proof.Machine.execStfe spc d b z o s
  | .stfeV spc d b z o => Sys2Proof.Machine.execStfeV spc d b z o s
  | .feset spc b imm => Sys2Proof.Machine.execFeset spc b imm s
  | .feclr spc b imm => Sys2Proof.Machine.execFeclr spc b imm s
  | .amo spc d b f sc z o => Sys2Proof.Machine.execAmo spc d b f sc z o s
  | .amof spc d b f sc z o => Sys2Proof.Machine.execAmof spc d b f sc z o s
  | .cas spc d b sc z o => Sys2Proof.Machine.execCas spc d b sc z o s
  | .vamo spc d b f sc z o => Sys2Proof.Machine.execVamo spc d b f sc z o s
  | .fence sc o => Sys2Proof.Machine.execFence sc o s
  | .stp spc d b z o => Sys2Proof.Machine.execStp spc d b z o s
  | .vstp spc d b o => Sys2Proof.Machine.execVstp spc d b o s
  | .contrib d imm n => Sys2Proof.Machine.execContrib d imm n s
  | .pipep d n => Sys2Proof.Machine.execPipep d n s
  | .pipeg d n => Sys2Proof.Machine.execPipeg d n s
  | .pref spc dc b o => Sys2Proof.Machine.execPref spc dc b o s
  | .vpark d j c => Sys2Proof.Machine.execVpark d j c s
  | .vunpark d rel j c => Sys2Proof.Machine.execVunpark d rel j c s
  | .dset d k f => Sys2Proof.Machine.execDset d k f s
  | .dsetImg spc d k => Sys2Proof.Machine.execDsetImg spc d k s
  | .dget d k f => Sys2Proof.Machine.execDget d k f s
  | .dgetImg spc d k => Sys2Proof.Machine.execDgetImg spc d k s
  | .vadd d a b t mk g bc => Sys2Proof.Machine.execVadd d a b t mk g bc s
  | .vsub d a b t mk g bc => Sys2Proof.Machine.execVsub d a b t mk g bc s
  | .vadds d a b t mk g bc => Sys2Proof.Machine.execVadds d a b t mk g bc s
  | .vsubs d a b t mk g bc => Sys2Proof.Machine.execVsubs d a b t mk g bc s
  | .vmul d a b t mk g bc => Sys2Proof.Machine.execVmul d a b t mk g bc s
  | .vmulh d a b t mk g bc => Sys2Proof.Machine.execVmulh d a b t mk g bc s
  | .vmulw d a b t mk bc => Sys2Proof.Machine.execVmulw d a b t mk bc s
  | .vmac d a b t mk g bc => Sys2Proof.Machine.execVmac d a b t mk g bc s
  | .vmacw d a b t mk bc => Sys2Proof.Machine.execVmacw d a b t mk bc s
  | .vabsd d a b t mk g bc => Sys2Proof.Machine.execVabsd d a b t mk g bc s
  | .vavg d a b t mk g bc => Sys2Proof.Machine.execVavg d a b t mk g bc s
  | .vmin d a b t mk g bc => Sys2Proof.Machine.execVmin d a b t mk g bc s
  | .vmax d a b t mk g bc => Sys2Proof.Machine.execVmax d a b t mk g bc s
  | .vand d a b t mk g bc => Sys2Proof.Machine.execVand d a b t mk g bc s
  | .vor d a b t mk g bc => Sys2Proof.Machine.execVor d a b t mk g bc s
  | .vxor d a b t mk g bc => Sys2Proof.Machine.execVxor d a b t mk g bc s
  | .vandn d a b t mk g bc => Sys2Proof.Machine.execVandn d a b t mk g bc s
  | .vshl d a b t mk g bc => Sys2Proof.Machine.execVshl d a b t mk g bc s
  | .vshr d a b t mk g bc => Sys2Proof.Machine.execVshr d a b t mk g bc s
  | .vsra d a b t mk g bc => Sys2Proof.Machine.execVsra d a b t mk g bc s
  | .vclz d a t mk g => Sys2Proof.Machine.execVclz d a t mk g s
  | .vpopc d a t mk g => Sys2Proof.Machine.execVpopc d a t mk g s
  | .vcmp c d a b t mk => Sys2Proof.Machine.execVcmp c d a b t mk s
  | .vsel d a b t mk g bc => Sys2Proof.Machine.execVsel d a b t mk g bc s
  | .vfadd d a b t mk r => Sys2Proof.Machine.execVfadd d a b t mk r s
  | .vfsub d a b t mk r => Sys2Proof.Machine.execVfsub d a b t mk r s
  | .vfmul d a b t mk r => Sys2Proof.Machine.execVfmul d a b t mk r s
  | .vfma d a b t mk r => Sys2Proof.Machine.execVfma d a b t mk r s
  | .vfmin d a b t mk => Sys2Proof.Machine.execVfmin d a b t mk s
  | .vfmax d a b t mk => Sys2Proof.Machine.execVfmax d a b t mk s
  | .vfsgn d a b t mk f => Sys2Proof.Machine.execVfsgn d a b t mk f s
  | .vfcmp c d a b t mk => Sys2Proof.Machine.execVfcmp c d a b t mk s
  | .vfclass d a t mk => Sys2Proof.Machine.execVfclass d a t mk s
  | .vcvt d a sty t mk r => Sys2Proof.Machine.execVcvt d a sty t mk r s
  | .vcvtRes d a sty t q r => Sys2Proof.Machine.execVcvtRes d a sty t q r s
  | .vpack d a t mk sat x => Sys2Proof.Machine.execVpack d a t mk sat x s
  | .vunpack d a t mk x => Sys2Proof.Machine.execVunpack d a t mk x s
  | .vperm d a b t mk => Sys2Proof.Machine.execVperm d a b t mk s
  | .vperm2 d a b t mk => Sys2Proof.Machine.execVperm2 d a b t mk s
  | .vslide d a rs t mk up => Sys2Proof.Machine.execVslide d a rs t mk up s
  | .vrot d a rs t mk up => Sys2Proof.Machine.execVrot d a rs t mk up s
  | .vbcast d rs t mk => Sys2Proof.Machine.execVbcast d rs t mk s
  | .vbcastEl d a rs t mk => Sys2Proof.Machine.execVbcastEl d a rs t mk s
  | .vextr k a rs t => Sys2Proof.Machine.execVextr k a rs t s
  | .vins d k rs t => Sys2Proof.Machine.execVins d k rs t s
  | .viota d t mk => Sys2Proof.Machine.execViota d t mk s
  | .viotaIdx d t => Sys2Proof.Machine.execViotaIdx d t s
  | .vcompress d a t mk => Sys2Proof.Machine.execVcompress d a t mk s
  | .vexpand d a t mk => Sys2Proof.Machine.execVexpand d a t mk s
  | .vmov d a t mk g bc => Sys2Proof.Machine.execVmov d a t mk g bc s
  | .vzip d a b t => Sys2Proof.Machine.execVzip d a b t s
  | .vunzip d a t => Sys2Proof.Machine.execVunzip d a t s
  | .mlog d a b tb => Sys2Proof.Machine.execMlog d a b tb s
  | .mpopc a rs t mk => Sys2Proof.Machine.execMpopc a rs t mk s
  | .mfirst a rs t mk last => Sys2Proof.Machine.execMfirst a rs t mk last s
  | .mfromNz d a t mk => Sys2Proof.Machine.execMfromNz d a t mk s
  | .mfromPre d rs t mk => Sys2Proof.Machine.execMfromPre d rs t mk s
  | .mfromSuf d rs t mk => Sys2Proof.Machine.execMfromSuf d rs t mk s
  | .vexp2 d a t mk => Sys2Proof.Machine.execVexp2 d a t mk s
  | .vlog2 d a t mk => Sys2Proof.Machine.execVlog2 d a t mk s
  | .vrcp d a t mk => Sys2Proof.Machine.execVrcp d a t mk s
  | .vrsqrt d a t mk => Sys2Proof.Machine.execVrsqrt d a t mk s
  | .vsqrt d a t mk => Sys2Proof.Machine.execVsqrt d a t mk s
  | .vsincos d a t mk cs => Sys2Proof.Machine.execVsincos d a t mk cs s
  | .vtanh d a t mk => Sys2Proof.Machine.execVtanh d a t mk s
  | .redSum q a t mk sq => Sys2Proof.Machine.execRedSum q a t mk sq s
  | .redMax q a b t mk mn => Sys2Proof.Machine.execRedMax q a b t mk mn s
  | .redmvGet q rs t => Sys2Proof.Machine.execRedmvGet q rs t s
  | .redmvIdx q rs => Sys2Proof.Machine.execRedmvIdx q rs s
  | .redmvAdd q qa => Sys2Proof.Machine.execRedmvAdd q qa s
  | .redmvSet q rs => Sys2Proof.Machine.execRedmvSet q rs s
  | .redclr l v => Sys2Proof.Machine.execRedclr l v s
  | .vcvtsxTo d a t mk f => Sys2Proof.Machine.execVcvtsxTo d a t mk f s
  | .vcvtsxFrom d a h t mk f => Sys2Proof.Machine.execVcvtsxFrom d a h t mk f s
  | .vmatch d a b t mk part => Sys2Proof.Machine.execVmatch d a b t mk part s
  | .mshape bands => Sys2Proof.Machine.execMshape bands s
  | .mldw l k rs => Sys2Proof.Machine.execMldw l k rs s
  | .mldwExpand l k j rs g n => Sys2Proof.Machine.execMldwExpand l k j rs g n s
  | .mma c l k rs acc => Sys2Proof.Machine.execMma c l k rs acc s
  | .mmaAbsorb c l k j rs n acc => Sys2Proof.Machine.execMmaAbsorb c l k j rs n acc s
  | .mzero c => Sys2Proof.Machine.execMzero c s
  | .mdrain c k rs relu sat r => Sys2Proof.Machine.execMdrain c k rs relu sat r s
  | .msync => Sys2Proof.Machine.execMsync s
  | .cpy tk da db => Sys2Proof.Machine.execCpy tk da db s
  | .cpyPeer tk da db rs => Sys2Proof.Machine.execCpyPeer tk da db rs s
  | .cpym tk da db rs => Sys2Proof.Machine.execCpym tk da db rs s
  | .gath tk da rs dat flt => Sys2Proof.Machine.execGath tk da rs dat flt s
  | .gathList tk da db rs dat flt => Sys2Proof.Machine.execGathList tk da db rs dat flt s
  | .kvput tk db rs => Sys2Proof.Machine.execKvput tk db rs s
  | .kvalloc tk rs => Sys2Proof.Machine.execKvalloc tk rs s
  | .kvgrow tk rs => Sys2Proof.Machine.execKvgrow tk rs s
  | .kvfree tk rs => Sys2Proof.Machine.execKvfree tk rs s
  | .coll tk da db rs o => Sys2Proof.Machine.execColl tk da db rs o s
  | .strm tk da db => Sys2Proof.Machine.execStrm tk da db s
  | .strmTag tk da db => Sys2Proof.Machine.execStrmTag tk da db s
  | .steepld f rs ms => Sys2Proof.Machine.execSteepld f rs ms s
  | .mupdBegin tk rs => Sys2Proof.Machine.execMupdBegin tk rs s
  | .mupdWrite tk db rs => Sys2Proof.Machine.execMupdWrite tk db rs s
  | .mupdCommit tk rs => Sys2Proof.Machine.execMupdCommit tk rs s
  | .mupdAbort tk rs => Sys2Proof.Machine.execMupdAbort tk rs s
  | .engqStat d rs q => Sys2Proof.Machine.execEngqStat d rs q s
  | .engqVmask d rs q => Sys2Proof.Machine.execEngqVmask d rs q s
  | .engqDepth d q => Sys2Proof.Machine.execEngqDepth d q s
  | .engqLast d q => Sys2Proof.Machine.execEngqLast d q s
  | .resultWriteback t => Sys2Proof.Machine.execResultWriteback t s
  | .asyncCauseTaken t => Sys2Proof.Machine.execAsyncCauseTaken t s
  | .feTagOperation t => Sys2Proof.Machine.execFeTagOperation t s
  | .feTimeout t => Sys2Proof.Machine.execFeTimeout t s
  | .pipeWaitComplete t => Sys2Proof.Machine.execPipeWaitComplete t s
  | .pipeTimeout t => Sys2Proof.Machine.execPipeTimeout t s
  | .barrierEpisodeComplete cl g => Sys2Proof.Machine.execBarrierEpisodeComplete cl g s
  | .gangYieldRendezvous cl g => Sys2Proof.Machine.execGangYieldRendezvous cl g s
  | .holdOverrun t => Sys2Proof.Machine.execHoldOverrun t s
  | .engineCommandStart t q => Sys2Proof.Machine.execEngineCommandStart t q s
  | .engineCommandComplete t q => Sys2Proof.Machine.execEngineCommandComplete t q s
  | .kvMapCommand t q => Sys2Proof.Machine.execKvMapCommand t q s
  | .kvgrowChunkMove t => Sys2Proof.Machine.execKvgrowChunkMove t s
  | .strmTagTimeout t => Sys2Proof.Machine.execStrmTagTimeout t s
  | .collectiveAllArrived t => Sys2Proof.Machine.execCollectiveAllArrived t s
  | .collectiveTimeout t => Sys2Proof.Machine.execCollectiveTimeout t s
  | .mmaRowCommit t => Sys2Proof.Machine.execMmaRowCommit t s
  | .mldwLatchLoaded t l => Sys2Proof.Machine.execMldwLatchLoaded t l s
  | .mdrainComplete t => Sys2Proof.Machine.execMdrainComplete t s
  | .steepldSlotLoaded t => Sys2Proof.Machine.execSteepldSlotLoaded t s
  | .bandIdleGate t b => Sys2Proof.Machine.execBandIdleGate t b s
  | .bandWakeComplete t b => Sys2Proof.Machine.execBandWakeComplete t b s
  | .parknextRead die => Sys2Proof.Machine.execParknextRead die s
  | .parkansRetry die id => Sys2Proof.Machine.execParkansRetry die id s
  | .parkansFail die id => Sys2Proof.Machine.execParkansFail die id s
  | .parkTimeout die id => Sys2Proof.Machine.execParkTimeout die id s
  | .spawnJoinCheck n => Sys2Proof.Machine.execSpawnJoinCheck n s
  | .spawnCheckReturn n => Sys2Proof.Machine.execSpawnCheckReturn n s
  | .spawnRecordEnqueue n => Sys2Proof.Machine.execSpawnRecordEnqueue n s
  | .joinEndArrival n => Sys2Proof.Machine.execJoinEndArrival n s
  | .graceExpiry h => Sys2Proof.Machine.execGraceExpiry h s
  | .killNotice n => Sys2Proof.Machine.execKillNotice n s
  | .killTaken t => Sys2Proof.Machine.execKillTaken t s
  | .agingStep cl n => Sys2Proof.Machine.execAgingStep cl n s
  | .steal t => Sys2Proof.Machine.execSteal t s
  | .gangReservation cl => Sys2Proof.Machine.execGangReservation cl s
  | .quantumExpiry t => Sys2Proof.Machine.execQuantumExpiry t s
  | .deepPreemption t => Sys2Proof.Machine.execDeepPreemption t s
  | .quotaStopTimeout x => Sys2Proof.Machine.execQuotaStopTimeout x s
  | .quotaCharge x uj => Sys2Proof.Machine.execQuotaCharge x uj s
  | .quotaRefill x => Sys2Proof.Machine.execQuotaRefill x s
  | .boostEdge die => Sys2Proof.Machine.execBoostEdge die s
  | .frequencyRequest cl p => Sys2Proof.Machine.execFrequencyRequest cl p s
  | .railStep rail => Sys2Proof.Machine.execRailStep rail s
  | .thermalCapStep cl up => Sys2Proof.Machine.execThermalCapStep cl up s
  | .overCurrent die => Sys2Proof.Machine.execOverCurrent die s
  | .idleTargetReached t => Sys2Proof.Machine.execIdleTargetReached t s
  | .tileWakeComplete t => Sys2Proof.Machine.execTileWakeComplete t s
  | .notify x n => Sys2Proof.Machine.execNotify x n s
  | .launchRecordFetch x => Sys2Proof.Machine.execLaunchRecordFetch x s
  | .stampRefetch x => Sys2Proof.Machine.execStampRefetch x s
  | .cqhead x n => Sys2Proof.Machine.execCqhead x n s
  | .contextActivate x => Sys2Proof.Machine.execContextActivate x s
  | .contextEnd x => Sys2Proof.Machine.execContextEnd x s
  | .contextEndComplete x => Sys2Proof.Machine.execContextEndComplete x s
  | .segmentOwnerWrite t g o => Sys2Proof.Machine.execSegmentOwnerWrite t g o s
  | .segmentZeroComplete t g => Sys2Proof.Machine.execSegmentZeroComplete t g s
  | .caddyRegionWrite t imm hi w => Sys2Proof.Machine.execCaddyRegionWrite t imm hi w s
  | .controlRegionWrite off w => Sys2Proof.Machine.execControlRegionWrite off w s
  | .hostApertureAccess off w => Sys2Proof.Machine.execHostApertureAccess off w s
  | .peerWriteInbound x va w => Sys2Proof.Machine.execPeerWriteInbound x va w s
  | .attestationGo => Sys2Proof.Machine.execAttestationGo s
  | .pwrcmdWarmOff => Sys2Proof.Machine.execPwrcmdWarmOff s
  | .pwrcmdColdOff => Sys2Proof.Machine.execPwrcmdColdOff s
  | .powerFailWarning => Sys2Proof.Machine.execPowerFailWarning s
  | .peatSave t => Sys2Proof.Machine.execPeatSave t s
  | .modulePowerDown retained => Sys2Proof.Machine.execModulePowerDown retained s
  | .powerRestore => Sys2Proof.Machine.execPowerRestore s
  | .channelTrained ch => Sys2Proof.Machine.execChannelTrained ch s
  | .clusterReady cl => Sys2Proof.Machine.execClusterReady cl s
  | .cdwrReady die => Sys2Proof.Machine.execCdwrReady die s
  | .tileResume t => Sys2Proof.Machine.execTileResume t s
  | .mupdComplete t => Sys2Proof.Machine.execMupdComplete t s
  | .retrainWindowStart ch => Sys2Proof.Machine.execRetrainWindowStart ch s
  | .retrainWindowEnd ch temp => Sys2Proof.Machine.execRetrainWindowEnd ch temp s
  | .ageingReplan dom ps low => Sys2Proof.Machine.execAgeingReplan dom ps low s
  | .timingStretch cl => Sys2Proof.Machine.execTimingStretch cl s
  | .marginVoltageRaise cl => Sys2Proof.Machine.execMarginVoltageRaise cl s
  | .caddyPatrol t line lost => Sys2Proof.Machine.execCaddyPatrol t line lost s
  | .writeReachesHome t n => Sys2Proof.Machine.execWriteReachesHome t n s
  | .yaltanLinkFailure l => Sys2Proof.Machine.execYaltanLinkFailure l s
  | .yaltanLinkReady l => Sys2Proof.Machine.execYaltanLinkReady l s

end Sys2Proof.Machine
end

