-- ==== Sys2Proof/Machine/Time.lean ====
section
/-! DEFINITION. The passing of time: device time with every timer (R26, R276, R402), the cycles of a tile, what a cache
may give up at any moment (R95, R121, R356), the allocation of frames (R97), the writes of the host and the errors of
memories (R96, R391). -/

namespace Sys2Proof.Machine

/-- The hold timer of a task after some ns: it runs above depth 0 outside handler mode, and stands at zero once there
(R265, R376). -/
def Ctl.holdTick (c : Ctl) (ns : Nat) : Ctl :=
  if c.holdDepth == 0 || c.hnd then c else { c with holdLeft := BitVec.ofNat 32 (c.holdLeft.toNat - ns) }

/-- The HOLD_OVERRUN that arises when the hold timer of a task reaches zero in some ns (R265, R375). -/
def Ctl.overruns (c : Ctl) (ns : Nat) : List TrapRec :=
  if c.holdDepth != 0 && !c.hnd && decide (0 < c.holdLeft.toNat) && decide (c.holdLeft.toNat ≤ ns) then
    [{ cause := causeHoldOverrun, sub := 0, slot := 11, replay := false, step := false, addr := (c.holdTick ns).holdWord, pc := 0 }]
  else []

/-- The head command of a queue, waiting inside itself: a tagged stream for a word to become empty, a collective for its members
(R161, R170). -/
def EngQueue.tick (q : EngQueue) (ns : Nat) (tagged : Bool) : EngQueue :=
  { q with cmds := match q.cmds with
    | [] => []
    | c :: l => (match c.instr with
      | .strmTag .. => if tagged then { c with leftNs := c.leftNs - ns } else c
      | _ => { c with leftNs := c.leftNs - ns }) :: l }

/-- The timers of a tile: hold, quantum, waits, wakes, engine waits and the idle interval. Those of a tile that still
stands in Peat are paused (R402). `broke` says that the context of its task has no quota (R322), `tagged` that its tagged stream
waits for a word (R161). -/
def Tile.tick (x : Tile) (ns : Nat) (broke tagged : Bool) : Tile :=
  if x.peat.held then x
  else
    { x with
      regs := match x.run with
        | none => x.regs
        | some _ => { x.regs with ctl := x.regs.ctl.holdTick ns }
      run := x.run.map fun r =>
        { r with
          ranNs := r.ranNs + ns, brokeNs := if broke then r.brokeNs + ns else 0
          async := r.async ++ x.regs.ctl.overruns ns }
      wait := x.wait.map fun w => { w with leftNs := w.leftNs - ns }
      eng := x.eng.map (·.tick ns tagged)
      power := { x.power with
        idleNs := if x.power.st == .gated then x.power.idleNs + ns else x.power.idleNs
        waking := x.power.waking.map (· - ns)
        ballast := x.power.ballast - ns } }

/-- The grace timer of a quorum join (R285). -/
def JoinSlot.tick (j : JoinSlot) (ns : Nat) : JoinSlot :=
  { j with join := j.join.map fun r =>
      { r with quorum := r.quorum.map fun q => { q with graceLeft := q.graceLeft.map (· - ns) } } }

/-- The timers of a cluster: the ages of its queued records and, where the module's timers run, the grace timers of its joins
(R402). -/
def Cluster.tick (k : Cluster) (ns : Nat) (all : Bool) : Cluster :=
  { k with
    queue := k.queue.map fun q => { q with waited := q.waited + ns }.age k.agingNs
    joins := if all then k.joins.map fun p => (p.1, p.2.tick ns) else k.joins }

/-- The timers of a die: parked requests (R357). -/
def Die.tick (d : Die) (ns : Nat) : Die := { d with parked := d.parked.map fun p => { p with leftNs := p.leftNs - ns } }

/-- The context on a tile has no quota (R322). -/
def State.brokeAt (s : State) (t : TileIx) : Bool :=
  match (s.tile t).run with
  | none => false
  | some r => !s.hasQuota r.record.ctxn

/-- Device time passes (R26). Every other timer stands still in an outage: those of a tile until it resumes, and the grace timers,
the refill periods and the parked requests until every tile has (R402). -/
def State.elapse (s : State) (ns : Nat) : State :=
  let s1 := { s with time := s.time + BitVec.ofNat 64 ns }
  if s.phase == .up then
    let busy := s.workers
    let all := s.timersRun
    { s1 with
      tiles := Vector.ofFn fun i : Fin 256 => (s.tiles[i]).tick ns (s.brokeAt (BitVec.ofNat 8 i.val)) (s.tagWaits (BitVec.ofNat 8 i.val))
      clusters := s.clusters.map (·.tick ns all)
      dies := if all then s.dies.map (·.tick ns) else s.dies
      ctxs := Vector.ofFn fun i : Fin 128 =>
        let x := s.ctxs[i]
        { x with
          periodLeft := if all then x.periodLeft - ns else x.periodLeft
          worked := x.worked || busy.contains (BitVec.ofNat 7 i.val) } }
  else s1

/-- A tile in ON spends cycles without issuing (R26); in an outage it spends none (R402). -/
def State.spendCycles (s : State) (t : TileIx) (n : Nat) : State :=
  s.modTile t fun x => if s.phase == .up && x.power.st == .on && !x.peat.held then { x with cyc := x.cyc + n } else x

/-- The caches of a tile and its cluster give up what they hold for an address: nothing keeps a line or a translation
(R95, R121, R356). -/
def State.evict (s : State) (t : TileIx) (va : BitVec 48) : State :=
  let line := va &&& 0xFFFFFFFFFFC0#48
  (s.modTile t fun x =>
    { x with
      l1 := x.l1.filter fun l => l.va != line
      ic := x.ic.filter fun l => l.va != line
      tlb := x.tlb.filter fun e => !e.covers e.asid va }).modCluster (clusterOf t) fun k =>
    { k with tlb := k.tlb.filter fun e => !e.covers e.asid va }

/-- The cache of a die gives up a line (R95). -/
def State.castOut (s : State) (d : DieIx) (line : Nat) : State :=
  s.modDie d fun x => { x with cache := x.cache.filter fun l => l.pa != 64 * line }

/-- The memory controller allocates a 64 KiB frame of device memory from the free pool and zeroes it: nothing of its earlier
contents is left, in memory, in a cache or on its way (R97, R120). -/
def State.allocate (s : State) (f : Nat) : State :=
  if numIn s.frames f || s.phase != .up then s
  else
    let out (pa : Nat) : Bool := pa / 65536 != f
    let ws (l : List PendingWrite) : List PendingWrite := l.filter fun w => w.host || w.ctl || out w.addr
    { s with
      frames := numPut s.frames f
      gm := s.gm.filter fun c => out c.1
      gmPoison := s.gmPoison.filter fun l => out (64 * l)
      copies := numDel s.copies f
      tiles := s.tiles.map fun x =>
        { x with
          l1 := x.l1.filter fun l => out l.pa, wbuf := ws x.wbuf
          mx := { x.mx with ops := x.mx.ops.map fun m => { m with held := m.held.filter fun h => h.1 != 256 || out h.2.1 } } }
      clusters := s.clusters.map fun k => { k with wbuf := ws k.wbuf }
      dies := s.dies.map fun d => { d with cache := d.cache.filter fun l => out l.pa, wbuf := ws d.wbuf } }

/-- A frame goes back to the free pool (R97). -/
def State.freeFrame (s : State) (f : Nat) : State := { s with frames := numDel s.frames f }

/-- The host writes its own memory (R96). -/
def State.hostWrite (s : State) (a : Nat) (bs : List Byte) : State := { s with host := cellsWrite s.host a bs }

/-- An uncorrectable error appears: what reads the protected structure meets it from then on (R391, R393, R406). -/
def State.damage (s : State) : Damage → State
  | .word t w => s.modTile t fun x => { x with poison := numPut x.poison w }
  | .line l => { s with gmPoison := numPut s.gmPoison l }
  | .entry t c r n => s.modTile t fun x => { x with accPoison := numPut x.accPoison (4096 * c.toNat + 64 * r.toNat + n.toNat) }
  | .reg t r => s.modTile t fun x => { x with regPoison := if x.regPoison.contains r then x.regPoison else r :: x.regPoison }
  | .caddy t l => s.modTile t fun x => { x with caddy := { x.caddy with weak := numPut x.caddy.weak l.toNat } }

/-- The junction sensors of a die: one reads below -20 °C, or none does (R411, R413). -/
def State.chill (s : State) (d : DieIx) (below : Bool) : State := s.modDie d fun x => { x with chilled := below }

/-- The ballast pattern runs in the matrix bands of a tile: behind a mass kill, or in an idle tile of a cold die, until a task is
selected for it (R328, R411). It changes nothing that a program can read. -/
def State.ballastRuns (s : State) (t : TileIx) : Bool :=
  let x := s.tile t
  x.run.isNone && (decide (0 < x.power.ballast) || ((s.die (dieOf t)).chilled && s.phase == .up))

/-- The memory manager comes to hold a clean copy of a frame, or drops it (R393). -/
def State.holdCopy (s : State) (f : Nat) (held : Bool) : State :=
  { s with copies := if held then numPut s.copies f else numDel s.copies f }

end Sys2Proof.Machine
end

