-- ==== Sys2Proof/Machine/Issue.lean ====
section
/-! DEFINITION. A turn of a tile: what falls due at the bundle boundary, an instruction that has waited, or the issue of
the next bundle with all its slots (R21, R36, R37, R47, R275, R373, R375). -/

namespace Sys2Proof.Machine

/-- The state in which a slot of the bundle executes. -/
def State.atSlot (s : State) (si : SlotInstr) : State :=
  s.modIssue fun i => { i with slot := si.slot.index, word := si.word, mark := .done }

/-- What the slots of a bundle say before any takes effect (R22, R373). -/
inductive Probe where
  | go
  | wait
  | trap (f : TrapRec)
  | stop (o : Out)

/-- Every slot tried on the state before the bundle: a slot that must wait holds the bundle, and the first slot with an
issue cause traps it (R37, R47, R373). -/
def State.probe (s : State) : List SlotInstr → Probe
  | [] => .go
  | si :: rest =>
    match exec si.instr (s.atSlot si) with
    | .next s' =>
      match s'.t.issue.mark, s'.t.issue.pend with
      | .wait, _ => .wait
      | .issueTrap, some f =>
        match s.probe rest with
        | .wait => .wait
        | _ => .trap f
      | _, _ => s.probe rest
    | o => .stop o

/-- A slot that cannot yet execute is held back: behind the wait of its bundle, or as that wait. -/
def State.holdSlot (s : State) (si : SlotInstr) : State :=
  match s.t.wait with
  | some w => s.modT fun x => { x with wait := some { w with rest := w.rest ++ [si] } }
  | none => { (s.modT fun x => { x with wait := some (slotWait si x.issue [] s.nextOrder) }) with nextOrder := s.nextOrder + 1 }

/-- The slots of a bundle executed in order, each reading the registers before the bundle (R21); nothing more once the
task has left its tile. Behind a slot that waits, an instruction that leaves the tile and one that would wait too are held
back. -/
def State.runSlots (s : State) : List SlotInstr → Out
  | [] => .next s
  | si :: rest =>
    if s.t.wait.isSome && leaves si.instr then (s.holdSlot si).runSlots rest
    else
      match exec si.instr (s.atSlot si) with
      | .next s' =>
        if !s'.t.issue.src.isSome then .next s'
        else if s'.t.issue.mark == .wait then (s.holdSlot si).runSlots rest
        else if s.t.wait.isSome && s'.t.wait != s.t.wait then (s.holdSlot si).runSlots rest
        else s'.runSlots rest
      | o => o

/-- The slots in the order they take effect: the instructions of the C slot that read memory or control registers before the
writes of their bundle (R21, R108), the M slot before the X and E slots (R128), and the rest of the C slot last. -/
def slotOrder (l : List SlotInstr) : List SlotInstr :=
  let first (si : SlotInstr) : Bool := match si.instr with
    | .spawng .. => true
    | .movc .. => true
    | _ => false
  l.filter first ++ (l.filter fun si => si.slot != .c && !first si) ++ l.filter fun si => si.slot == .c && !first si

/-- The end of a bundle or of a part of it: a wait keeps the issue of the bundle, and otherwise the bundle ends (R36, R82,
R373). -/
def State.closeBundle (s : State) : State :=
  let i := s.t.issue
  if i.src.isNone then s
  else match s.t.wait with
    | some w => s.modT fun x =>
      { x with issue := .idle, wait := some { w with issue := { i with slot := w.issue.slot, word := w.issue.word } } }
    | none => s.settle s.cur i

/-- The scoreboard after the slots of a bundle have executed at a cycle, and the end of the bundle. -/
def State.finish (s : State) (cycle : Nat) (l : List SlotInstr) : State :=
  if s.t.issue.src.isNone then
    s.modT fun x => { x with cyc := max x.cyc (cycle + 1), nextIssue := max x.nextIssue (cycle + 1) }
  else (s.modT fun x => { x.score cycle l with cyc := cycle + 1, nextIssue := cycle + 1 }).closeBundle

/-- A deep pre-emption that is due takes the place of the next bundle, once that bundle has no fault (R266, R275). -/
def State.orPreempt (s : State) (k : Out) : Out := if s.preemptDue s.cur then .next (s.deepPreempt s.cur) else k

/-- A cause found before the slots of a bundle execute is taken (R47). -/
def State.trapNow (s : State) (f : TrapRec) : Out := .next (s.takeTrap s.cur f)

/-- The issue of a bundle of slots: the checks of R47, the interlocks, the slots and what follows. -/
def State.issueSlots (s : State) (stall : BitVec 5) (size : Nat) (all : List SlotInstr) : Out :=
  let x := s.t
  let l := match x.replay with
    | none => all
    | some k => all.filter fun si => si.slot.index == k.slot
  let earliest := x.nextIssue + stall.toNat
  match s.earlyTrap s.cur earliest l with
  | some f => s.trapNow f
  | none =>
    if l.any fun si => x.blocked si.instr then s.orPreempt (.next s)
    else
      let cycle := x.issueCycle earliest l
      let s1 := s.modT fun x =>
        { x with cyc := cycle, replay := none, run := x.run.map ({ · with fresh := none })
                 issue := { Issue.idle with
                   src := some x.regs, size := size, replay := x.replay.isSome, flow := x.replay.bind (·.flow) } }
      match s1.probe l with
      | .wait => s.orPreempt (.next s)
      | .trap f => { s with freeCount := s.freeCount + 1 }.trapNow f
      | .stop o => o
      | .go =>
        s.orPreempt <|
          match s1.runSlots (slotOrder l) with
          | .next s2 => .next (s2.finish cycle l)
          | o => o

/-- A bundle that has none before it waits its whole stall from the cycle in which its line is there (R37). -/
def Tile.startFirst (x : Tile) : Tile := if x.first then { x with first := false, nextIssue := x.cyc } else x

/-- A padding header that takes no cycle is no bundle for the count of R37. -/
def isFree : Instr → Bool
  | .paddingHeader stall => stall == 0
  | _ => false

/-- The issue of the bundle at the pc (R34 to R37, R47, R48). -/
def State.issueBundle (s : State) : Out :=
  match s.fetchLine s.cur with
  | .parked s1 => .next s1
  | .trap f => s.trapNow f
  | .ok bytes s0 =>
    let s1 := s0.modT (·.startFirst)
    match decodeBundle bytes with
    | .error r => s1.trapNow (rejectTrap r s1.regs.pc)
    | .ok (.header i) => s1.orPreempt (exec i ((if isFree i then s0 else s1).modT fun x =>
        { x with replay := none, run := x.run.map ({ · with fresh := none }) }))
    | .ok (.slots stall size l) => s1.issueSlots stall size l

/-- An instruction that waits is tried again with the registers its bundle read (R357); once it has executed, the rest of
its bundle does. -/
def State.resumeWait (s : State) (w : Wait) : Out :=
  if !w.begun && s.t.blocked w.instr then .next s
  else
    let s1 := s.modT fun x =>
      { x with wait := none, issue := { w.issue with mark := .done, pend := none, order := some w.order } }
    match exec w.instr s1 with
    | .next s2 =>
      if s2.t.issue.src.isNone then .next s2
      else if s2.t.issue.mark == .wait then .next s
      else
        let s3 := s2.modIssue fun i =>
          { i with mark := .done, order := none
                   pend := w.issue.pend.orElse fun _ => i.pend.map fun f => { f with replay := f.replay || !f.step } }
        match s3.t.wait with
        | some w2 => .next (s3.modT fun x => { x with wait := some { w2 with rest := w.rest } }).closeBundle
        | none =>
          match (s3.modT (·.touch w.instr)).runSlots w.rest with
          | .next s4 => .next s4.closeBundle
          | o => o
    | o => o

/-- The registers of the task while its handler runs, and back: an access issued before the trap writes the task's copies of
the banked registers (R377). -/
def Tile.inTask (x : Tile) : Tile :=
  match x.banked with
  | none => x
  | some b => { x with regs := x.regs.unbank b, banked := none }

/-- The tile back in its handler: the task's copies are banked and the handler's return. -/
def Tile.inHandler (x y : Tile) : Tile :=
  match y.banked with
  | none => x
  | some _ => { x with regs := x.regs.unbank y.regs.bank, banked := some x.regs.bank }

/-- An access of the M slot that stands beside the task's bundles is tried again with the registers its bundle read, unless its
request is still to be answered (R108, R118, R357); none where it must still wait. -/
def State.retryAcc (s : State) (a : Wait) : Option Out :=
  let y := s.t
  let swap := y.banked.isSome && !a.src.ctl.hnd
  let s1 := s.modT fun x =>
    { (if swap then x.inTask else x).dropAcc a with
      wait := none, issue := { a.issue with mark := .done, pend := none, oob := none, order := some a.order } }
  let back (s : State) : State := s.modT fun x =>
    { (if swap then x.inHandler y else x) with wait := y.wait, issue := y.issue }
  if s.hasParked s.cur (.access a.order) then none
  else match exec a.instr s1 with
  | .next s2 =>
    if s2.t.issue.mark == .wait then none
    else match s2.t.issue.pend with
      | some f => some (.next ((back s2).accFault s.cur a f.cause f.addr f.sub))
      | none => some (.next ((back s2).modT (·.touch a.instr)))
  | o => some o

/-- The first access that can be performed now, of those that stand beside the task's bundles. -/
def State.retryAccs (s : State) (l : List Wait) : Option Out := firstOf s.retryAcc l

/-- The tile has power, is awake, and a task is in its slot. -/
def Tile.running (x : Tile) : Bool :=
  x.run.isSome && x.power.st == .on && x.power.waking.isNone && x.halted.isNone && !x.peat.held

/-- What a tile does at a bundle boundary: a cause that is pending there, or the next bundle (R265, R275, R375). -/
def State.boundary (s : State) : Out :=
  let x := s.t
  if x.overrunNext then .next (s.takeHoldOverrun s.cur)
  else if x.asyncDue.isSome then .next (s.takeAsync s.cur)
  else if s.hasParked s.cur .fetch then s.orPreempt (.next s)
  else s.issueBundle

/-- A tile that has taken a record whose slot is still to be read reads it; a failed translation parks (R311, R357, R390). -/
def State.restoreTurn (s : State) (t : TileIx) (q : Queued) (home : ClusterIx) : State :=
  if s.hasParked t .restore then s
  else match s.slotRead t q.record with
    | .error (.park va m) => if s.parkFull t then s else s.park t q.record.ctxn va .read m .restore
    | .error (.prot va) => s.restoreFail t causeProt (va.signExtend 64)
    | .ok _ => s.dispatch t q home

/-- A turn of tile t. A tile that cannot issue lets its turn pass. -/
def State.issueTurn (s0 : State) (t : TileIx) : Out :=
  let s := State.lapse { s0 with cur := t } t
  let x := s.t
  match x.run with
  | none => .next s
  | some r =>
    if !(s.phase == .up && x.running) then .next s
    else if x.killDue then .next (s.takeKill t)
    else if r.stopped then .next s
    else if let some q := r.restoring then .next (if s.preemptDue t then s.deepPreempt t else s.restoreTurn t q r.home)
    else match s.retryAccs x.accs with
      | some o => o
      | none => match x.wait with
        | some w =>
          if w.begun && (x.watched w || x.engineWaits w || s.hasParked t (.access w.order)) then s.orPreempt (.next s)
          else s.resumeWait w
        | none => s.boundary

/-- The turn of tile `cur` when no turn is scheduled. Where it cannot issue, 1 ns of device time passes. -/
def State.idleTurn (s : State) : Out :=
  if s.phase == .up && s.t.running then s.issueTurn s.cur else .next (s.elapse 1)

end Sys2Proof.Machine
end

