-- ==== Sys2Proof/Machine/Place.lean ====
section
/-! DEFINITION. Placing an instruction before the machine: a running task on tile `cur` with a line of the instruction
cache at its pc. -/

namespace Sys2Proof.Machine

/-- The record of a task of context 0 that belongs to no join and no launch. -/
def placedRec : Rec := Rec.plain (.replicate 8 0) 0 none

/-- A task that stands on a tile with nothing pending. -/
def placedRun (t : TileIx) : Running := placedRec.start (clusterOf t)

/-- The task of a tile, or the placed one. -/
def Tile.placed (x : Tile) (t : TileIx) (asid : BitVec 7) (bytes : List Byte) : Tile :=
  let pc := x.regs.pc &&& 0xFFFFFFFFFFC0#48
  { x with
    regs := { x.regs with pc := pc, ctl := { x.regs.ctl with
      ctxn := if x.run.isSome then x.regs.ctl.ctxn else 0
      sys := x.run.isNone || x.regs.ctl.sys } }
    run := some { x.run.getD (placedRun t) with restoring := none }
    issue := .idle, wait := none, accs := [], replay := none, owed := [], halted := none, pending := []
    ic := ⟨asid, pc, bytes ++ List.replicate (64 - bytes.length) 0⟩ :: x.ic
    power := { x.power with st := .on, waking := none } }

/-- The state with instruction bytes placed where tile `cur` fetches next, and the turn given to that tile. -/
def State.place (s : State) (bytes : List Byte) : State :=
  let asid := (s.ctx s.regs.ctl.ctxn).asid
  { s.modT fun x => x.placed s.cur asid bytes with phase := .up, schedule := [.issue s.cur] }

end Sys2Proof.Machine
end

