-- ==== Sys2Proof/Machine/Step.lean ====
section
/-! DEFINITION. One step of the machine: the next turn of its agents. -/

namespace Sys2Proof.Machine

/-- A turn of the interleaving carried out. -/
def State.turn (s : State) : Turn → Host.Outcome State Fault Refusal
  | .issue t => s.issueTurn t
  | .event i => exec i s
  | .elapse ns => .next (s.elapse ns)
  | .cycles t n => .next (s.spendCycles t n)
  | .engine t q => .next ((s.engineTurn t q).rowTurn t q)
  | .chunk t n key a => .next (s.readChunk t n key a)
  | .evict t va => .next (s.evict t va)
  | .castOut d l => .next (s.castOut d l)
  | .allocate f => .next (s.allocate f)
  | .release f => .next (s.freeFrame f)
  | .host a bs => .next (s.hostWrite a bs)
  | .bar0 off => .next (s.readBar0 off)
  | .cold d mv => .next (s.setCold d mv)
  | .chill d below => .next (s.chill d below)
  | .damage x => .next (s.damage x)
  | .copy f held => .next (s.holdCopy f held)

/-- A step: the first turn of the schedule; with none left, tile `cur` has the turn. Without power nothing happens until
a turn of the schedule restores it. -/
def step (s : State) : Host.Outcome State Fault Refusal :=
  match s.schedule with
  | [] =>
    match s.phase with
    | .down _ => .fault .noPower
    | _ => s.idleTurn
  | u :: rest => ({ s with schedule := rest }).turn u

/-- The state with the bytes of a table word where tile `cur` fetches its next bundle, and a task of context 0 on that
tile ready to issue it (log entry 3). -/
def State.withFetchWord (s : State) (nbits w : Nat) : State := s.place (tableBytes nbits w)

end Sys2Proof.Machine
end

