-- ==== Sys2Proof/Safety.lean ====
section
/-! DEFINITION. What a safe run is. -/

namespace Sys2Proof

/-- A step keeps the machine running: it neither faults nor refuses. -/
def goesOn (s : Machine.State) : Prop := ∃ s', Machine.step s = .next s'

/-- A run of n steps reaches a state without a fault or a refusal on the way. -/
def runsTo (n : Nat) (s t : Machine.State) : Prop :=
  match n with
  | 0 => s = t
  | n + 1 => ∃ u, Machine.step s = .next u ∧ runsTo n u t

end Sys2Proof
end

