-- ==== Sys2Proof/Certificates/Slice0/Obligations.lean ====
section
/-! DEFINITION. The statements for the provers: one proposition for each obligation, over a few words that say what an
instruction changes and what it leaves alone. -/

namespace Sys2Proof.Machine

/-! ### What an instruction changes and leaves -/

/-- Every byte of every memory reads in `t` as it reads in `s`: scratchpads, Caddies, device memory, host memory. -/
def SameBytes (s t : State) : Prop :=
  (∀ x a, cellGet (t.tile x).sp a = cellGet (s.tile x).sp a) ∧
  (∀ x a, cellGet (t.tile x).caddy.bytes a = cellGet (s.tile x).caddy.bytes a) ∧
  (∀ a, cellGet t.gm a = cellGet s.gm a) ∧ ∀ a, cellGet t.host a = cellGet s.host a

/-- Nothing differs but registers of the task on the current tile, and what the issue of its bundle keeps. -/
def OnlyRegs (s t : State) : Prop :=
  t = s.modT (fun x => { x with regs := t.regs, issue := t.t.issue }) ∧ SameBytes s t

/-- From `s` to `t`: scalar register `d` takes `v` (`s0` takes nothing and reads zero), the flags `f` join `FPFLAGS`, and
nothing else differs. -/
structure ScalarOnly (s t : State) (d : SReg) (v : Word) (f : Flags) : Prop where
  value : t.regs.getS d = if d = 0 then 0 else v
  others : ∀ a, a ≠ d → t.regs.getS a = s.regs.getS a
  rest : t.regs = { s.regs with
    s := t.regs.s, ctl := { s.regs.ctl with fpflags := s.regs.ctl.fpflags ||| f } }
  frame : OnlyRegs s t

/-- `i` completes: it writes `v` to scalar register `d`, sets the flags `f`, and leaves the rest. -/
def WritesS (i : Instr) (s : State) (d : SReg) (v : Word) (f : Flags) : Prop :=
  ∃ t, exec i s = .next t ∧ ScalarOnly s t d v f

/-- `i` completes: predicate `d` takes `v` (`p0` takes nothing), the flags `f` join `FPFLAGS`, the rest is left. -/
def WritesP (i : Instr) (s : State) (d : PReg) (v : Bool) (f : Flags) : Prop :=
  ∃ t, exec i s = .next t ∧ t.regs.getP d = (d == 0 || v) ∧ (∀ a, a ≠ d → t.regs.getP a = s.regs.getP a) ∧
    t.regs = { s.regs with p := t.regs.p, ctl := { s.regs.ctl with fpflags := s.regs.ctl.fpflags ||| f } } ∧
    OnlyRegs s t

end Sys2Proof.Machine

open Sys2Proof Sys2Proof.Machine

namespace Sys2Proof.Machine

/-- From `s` to `t`: element i of vector register `d + k`, for the `n` registers of the group and the elements of type
`ty`, is `val k i`; the flags `f` join `FPFLAGS`, and nothing else differs. -/
structure VecOnly (s t : State) (d : VReg) (n : Nat) (ty : ETy) (val : Nat → Nat → Nat) (f : Flags) : Prop where
  value : ∀ k i, k < n → i < ty.count → velem ty (t.regs.getV (vplus d k)) i = val k i
  others : ∀ a : VReg, (∀ k, k < n → a ≠ vplus d k) → t.regs.getV a = s.regs.getV a
  rest : t.regs = { s.regs with
    v := t.regs.v, ctl := { s.regs.ctl with fpflags := s.regs.ctl.fpflags ||| f } }
  frame : OnlyRegs s t

/-- `i` completes with the `n` vector registers from `d` as `val` says, and the flags `f`. -/
def WritesV (i : Instr) (s : State) (d : VReg) (n : Nat) (ty : ETy) (val : Nat → Nat → Nat) (f : Flags) : Prop :=
  ∃ t, exec i s = .next t ∧ VecOnly s t d n ty val f

/-- `i` completes: mask register `d` takes the bits `val` below `n` and zeros above, the flags `f` join `FPFLAGS`, and
nothing else differs. -/
def WritesM (i : Instr) (s : State) (d : MReg) (n : Nat) (val : Nat → Bool) (f : Flags) : Prop :=
  ∃ t, exec i s = .next t ∧ (∀ j, j < 1024 → (t.regs.getM d).getLsbD j = (decide (j < n) && val j)) ∧
    (∀ a, a ≠ d → t.regs.getM a = s.regs.getM a) ∧
    t.regs = { s.regs with m := t.regs.m, ctl := { s.regs.ctl with fpflags := s.regs.ctl.fpflags ||| f } } ∧
    OnlyRegs s t

/-- `i` completes: reduction latch `q` takes `v`, the flags `f` join `FPFLAGS`, and nothing else differs. -/
def WritesQ (i : Instr) (s : State) (q : QReg) (v : RedLatch) (f : Flags) : Prop :=
  ∃ t, exec i s = .next t ∧ t.regs.getQ q = v ∧ (∀ a, a ≠ q → t.regs.getQ a = s.regs.getQ a) ∧
    t.regs = { s.regs with q := t.regs.q, ctl := { s.regs.ctl with fpflags := s.regs.ctl.fpflags ||| f } } ∧
    OnlyRegs s t

/-- The flags of `n` registers of `c` elements: a flag is set exactly where an element that the mask governs sets it. -/
def FlagsOf (f : Flags) (n c : Nat) (on : Nat → Bool) (g : Nat → Nat → Flags) : Prop :=
  ∀ j, f.getLsbD j = true ↔ ∃ k i, k < n ∧ i < c ∧ on i = true ∧ (g k i).getLsbD j = true

/-- Two register groups are the same group or have no register in common (R192). -/
def Apart (d : VReg) (gd : Nat) (a : VReg) (ga : Nat) : Prop :=
  (d = a ∧ gd = ga) ∨ d.toNat + gd ≤ a.toNat ∨ a.toNat + ga ≤ d.toNat

/-- The element an instruction leaves in place where its mask does not govern (R190). -/
def governedBy (s : State) (ty : ETy) (mk : MReg) (d : VReg) (val : Nat → Nat → Nat) (k i : Nat) : Nat :=
  if (s.rdM mk).getLsbD i = true then val k i else velem ty (s.rdV (vplus d k)) i

/-- Element i of register k of the second operand: element 0 of `vb` under `.B` (R191). -/
def secondOf (s : State) (ty : ETy) (b : VReg) (bc : Bool) (k i : Nat) : Nat :=
  if bc = true then velem ty (s.rdV b) 0 else velem ty (s.rdV (vplus b k)) i

end Sys2Proof.Machine

namespace Sys2Proof.Machine

/-- Every byte of every scratchpad reads in `t` as it reads in `s`. -/
def SameScratch (s t : State) : Prop := ∀ x a, cellGet (t.tile x).sp a = cellGet (s.tile x).sp a

/-- A load of elements, each an address and a length, meets no refusal and no wait in `s`: it reads the bytes `bss` and
leaves `s1`. It waits for no access of its task before it (R108). In the scratchpad no segment is being zeroed and no word
read is poisoned; a Caddy load passes R93; a global one passes R94, has its translations, and meets no poisoned line that
the memory manager could not refill (R393). -/
def Reads (s : State) (spc : Space) (els : List (Word × Nat)) (s1 : State) (bss : List (List Byte)) : Prop :=
  match spc with
  | .sp =>
    s.mustWait (readsOf .sp els) = false ∧
    (∀ e ∈ els, s.spWaits s.cur s.ctxn e.1.toNat e.2 = false ∧ s.spPoisoned s.cur s.ctxn e.1.toNat e.2 = none) ∧
    s1 = s.offendIf s.cur false (s.lowestBad s.ctxn els) ∧
    bss = els.map fun e => s.spRead s.cur s.ctxn true e.1.toNat e.2
  | .cd => s.cdStop els = none ∧ s1 = s ∧ bss = els.map fun e => s.cdRead s.cur e.1.toNat e.2
  | .g =>
    (∀ e ∈ els, canonicalRange e.1 e.2 = true) ∧ s.t.ctlPending = false ∧ s.mustWait (readsOf .g els) = false ∧
    ∃ s0 ls, State.planAll s.cur s.ctxn .read true s els = .ok (s0, ls) ∧
      let s0' := s0.refill ls
      firstOf s0'.gPoisoned ls = none ∧ (s1, bss) = State.fetchAll s0'.cur s0'.ctxn s0' ls

/-- A store of elements, each an address with its bytes, meets no refusal and no wait in `s`, and leaves `s1`: it
writes inside the member frame (R129), and waits for no access of its task before it (R108, R118). -/
def Stores (s : State) (spc : Space) (els : List (Word × List Byte)) (s1 : State) : Prop :=
  let lens := els.map fun e => (e.1, e.2.length)
  s.unsafeAt spc lens = none ∧
  match spc with
  | .sp =>
    s.mustWait (writesOf .sp lens) = false ∧ (∀ e ∈ lens, s.spWaits s.cur s.ctxn e.1.toNat e.2 = false) ∧
    s1 = (s.offendIf s.cur true (s.lowestBad s.ctxn lens)).spStoreAll els
  | .cd => False
  | .g =>
    (∀ e ∈ lens, canonicalRange e.1 e.2 = true) ∧ s.mustWait (writesOf .g lens) = false ∧
    ∃ s0 ls, State.planAll s.cur s.ctxn .write false s lens = .ok (s0, ls) ∧
      s1 = s0.sendAll s0.cur s0.ctxn none ls (els.map (·.2))

/-- The `n` bytes from scratchpad address `a` lie at offset `o` of tile `h`, in segments that the task's context owns and
that are not being zeroed, on words that are not poisoned. -/
def SpPlain (s : State) (a : Word) (n : Nat) (h : TileIx) (o : Nat) : Prop :=
  spHome s.cur a.toNat = some h ∧ o = a.toNat % 2 ^ 21 ∧ o + n ≤ 2 ^ 21 ∧
  ∀ j, j < n → (s.tile h).owns s.ctxn (o + j) = true ∧ (s.tile h).zeroing s.ctxn (o + j) = false ∧
    numIn (s.tile h).poison ((o + j) / 8) = false

/-- The bytes at `n` offsets of a tile's scratchpad, lowest first. -/
def spBytes (s : State) (h : TileIx) (o n : Nat) : List Byte := (List.range n).map fun j => cellGet (s.tile h).sp (o + j)

/-- From `s` to `t`: the bytes `bs` stand at offset `o` of the scratchpad of tile `h`, whose words touched are full; every
other byte of every memory, every other tag, and every register of every tile is as before. -/
structure SpStored (s t : State) (h : TileIx) (o : Nat) (bs : List Byte) : Prop where
  bytes : ∀ x a, cellGet (t.tile x).sp a =
    if x = h ∧ o ≤ a ∧ a < o + bs.length then bs.getD (a - o) 0 else cellGet (s.tile x).sp a
  tags : ∀ x w, (t.tile x).tagFull (8 * w) =
    ((s.tile x).tagFull (8 * w) || decide (x = h ∧ ∃ j, j < bs.length ∧ (o + j) / 8 = w))
  regs : ∀ x, (t.tile x).regs = (s.tile x).regs
  caddy : ∀ x, (t.tile x).caddy = (s.tile x).caddy
  rest : t.gm = s.gm ∧ t.host = s.host ∧ t.cur = s.cur

/-- An atomic of `count` elements of `n` bytes from `a`, with the new value `f` of each, meets no refusal and no wait: it
leaves `s1` and has read the values `olds`. It writes inside the member frame (R129), and nothing before it is still to be
performed that it waits for: an access of its task (R108, R112, R118), or a control write, for an atomic on global memory or
with a release (R138). -/
def Rmw (s : State) (spc : Space) (sc : Scope) (o : Order) (a : Word) (n count : Nat) (f : Nat → Nat → Option Nat)
    (s1 : State) (olds : List Nat) : Prop :=
  let rel := Order.rel o && Scope.wide sc
  s.unsafeAt spc [(a, n * count)] = none ∧ s.mustWait (atomicMem spc a (n * count) o) = false ∧
  match spc with
  | .sp =>
    (Order.rel o = true → s.t.ctlPending = false) ∧ s.spWaits s.cur s.ctxn a.toNat (n * count) = false ∧
    s.spPoisoned s.cur s.ctxn a.toNat (n * count) = none ∧
    (s1, olds) = (s.offendIf s.cur true (s.spBad s.cur s.ctxn a.toNat (n * count))).rmwAllSp rel a n count f
  | .cd => False
  | .g =>
    canonicalRange a (n * count) = true ∧ s.t.ctlPending = false ∧
    ∃ s0 ls, State.planAll s.cur s.ctxn .write false s
        ((List.range count).map fun j => (a + BitVec.ofNat 64 (n * j), n)) = .ok (s0, ls) ∧
      firstOf (s0.refill ls).gPoisoned ls = none ∧ (s1, olds) = (s0.refill ls).rmwAllG rel sc n ls f

end Sys2Proof.Machine

/-! ### The scalar space (R62 to R77) -/

/-- R64 and R65: each integer and constant instruction completes in every state with the result of its entry as an exact
number, in `rd` alone; no flag changes, and a write of `s0` is discarded. -/
def Obligations.ScalarIntegerResults : Prop :=
  ∀ (s : State) (d a b : SReg) (i : BitVec 13) (n : BitVec 6) (h : BitVec 3) (c : BitVec 19) (k : BitVec 16),
    let A := s.rdS a
    let B := s.rdS b
    WritesS (.add d a b) s d (BitVec.ofNat 64 (A.toNat + B.toNat)) 0 ∧
    WritesS (.addi d a i) s d (BitVec.ofInt 64 (A.toInt + i.toInt)) 0 ∧
    WritesS (.sub d a b) s d (BitVec.ofInt 64 (A.toInt - B.toInt)) 0 ∧
    WritesS (.and d a b) s d (A &&& B) 0 ∧ WritesS (.andi d a i) s d (A &&& BitVec.ofInt 64 i.toInt) 0 ∧
    WritesS (.or d a b) s d (A ||| B) 0 ∧ WritesS (.ori d a i) s d (A ||| BitVec.ofNat 64 i.toNat) 0 ∧
    WritesS (.xor d a b) s d (A ^^^ B) 0 ∧ WritesS (.xori d a i) s d (A ^^^ BitVec.ofNat 64 i.toNat) 0 ∧
    WritesS (.shl d a b) s d (BitVec.ofNat 64 (A.toNat * 2 ^ (B.toNat % 64))) 0 ∧
    WritesS (.shli d a n) s d (BitVec.ofNat 64 (A.toNat * 2 ^ n.toNat)) 0 ∧
    WritesS (.shr d a b) s d (BitVec.ofNat 64 (A.toNat / 2 ^ (B.toNat % 64))) 0 ∧
    WritesS (.shri d a n) s d (BitVec.ofNat 64 (A.toNat / 2 ^ n.toNat)) 0 ∧
    WritesS (.sra d a b) s d (BitVec.ofInt 64 (A.toInt / 2 ^ (B.toNat % 64))) 0 ∧
    WritesS (.srai d a n) s d (BitVec.ofInt 64 (A.toInt / 2 ^ n.toNat)) 0 ∧
    WritesS (.min d a b) s d (BitVec.ofInt 64 (min A.toInt B.toInt)) 0 ∧
    WritesS (.max d a b) s d (BitVec.ofInt 64 (max A.toInt B.toInt)) 0 ∧
    WritesS (.minn d a b) s d (BitVec.ofNat 64 (min A.toNat B.toNat)) 0 ∧
    WritesS (.maxn d a b) s d (BitVec.ofNat 64 (max A.toNat B.toNat)) 0 ∧
    WritesS (.addx d a b h) s d (BitVec.ofNat 64 (A.toNat + B.toNat * 2 ^ h.toNat)) 0 ∧
    WritesS (.movi d c) s d (BitVec.ofInt 64 c.toInt) 0 ∧
    WritesS (.movhi d k) s d (BitVec.ofNat 64 ((s.rdS d).toNat * 2 ^ 16 + k.toNat)) 0

/-- R66 and R67: the bitfield instructions complete for every field that lies within the register, and the counting
instructions in every state. Bit j of the result is the bit of the field the entry names; the counts are the number of set
bits, and the length of the run of zeros from either end. -/
def Obligations.ScalarBitfieldResults : Prop :=
  ∀ (s : State) (d a : SReg) (pos len1 : BitVec 6),
    let A := s.rdS a
    (pos.toNat + len1.toNat < 64 →
      (∃ v, WritesS (.bfx d a pos len1) s d v 0 ∧
        ∀ j, j < 64 → v.getLsbD j = (decide (j ≤ len1.toNat) && A.getLsbD (pos.toNat + j))) ∧
      (∃ v, WritesS (.bfxs d a pos len1) s d v 0 ∧
        ∀ j, j < 64 → v.getLsbD j = A.getLsbD (pos.toNat + min j len1.toNat)) ∧
      ∃ v, WritesS (.bfi d a pos len1) s d v 0 ∧
        ∀ j, j < 64 → v.getLsbD j =
          if pos.toNat ≤ j ∧ j ≤ pos.toNat + len1.toNat then A.getLsbD (j - pos.toNat) else (s.rdS d).getLsbD j) ∧
    (∃ n, n ≤ 64 ∧ WritesS (.clz d a) s d (BitVec.ofNat 64 n) 0 ∧
      (∀ j, 64 - n ≤ j → A.getLsbD j = false) ∧ (n < 64 → A.getLsbD (63 - n) = true)) ∧
    (∃ n, n ≤ 64 ∧ WritesS (.ctz d a) s d (BitVec.ofNat 64 n) 0 ∧
      (∀ j, j < n → A.getLsbD j = false) ∧ (n < 64 → A.getLsbD n = true)) ∧
    WritesS (.popc d a) s d (BitVec.ofNat 64 ((List.range 64).countP fun j => A.getLsbD j)) 0

/-- R72 and R73: the products and their high halves, and the four division instructions with their division by zero: the
quotient is all ones, the remainder is `ra`, and DZ is set; the most negative dividend by -1 gives itself and 0. -/
def Obligations.ScalarMulDivResults : Prop :=
  ∀ (s : State) (d a b : SReg),
    let A := s.rdS a
    let B := s.rdS b
    let f : Flags := if B = 0 then flDZ else 0
    WritesS (.mul d a b) s d (BitVec.ofNat 64 (A.toNat * B.toNat)) 0 ∧
    WritesS (.mulh d a b) s d (BitVec.ofInt 64 (A.toInt * B.toInt / 2 ^ 64)) 0 ∧
    WritesS (.mulhn d a b) s d (BitVec.ofNat 64 (A.toNat * B.toNat / 2 ^ 64)) 0 ∧
    WritesS (.div d a b) s d (if B = 0 then BitVec.allOnes 64 else BitVec.ofInt 64 (A.toInt.tdiv B.toInt)) f ∧
    WritesS (.divn d a b) s d (if B = 0 then BitVec.allOnes 64 else BitVec.ofNat 64 (A.toNat / B.toNat)) f ∧
    WritesS (.rem d a b) s d (if B = 0 then A else BitVec.ofInt 64 (A.toInt.tmod B.toInt)) f ∧
    WritesS (.remn d a b) s d (if B = 0 then A else BitVec.ofNat 64 (A.toNat % B.toNat)) f

/-- R43, R68 to R71: the integer conditions of `CMP` and `CMPI` over the two words, signed or unsigned as the code says;
selection, predicate logic by a two-input table, and the moves between the predicates and a word. `p0` reads true and is
never written. -/
def Obligations.PredicateResults : Prop :=
  ∀ (s : State) (d a b : SReg) (pd pa pb q : PReg) (neg : Bool) (i : BitVec 12) (tb : BitVec 4),
    let A := s.rdS a
    let cond (B : Word) (c : Cond) : Bool := match c with
      | .eq => decide (A = B)
      | .ne => decide (A ≠ B)
      | .lt => decide (A.toInt < B.toInt)
      | .ge => decide (B.toInt ≤ A.toInt)
      | .ltn => decide (A.toNat < B.toNat)
      | .gen => decide (B.toNat ≤ A.toNat)
      | .le => decide (A.toInt ≤ B.toInt)
      | .gt => decide (B.toInt < A.toInt)
      | .len => decide (A.toNat ≤ B.toNat)
      | .gtn => decide (B.toNat < A.toNat)
      | _ => false
    (∀ c, c.isInt = true → WritesP (.cmp pd c a b) s pd (cond (s.rdS b) c) 0 ∧
      WritesP (.cmpi pd c a i) s pd (cond (BitVec.ofInt 64 i.toInt) c) 0) ∧
    WritesS (.sel d a b neg q) s d (if (s.rdP q != neg) = true then A else s.rdS b) 0 ∧
    WritesP (.plog pd pa pb tb) s pd
      (tb.getLsbD ((if s.rdP pa = true then 2 else 0) + (if s.rdP pb = true then 1 else 0))) 0 ∧
    (∃ v, WritesS (.movp d) s d v 0 ∧ ∀ j, v.getLsbD j = (decide (j < 8) && s.rdP (BitVec.ofNat 3 j))) ∧
    ∃ t, exec (.movpSet a) s = .next t ∧ (∀ q : PReg, t.regs.getP q = (q == 0 || A.getLsbD q.toNat)) ∧
      t.regs = { s.regs with p := t.regs.p } ∧ OnlyRegs s t

/-- R74 to R77: the scalar floating instructions complete in every state for every type they accept. An arithmetic result is
the exact result of the operands' values rounded once in the mode the instruction names, with its flags; `SFMA` reads `rd`
as its addend; the minimum, the maximum and the comparison follow their tables; a conversion steps `SRSEED` once where it
rounds stochastically. -/
def Obligations.ScalarFloatResults : Prop :=
  ∀ (s : State) (d a b : SReg) (pd : PReg) (t dt st : ETy) (r : RM) (c : Cond),
    let A := (s.rdS a).toNat
    let B := (s.rdS b).toNat
    let D := (s.rdS d).toNat
    let low (x : Nat) : Nat := x % 2 ^ valWidth t
    let w (op : FOp) (z : Nat) : Nat × Flags := floatOp op t (s.arithMode r) A B z
    (t.isScalarFloat = true →
      (r.isArith = true →
        WritesS (.sfadd d a b t r) s d (scalarOf t (w .add D).1) (w .add D).2 ∧
        WritesS (.sfsub d a b t r) s d (scalarOf t (w .sub D).1) (w .sub D).2 ∧
        WritesS (.sfmul d a b t r) s d (scalarOf t (w .mul D).1) (w .mul D).2 ∧
        WritesS (.sfma d a b t r) s d (scalarOf t (w .fma D).1) (w .fma D).2) ∧
      WritesS (.sfmin d a b t) s d (scalarOf t (floatMinMax t false (low A) (low B)).1)
        (floatMinMax t false (low A) (low B)).2 ∧
      WritesS (.sfmax d a b t) s d (scalarOf t (floatMinMax t true (low A) (low B)).1)
        (floatMinMax t true (low A) (low B)).2 ∧
      (c.isFloat = true → WritesP (.sfcmp pd c a b t) s pd (floatCond c (readNum t A) (readNum t B)).1
        (floatCond c (readNum t A) (readNum t B)).2)) ∧
    ∃ seed x u, exec (.sfcvt d a dt st r) s = .next u ∧
      seed = (if s.isSR r = true then srStep s.regs.ctl.srseed else s.regs.ctl.srseed) ∧
      x = convert dt (s.cvtMode r seed) false (readNum st A) ∧
      u.regs.ctl.srseed = seed ∧
      ScalarOnly (s.modCtl fun c => { c with srseed := seed }) u d (scalarOf dt x.1) x.2

/-! ### The vector space (R189 to R225) -/

/-- R196: each integer element form completes for every type, mask, group and broadcast it accepts, where no source group
overlaps the destination otherwise than whole: a governed element takes the exact result modulo 2^w, an ungoverned one
stays, no flag changes, and no other register changes. -/
def Obligations.VectorIntegerResults : Prop :=
  ∀ (s : State) (d a b : VReg) (t : ETy) (mk : MReg) (g : Grp) (bc : Bool),
    Apart d g.size a g.size → Apart d g.size b (if bc = true then 1 else g.size) →
    let A (k i : Nat) : Nat := velem t (s.rdV (vplus a k)) i
    let B := secondOf s t b bc
    let x (k i : Nat) : Int := readInt t (A k i)
    let y (k i : Nat) : Int := readInt t (B k i)
    let z (k i : Nat) : Int := readInt t (velem t (s.rdV (vplus d k)) i)
    let wrap (op : Nat → Nat → Int) : Nat → Nat → Nat :=
      governedBy s t mk d fun k i => (op k i % 2 ^ t.width).toNat
    let bits (op : Nat → Nat → Nat) : Nat → Nat → Nat := governedBy s t mk d op
    let ok (i : Instr) (val : Nat → Nat → Nat) : Prop := i.wf = true → WritesV i s d g.size t val 0
    ok (.vadd d a b t mk g bc) (wrap fun k i => x k i + y k i) ∧
    ok (.vsub d a b t mk g bc) (wrap fun k i => x k i - y k i) ∧
    ok (.vmul d a b t mk g bc) (wrap fun k i => x k i * y k i) ∧
    ok (.vmulh d a b t mk g bc) (wrap fun k i => x k i * y k i / 2 ^ t.width) ∧
    ok (.vmac d a b t mk g bc) (wrap fun k i => z k i + x k i * y k i) ∧
    ok (.vabsd d a b t mk g bc) (bits fun k i => (x k i - y k i).natAbs) ∧
    ok (.vavg d a b t mk g bc) (wrap fun k i => (x k i + y k i + 1) / 2) ∧
    ok (.vmin d a b t mk g bc) (wrap fun k i => min (x k i) (y k i)) ∧
    ok (.vmax d a b t mk g bc) (wrap fun k i => max (x k i) (y k i)) ∧
    ok (.vand d a b t mk g bc) (bits fun k i => (A k i &&& B k i) % 2 ^ valWidth t) ∧
    ok (.vor d a b t mk g bc) (bits fun k i => (A k i ||| B k i) % 2 ^ valWidth t) ∧
    ok (.vxor d a b t mk g bc) (bits fun k i => (A k i ^^^ B k i) % 2 ^ valWidth t) ∧
    ok (.vandn d a b t mk g bc) (bits fun k i => (A k i &&& (2 ^ t.width - 1 - B k i)) % 2 ^ valWidth t) ∧
    ok (.vshl d a b t mk g bc) (bits fun k i => if t.width ≤ B k i then 0 else A k i * 2 ^ B k i % 2 ^ t.width) ∧
    ok (.vshr d a b t mk g bc) (bits fun k i => if t.width ≤ B k i then 0 else A k i / 2 ^ B k i) ∧
    ok (.vsra d a b t mk g bc) (wrap fun k i => toSigned t.width (A k i) / 2 ^ min (B k i) t.width) ∧
    ok (.vclz d a t mk g) (bits fun k i => clzNat t.width (A k i)) ∧
    ok (.vpopc d a t mk g) (bits fun k i => popNat t.width (A k i))

/-- R196 and R188: `VADDS` and `VSUBS` clamp to the bounds of the type, and SAT is set exactly where a governed element was
clamped. R193, R197 and R209: the widening multiplies put the exact product of source element 2j + k at element j of
register `vd + k`, `VMACW` adding to it; `VUNPACK` extends source element gj + k to element j of `vd + k`, and `VPACK`
narrows element i div g of `va + (i mod g)` to element i, wrapped or saturated with SAT. The mask governs source elements of
the widening forms and destination elements of the packing one. -/
def Obligations.VectorSaturatingWidening : Prop :=
  (∀ (s : State) (d a b : VReg) (t : ETy) (mk : MReg) (g : Grp) (bc : Bool),
    Apart d g.size a g.size → Apart d g.size b (if bc = true then 1 else g.size) →
    let x (k i : Nat) : Int := readInt t (velem t (s.rdV (vplus a k)) i)
    let y (k i : Nat) : Int := readInt t (secondOf s t b bc k i)
    let ok (i : Instr) (op : Nat → Nat → Int) : Prop := i.wf = true →
      ∃ f, WritesV i s d g.size t
          (governedBy s t mk d fun k i => (max (intMin t) (min (intMax t) (op k i)) % 2 ^ t.width).toNat) f ∧
        FlagsOf f g.size t.count (fun i => (s.rdM mk).getLsbD i)
          fun k i => if op k i < intMin t ∨ intMax t < op k i then flSAT else 0
    ok (.vadds d a b t mk g bc) (fun k i => x k i + y k i) ∧
    ok (.vsubs d a b t mk g bc) fun k i => x k i - y k i) ∧
  (∀ (s : State) (d a b : VReg) (t : ETy) (mk : MReg) (bc sat : Bool) (x : XFac),
    let g := x.grp.size
    let on (i : Nat) : Bool := (s.rdM mk).getLsbD i
    let A (i : Nat) : Int := readInt t (velem t (s.rdV a) i)
    let B (i : Nat) : Int := readInt t (if bc = true then velem t (s.rdV b) 0 else velem t (s.rdV b) i)
    let wide (tw : ETy) (f : Nat) (val : Nat → Nat → Int) (k j : Nat) : Nat :=
      if on (f * j + k) = true then (val k j % 2 ^ tw.width).toNat else velem tw (s.rdV (vplus d k)) j
    (Apart d 2 a 1 → Apart d 2 b 1 →
      ((Instr.vmulw d a b t mk bc).wf = true →
        WritesV (.vmulw d a b t mk bc) s d 2 (wideTy t) (wide (wideTy t) 2 fun k j => A (2 * j + k) * B (2 * j + k)) 0) ∧
      ((Instr.vmacw d a b t mk bc).wf = true →
        WritesV (.vmacw d a b t mk bc) s d 2 (wideTy t) (wide (wideTy t) 2 fun k j =>
          (velem (wideTy t) (s.rdV (vplus d k)) j : Int) + A (2 * j + k) * B (2 * j + k)) 0)) ∧
    (Apart d g a 1 → (Instr.vunpack d a t mk x).wf = true →
      WritesV (.vunpack d a t mk x) s d g (wideOf x t) (wide (wideOf x t) g fun k j => A (g * j + k)) 0) ∧
    (Apart d 1 a g → (Instr.vpack d a t mk sat x).wf = true →
      let v (i : Nat) : Int := readInt (wideOf x t) (velem (wideOf x t) (s.rdV (vplus a (i % g))) (i / g))
      ∃ f, WritesV (.vpack d a t mk sat x) s d 1 t (governedBy s t mk d fun _ i =>
          ((if sat = true then max (intMin t) (min (intMax t) (v i)) else v i) % 2 ^ t.width).toNat) f ∧
        FlagsOf f 1 t.count on fun _ i => if sat = true ∧ (v i < intMin t ∨ intMax t < v i) then flSAT else 0))

/-- R198, R199 and R200: the floating element forms complete for every type, mask and rounding they accept: each governed
element takes the exact result rounded once, or the one the table gives, the flags of the governed elements are set, and no
other element is computed. `VFSGN` is bitwise and sets no flag; `VFCLASS` sets one class bit. -/
def Obligations.VectorFloatResults : Prop :=
  ∀ (s : State) (d a b : VReg) (t : ETy) (mk : MReg) (r : RM) (f : SgnOp),
    let A (i : Nat) : Nat := velem t (s.rdV a) i
    let B (i : Nat) : Nat := velem t (s.rdV b) i
    let D (i : Nat) : Nat := velem t (s.rdV d) i
    let ok (i : Instr) (op : Nat → Nat × Flags) : Prop := i.wf = true →
      ∃ fl, WritesV i s d 1 t (governedBy s t mk d fun _ i => (op i).1) fl ∧
        FlagsOf fl 1 t.count (fun i => (s.rdM mk).getLsbD i) fun _ i => (op i).2
    let arith (op : FOp) (i : Nat) : Nat × Flags := floatOp op t (s.arithMode r) (A i) (B i) (D i)
    let sign (x : Nat) : Bool := x.testBit (valWidth t - 1)
    ok (.vfadd d a b t mk r) (arith .add) ∧ ok (.vfsub d a b t mk r) (arith .sub) ∧
    ok (.vfmul d a b t mk r) (arith .mul) ∧ ok (.vfma d a b t mk r) (arith .fma) ∧
    ok (.vfmin d a b t mk) (fun i => floatMinMax t false (A i) (B i)) ∧
    ok (.vfmax d a b t mk) (fun i => floatMinMax t true (A i) (B i)) ∧
    ok (.vfsgn d a b t mk f) (fun i => (withSign t (A i) (match f with
      | .cpy => sign (B i)
      | .neg => !sign (B i)
      | .xor => sign (A i) ^^ sign (B i)), 0)) ∧
    ok (.vfclass d a t mk) fun i => (classBits t (A i), 0)

/-- R201, R210 and R211: the compares and the mask instructions. Bit i of a result is the condition of element i where the
mask governs it, and zero elsewhere and from the element count up; NV comes from governed elements alone; `MPOPC` counts,
and `MFIRST` gives the lowest or highest set position, or all ones where none is set. -/
def Obligations.MaskResults : Prop :=
  ∀ (s : State) (c : Cond) (d ma mb mk : MReg) (a b : VReg) (sc : SReg) (t : ETy) (tb : BitVec 4) (last : Bool),
    let on (i : Nat) : Bool := (s.rdM mk).getLsbD i
    let A (i : Nat) : Nat := velem t (s.rdV a) i
    let B (i : Nat) : Nat := velem t (s.rdV b) i
    let set (i : Nat) : Bool := (s.rdM ma).getLsbD i && on i
    ((Instr.vcmp c d a b t mk).wf = true →
      WritesM (.vcmp c d a b t mk) s d t.count (fun i => on i && intCond c t.width (A i) (B i)) 0) ∧
    ((Instr.vfcmp c d a b t mk).wf = true →
      ∃ f, WritesM (.vfcmp c d a b t mk) s d t.count
          (fun i => on i && (floatCond c (readNum t (A i)) (readNum t (B i))).1) f ∧
        FlagsOf f 1 t.count on fun _ i => (floatCond c (readNum t (A i)) (readNum t (B i))).2) ∧
    (d ≠ 0 →
      WritesM (.mlog d ma mb tb) s d 1024 (fun i => tb.getLsbD
        ((if (s.rdM ma).getLsbD i = true then 2 else 0) + (if (s.rdM mb).getLsbD i = true then 1 else 0))) 0 ∧
      WritesM (.mfromNz d a t mk) s d t.count (fun i => on i && decide (A i % 2 ^ valWidth t ≠ 0)) 0 ∧
      WritesM (.mfromPre d sc t mk) s d t.count (fun i => on i && decide (i < (s.rdS sc).toNat)) 0 ∧
      WritesM (.mfromSuf d sc t mk) s d t.count (fun i => on i && decide ((s.rdS sc).toNat ≤ i)) 0) ∧
    WritesS (.mpopc ma sc t mk) s sc (BitVec.ofNat 64 ((List.range t.count).countP set)) 0 ∧
    ∃ v, WritesS (.mfirst ma sc t mk last) s sc v 0 ∧
      ((∀ i, i < t.count → set i = false) → v = BitVec.allOnes 64) ∧
      ∀ i, i < t.count → set i = true →
        (∀ j, j < t.count → set j = true → if last = true then j ≤ i else i ≤ j) → v = BitVec.ofNat 64 i

/-- R202 to R205: selection, moves, broadcasts, single elements and permutes: which source element each element of the
result takes, and zero where the index is past the table. That an index element of type A56 counts with all 64 bits is the
model's choice (log entry 92). -/
def Obligations.VectorMoveResults : Prop :=
  ∀ (s : State) (d a b : VReg) (sc : SReg) (t : ETy) (mk : MReg) (g : Grp) (bc : Bool) (e : BitVec 10),
    let on (i : Nat) : Bool := (s.rdM mk).getLsbD i
    let A (i : Nat) : Nat := velem t (s.rdV a) i
    let low (x : Nat) : Nat := x % 2 ^ valWidth t
    let ix (i : Nat) : Nat := velem t (s.rdV b) i
    let n := t.count
    (Apart d g.size a g.size → Apart d g.size b (if bc = true then 1 else g.size) →
      (Instr.vsel d a b t mk g bc).wf = true →
      WritesV (.vsel d a b t mk g bc) s d g.size t (fun k i =>
        low (if on i = true then velem t (s.rdV (vplus a k)) i else secondOf s t b bc k i)) 0) ∧
    (Apart d g.size a (if bc = true then 1 else g.size) → (Instr.vmov d a t mk g bc).wf = true →
      WritesV (.vmov d a t mk g bc) s d g.size t (governedBy s t mk d fun k i => low (secondOf s t a bc k i)) 0) ∧
    WritesV (.vbcast d sc t mk) s d 1 t (governedBy s t mk d fun _ _ => low (s.rdS sc).toNat) 0 ∧
    WritesV (.vbcastEl d a sc t mk) s d 1 t
      (governedBy s t mk d fun _ _ => if (s.rdS sc).toNat < n then low (A (s.rdS sc).toNat) else 0) 0 ∧
    (e.toNat < n →
      WritesS (.vextr e a sc t) s sc (scalarOf t (A e.toNat)) 0 ∧
      WritesV (.vins d e sc t) s d 1 t
        (fun _ i => if i = e.toNat then low (s.rdS sc).toNat else velem t (s.rdV d) i) 0) ∧
    WritesV (.vperm d a b t mk) s d 1 t (governedBy s t mk d fun _ i => if ix i < n then low (A (ix i)) else 0) 0 ∧
    (Apart d 1 a 2 → (Instr.vperm2 d a b t mk).wf = true →
      WritesV (.vperm2 d a b t mk) s d 1 t (governedBy s t mk d fun _ i =>
        if ix i < n then low (A (ix i)) else if ix i < 2 * n then low (velem t (s.rdV (vplus a 1)) (ix i - n)) else 0) 0)

/-- R206 to R208: slides and rotations by a scalar count, compression and expansion by the mask, the counting forms, and the
interleaving of two registers over a pair and back. -/
def Obligations.VectorShuffleResults : Prop :=
  ∀ (s : State) (d a b : VReg) (sc : SReg) (t : ETy) (mk : MReg) (up : Bool),
    let on (i : Nat) : Bool := (s.rdM mk).getLsbD i
    let A (i : Nat) : Nat := velem t (s.rdV a) i
    let low (x : Nat) : Nat := x % 2 ^ valWidth t
    let n := t.count
    let c := (s.rdS sc).toNat
    let rank (i : Nat) : Nat := (List.range i).countP on
    WritesV (.vslide d a sc t mk up) s d 1 t (governedBy s t mk d fun _ i =>
      if up = true then (if c ≤ i then low (A (i - c)) else 0)
      else if i + c < n then low (A (i + c)) else 0) 0 ∧
    WritesV (.vrot d a sc t mk up) s d 1 t (governedBy s t mk d fun _ i =>
      low (A (if up = true then (i + n - c % n) % n else (i + c) % n))) 0 ∧
    (∃ val, WritesV (.vcompress d a t mk) s d 1 t val 0 ∧
      (∀ i, i < n → on i = true → val 0 (rank i) = low (A i)) ∧ ∀ j, rank n ≤ j → val 0 j = 0) ∧
    WritesV (.vexpand d a t mk) s d 1 t (governedBy s t mk d fun _ i => low (A (rank i))) 0 ∧
    (t.isInt = true →
      WritesV (.viota d t mk) s d 1 t (fun _ i => rank i % 2 ^ t.width) 0 ∧
      WritesV (.viotaIdx d t) s d 1 t (fun _ i => i % 2 ^ t.width) 0) ∧
    (d.toNat % 2 = 0 → Apart d 2 a 1 → Apart d 2 b 1 →
      WritesV (.vzip d a b t) s d 2 t (fun k j =>
        let z := k * n + j
        low (velem t (s.rdV (if z % 2 = 0 then a else b)) (z / 2))) 0) ∧
    (d.toNat % 2 = 0 → a.toNat % 2 = 0 → Apart d 2 a 2 →
      WritesV (.vunzip d a t) s d 2 t (fun k i =>
        let z := 2 * i + k
        low (if z < n then A z else velem t (s.rdV (vplus a 1)) (z - n))) 0)

/-- R183, R184, R216, R220 and R221: `VCVT` completes in every state. Each element it lets through is converted by itself:
into the wider container at one of its source positions, or into one of the positions of a narrower destination, the others
staying. Under stochastic rounding the seed steps once before each element let through, in ascending order, and `SRSEED` ends
at the seed of the last; otherwise it stays. With `.RES` every element is converted; the latch takes the sum of its value
and of the exact differences of the pairs that are finite, a zero difference as +0, rounded once, its index grows by the
number of inexact ones, and the flags of the sum join those of the elements. -/
def Obligations.ConversionResults : Prop :=
  ∀ (s : State) (d a : VReg) (st t : ETy) (mk : MReg) (q : QReg) (r : RM), cvtRatioOk st t = true →
    let on (i : Nat) : Bool := (s.rdM mk).getLsbD i
    let all (_ : Nat) : Bool := true
    let widen : Bool := decide (st.width ≤ t.width)
    let g := if widen = true then t.width / st.width else st.width / t.width
    let p := (if widen = true then d.toNat else a.toNat) % g
    let n := if widen = true then t.count else st.count
    let A (j : Nat) : Nat := velem st (s.rdV a) (if widen = true then g * j + p else j)
    let old (i : Nat) : Nat := velem t (s.rdV d) i
    let before (on : Nat → Bool) (j : Nat) : Nat := (List.range j).countP fun i => on (g * i + p)
    let seed (m : Nat) : BitVec 32 := if s.isSR r = true then Nat.repeat srStep m s.regs.ctl.srseed else s.regs.ctl.srseed
    let el (on : Nat → Bool) (j : Nat) : Nat × Flags := cvtElem st t (s.cvtMode r (seed (before on j + 1))) (A j)
    let val (on : Nat → Bool) (i : Nat) : Nat :=
      if widen = true then (if on (g * i + p) = true then (el on i).1 % 2 ^ t.width else old i)
      else if i % g = p ∧ on i = true then (el on (i / g)).1 % 2 ^ t.width else old i
    let x (j : Nat) : Sys2Proof.Machine.Num := readNum st (A j)
    let y (j : Nat) : Sys2Proof.Machine.Num := readNum t (el all j).1
    let pairs := (List.range n).filter fun j => (x j).isFin && (y j).isFin
    let sum := a56Sum (s.rdQ q).value (pairs.map fun j => match ((x j).add .rne (y j).negate).1 with
      | .fin neg m e => .fin (neg && m != 0) m e
      | z => z)
    let put (on : Nat → Bool) (u : State) : Prop :=
      (∀ i, i < t.count → velem t (u.regs.getV d) i = val on i) ∧ (∀ z, z ≠ d → u.regs.getV z = s.regs.getV z) ∧ OnlyRegs s u
    (∃ u f, exec (.vcvt d a st t mk r) s = .next u ∧ put on u ∧ FlagsOf f 1 n (fun j => on (g * j + p)) (fun _ j => (el on j).2) ∧
      u.regs = { s.regs with v := u.regs.v, ctl := { s.regs.ctl with
        fpflags := s.regs.ctl.fpflags ||| f, srseed := seed (before on n) } }) ∧
    ∃ u f, exec (.vcvtRes d a st t q r) s = .next u ∧ put all u ∧ FlagsOf f 1 n (fun _ => true) (fun _ j => (el all j).2) ∧
      u.regs.getQ q = ⟨sum.1, (s.rdQ q).index + BitVec.ofNat 32 (pairs.countP fun j => !(x j).eq (y j))⟩ ∧
      (∀ z, z ≠ q → u.regs.getQ z = s.regs.getQ z) ∧
      u.regs = { s.regs with v := u.regs.v, q := u.regs.q, ctl := { s.regs.ctl with
        fpflags := s.regs.ctl.fpflags ||| (f ||| sum.2), srseed := seed n } }

/-- R212 to R215: each special function completes for the three types it accepts: every governed element is the function's
value of it, with its flags. R214 and R215: at the exact points of the table that is the exact result, rounded once, which
changes it only where it overflows or is below the smallest subnormal; beyond them it is the value of the function, rounded
once, in F16 and BF16 and for the square root, and in F32 a value of its sign within the bound of the table, in units of the
spacing at its magnitude (that the sign is kept is the model's choice, log entry 10). -/
def Obligations.SpecialFunctionResults : Prop :=
  (∀ (s : State) (d a : VReg) (t : ETy) (mk : MReg) (cs : Bool), t.isVecFloat = true →
    let ok (i : Instr) (fn : SpecialFn) : Prop :=
      let el (j : Nat) : Nat × Flags := specialFn fn t (velem t (s.rdV a) j)
      ∃ f, WritesV i s d 1 t (governedBy s t mk d fun _ j => (el j).1 % 2 ^ t.width) f ∧
        FlagsOf f 1 t.count (fun j => (s.rdM mk).getLsbD j) fun _ j => (el j).2
    ok (.vexp2 d a t mk) .exp2 ∧ ok (.vlog2 d a t mk) .log2 ∧ ok (.vrcp d a t mk) .rcp ∧
    ok (.vrsqrt d a t mk) .rsqrt ∧ ok (.vsqrt d a t mk) .sqrt ∧ ok (.vtanh d a t mk) .tanh ∧
    ok (.vsincos d a t mk cs) (if cs = true then .cos else .sin)) ∧
  ∀ (fn : SpecialFn) (t : ETy) (f : BinFmt) (x : Nat), t.isVecFloat = true → binFmt t = some f →
    let y := specialFn fn t x
    let one : Nat := f.bias * 2 ^ f.p
    (∀ neg m e, readNum t x = .fin neg m e → m ≠ 0 →
      let val : Sys2Proof.Machine.Num := .fin neg m e
      let is (v : Sys2Proof.Machine.Num) : Prop := y = f.round .rne false v
      let odd (k : Int) : Bool := decide (k % 2 = 1)
      (∀ k : Int, val.eq (.fin (decide (k < 0)) k.natAbs 0) = true →
        (fn = .exp2 → k.natAbs < 8192 → is (.fin false 1 k)) ∧
        (fn = .sin → is (.fin neg 0 0)) ∧ (fn = .cos → is (.fin (odd k) 1 0))) ∧
      (∀ k : Int, val.eq (.fin (decide (k < 0)) (2 * k + 1).natAbs (-1)) = true →
        (fn = .sin → is (.fin (odd k) 1 0)) ∧ (fn = .cos → is (.fin false 0 0))) ∧
      (∀ k : Int, val.eq (.fin neg 1 k) = true →
        (fn = .log2 → neg = false → is (.fin (decide (k < 0)) k.natAbs 0)) ∧ (fn = .rcp → is (.fin neg 1 (-k)))) ∧
      (∀ k : Int, neg = false → val.eq (.fin false 1 (2 * k)) = true → fn = .rsqrt → is (.fin false 1 (-k))) ∧
      (∀ (r : Nat) (k : Int), neg = false → val.eq (.fin false (r * r) (2 * k)) = true → fn = .sqrt →
        ∃ v : Sys2Proof.Machine.Num, v.eq (.fin false r k) = true ∧ is v) ∧
      (fn = .tanh → (Sys2Proof.Machine.Num.fin false m e).lt (.fin false 16 0) = false → y = (f.signed neg one, flNX))) ∧
    let v := fnVal fn (readNum t x)
    let r := f.round .rne false v.num
    (t ≠ .f32 ∨ fn = .sqrt → y = (r.1, r.2 ||| v.flags)) ∧
    (t = .f32 → v.exact = false → ∀ neg m e k, v.num = .fin neg m e → fnUlps fn = some k →
      (f.roundMag .rne neg m e).1 ≤ f.maxPat → f.umin - 1 ≤ e + (Nat.log2 m : Int) → (fn = .tanh → m ≠ 1) →
      ∃ (z w : Nat) (b : Int), y.1 = f.signed neg z ∧ z ≤ f.maxPat ∧ f.read z = .fin false w b ∧
        let unit := max f.umin (e + (Nat.log2 m : Int) - f.p)
        let lo := min (min e b) unit
        (scaled false m e lo - scaled false w b lo).natAbs ≤ k * 2 ^ (unit - lo).toNat)

/-- R213: the special operands. A NaN gives the canonical quiet NaN, with NV only where it is signalling; an infinity, a
zero and, for the logarithm and the roots, a finite number below zero give the result of the table with its flag. -/
def Obligations.SpecialOperandResults : Prop :=
  ∀ (fn : SpecialFn) (t : ETy) (f : BinFmt) (x : Nat), t.isVecFloat = true → binFmt t = some f →
    let y := specialFn fn t x
    let one : Nat := f.bias * 2 ^ f.p
    let invalid : Nat × Flags := (f.nanPat, flNV)
    ((readNum t x).isNan = true → y = (f.nanPat, if (readNum t x).isSnan = true then flNV else 0)) ∧
    (∀ neg, readNum t x = .inf neg → y = match fn with
      | .exp2 => (if neg = true then 0 else f.infPat, 0)
      | .log2 | .sqrt => if neg = true then invalid else (f.infPat, 0)
      | .rcp => (f.signed neg 0, 0)
      | .rsqrt => if neg = true then invalid else (0, 0)
      | .sin | .cos => invalid
      | .tanh => (f.signed neg one, 0)) ∧
    (∀ neg e, readNum t x = .fin neg 0 e → y = match fn with
      | .exp2 | .cos => (one, 0)
      | .log2 => (f.signed true f.infPat, flDZ)
      | .rcp | .rsqrt => (f.signed neg f.infPat, flDZ)
      | .sqrt | .sin | .tanh => (f.signed neg 0, 0)) ∧
    ∀ m e, readNum t x = .fin true m e → m ≠ 0 → fn = .log2 ∨ fn = .rsqrt ∨ fn = .sqrt → y = invalid

/-- R216 to R219: the reduction instructions complete in every state. `RED.SUM` and `RED.SUMSQ` add the governed elements
and count them, `RED.MAX` and `RED.MIN` keep the best with its index, `REDMV` moves and adds latches, `REDCLR` sets each
latch its mask names. R217: `RED.MAX` and `RED.MIN` over governed elements. Where none is a number the latch stays; else,
when the latch is a NaN or the best element is strictly better, the latch takes the value, and the index base plus the
lowest element that has it; and otherwise the latch stays. R216 and R217: a NaN among the elements makes the latch the
canonical one, with NV only where one of the NaNs is signalling; finite elements and a finite latch are added exactly and
rounded once to A56, in whatever order, and an exact zero is -0 only where every term is -0. -/
def Obligations.ReductionResults : Prop :=
  (∀ (s : State) (q qa : QReg) (a b : VReg) (sc : SReg) (t : ETy) (mk : MReg) (sq mn : Bool) (l : BitVec 4)
      (v : ClrVal),
    let el : List Nat := (List.range t.count).filter fun i => (s.rdM mk).getLsbD i
    let num (i : Nat) : Sys2Proof.Machine.Num := readNum t (velem t (s.rdV a) i)
    let old := s.rdQ q
    let sum := redSum sq old (el.map num)
    let best := redMax mn old (velem .n32 (s.rdV b) 0) (el.map fun i => (i, num i))
    let both := a56Sum old.value [readNum .a56 (s.rdQ qa).value.toNat]
    let f32 := convert .f32 .rne false (readNum .a56 old.value.toNat)
    WritesQ (.redSum q a t mk sq) s q sum.1 sum.2 ∧
    sum.1.index = old.index + BitVec.ofNat 32 el.length ∧
    (t.isRedMax = true → WritesQ (.redMax q a b t mk mn) s q best.1 best.2) ∧
    WritesS (.redmvGet q sc .a56) s sc (BitVec.ofNat 64 old.value.toNat) 0 ∧
    WritesS (.redmvGet q sc .f32) s sc (BitVec.ofNat 64 (f32.1 % 2 ^ 32)) f32.2 ∧
    WritesS (.redmvIdx q sc) s sc (BitVec.ofNat 64 old.index.toNat) 0 ∧
    WritesQ (.redmvAdd q qa) s q ⟨both.1, old.index + (s.rdQ qa).index⟩ both.2 ∧
    WritesQ (.redmvSet q sc) s q ⟨BitVec.ofNat 56 (s.rdS sc).toNat, old.index⟩ 0 ∧
    (l ≠ 0 → ∃ u, exec (.redclr l v) s = .next u ∧
      (∀ x : QReg, u.regs.getQ x = if l.getLsbD x.toNat = true then clrLatch v else s.regs.getQ x) ∧
      u.regs = { s.regs with q := u.regs.q } ∧ OnlyRegs s u)) ∧
  (∀ (mn : Bool) (q : RedLatch) (base : Nat) (xs : List (Nat × Sys2Proof.Machine.Num)),
    let better (x y : Sys2Proof.Machine.Num) : Bool := if mn = true then x.below y else y.below x
    let old := readNum .a56 q.value.toNat
    ((∀ p ∈ xs, p.2.isNan = true) → (redMax mn q base xs).1 = q) ∧
    ∀ pre i b post, xs = pre ++ (i, b) :: post → b.isNan = false →
      (∀ p ∈ xs, p.2.isNan = false → better p.2 b = false) →
      (∀ p ∈ pre, p.2.isNan = false → better b p.2 = true) →
      (redMax mn q base xs).1 =
        if old.isNan = true ∨ better b old = true then
          ⟨BitVec.ofNat 56 (convert .a56 .rne false b).1, BitVec.ofNat 32 (base + i)⟩
        else q) ∧
  (∀ (sq : Bool) (q : RedLatch) (xs : List Sys2Proof.Machine.Num),
    let old := readNum .a56 q.value.toNat
    ((∃ x ∈ xs, x.isNan = true) →
      (redSum sq q xs).1 = ⟨BitVec.ofNat 56 fmtA56.nanPat, q.index + BitVec.ofNat 32 xs.length⟩ ∧
      ((∀ x ∈ xs, x.isSnan = false) → old.isSnan = false → (∀ x ∈ xs, ∀ neg, x ≠ .inf neg) → (redSum sq q xs).2 = 0) ∧
      ((∃ x ∈ xs, x.isSnan = true) → (redSum sq q xs).2 = flNV)) ∧
    (old.isFin = true → (∀ x ∈ xs, x.isFin = true) →
      let z := a56Sum q.value (xs.map fun x => if sq = true then (x.mul x).1 else x)
      redSum sq q xs = (⟨z.1, q.index + BitVec.ofNat 32 xs.length⟩, z.2))) ∧
  ∀ (old : BitVec 56) (xs : List Sys2Proof.Machine.Num) (u : Int), xs ≠ [] →
    let ys := readNum .a56 old.toNat :: xs
    (∀ y ∈ ys, ∃ neg m e, y = .fin neg m e ∧ u ≤ e) →
    let units (y : Sys2Proof.Machine.Num) : Int := match y with
      | .fin neg m e => scaled neg m e u
      | _ => 0
    let total := ys.foldl (fun n y => n + units y) 0
    ∃ neg m e, (Sys2Proof.Machine.Num.fin neg m e).eq (.fin (decide (total < 0)) total.natAbs u) = true ∧
      (total = 0 → (neg = true ↔ ∀ y ∈ ys, y.neg = true)) ∧
      a56Sum old xs = (BitVec.ofNat 56 (convert .a56 .rne false (.fin neg m e)).1, (convert .a56 .rne false (.fin neg m e)).2)

/-- R222 to R224: the block conversions and the match unit complete for what they accept: `VCVTSX.TO` writes the image of
its blocks with their flags, `VCVTSX.FROM` reads elements 128h to 128h + 127 of an image without flags, and `VMATCH` marks
where the pattern, whose length stands in its last element, begins in the valid text, or under `.PART` is cut off by its
end. R178, R222 and R223: element i of block b of an image stands packed in the element plane and its exponents in the scale
plane from byte 256; a block with a NaN or an infinity is the canonical NaN block; in every other one a pair takes the
micro-exponent where both its magnitudes fit with it, and an element the nearest magnitude, ties to even, at most the
largest; a block of zeros has exponent 0, and another the one of its largest magnitude, one more where that rounds up to the
next power, from 0 to 254. -/
def Obligations.BlockAndMatchResults : Prop :=
  (∀ (f : SxFmt) (bs : List SxBlock) (b : Nat) (x : SxBlock), 16 * bs.length * SxFmt.width f ≤ 2048 →
    (∀ y ∈ bs, y.ex < 256 ∧ y.mu < 256 ∧ y.elems.length = 16 ∧ ∀ e ∈ y.elems, e < 2 ^ SxFmt.width f) → bs[b]? = some x →
    let img := sxImage f bs
    (∀ i, i < 16 → elemOf (SxFmt.width f) img (16 * b + i) = x.elems.getD i 0) ∧
    img / 2 ^ (8 * (256 + 2 * b)) % 256 = x.ex ∧ img / 2 ^ (8 * (257 + 2 * b)) % 256 = x.mu) ∧
  (∀ (f : SxFmt) (xs : List Sys2Proof.Machine.Num), xs.length = 16 →
    let top := 2 ^ SxFmt.mbits f - 1
    let special (x : Sys2Proof.Machine.Num) : Prop := x.isNan = true ∨ ∃ neg, x = .inf neg
    let b := (sxBlock f xs).1
    ((∃ x ∈ xs, special x) → b = ⟨255, 0, List.replicate 16 0⟩ ∧
      ((∀ x ∈ xs, x.isSnan = false ∧ ∀ neg, x ≠ .inf neg) → (sxBlock f xs).2 = 0) ∧
      ((∃ x ∈ xs, x.isSnan = true ∨ ∃ neg, x = .inf neg) → (sxBlock f xs).2 = flNV)) ∧
    ((∀ x ∈ xs, ¬ special x) →
      let mag (i ex mu : Nat) : Nat := match xs.getD i (.fin false 0 0) with
        | .fin _ m e => (roundToInt .rne false m (e - ((ex : Int) - 127 - SxFmt.mbits f - mu))).1.natAbs
        | _ => 0
      b.ex ≤ 254 ∧ b.elems.length = 16 ∧
      (∀ j, j < 8 → (b.mu.testBit j = true ↔ mag (2 * j) b.ex 1 ≤ top ∧ mag (2 * j + 1) b.ex 1 ≤ top)) ∧
      (∀ i, i < 16 → b.elems.getD i 0 = min (mag i b.ex (b.mu.testBit (i / 2)).toNat) top +
        if (xs.getD i (.fin false 0 0)).neg = true then 2 ^ SxFmt.mbits f else 0) ∧
      ((∀ x ∈ xs, ∃ neg e, x = .fin neg 0 e) → b.ex = 0) ∧
      ∀ i m e, i < 16 → (∃ neg, xs.getD i (.fin false 0 0) = .fin neg m e) → m ≠ 0 →
        (∀ j, j < i → ∀ neg k z, xs.getD j (.fin false 0 0) = .fin neg k z →
          (Sys2Proof.Machine.Num.fin false k z).lt (.fin false m e) = true) →
        (∀ x ∈ xs, ∀ neg k z, x = .fin neg k z → (Sys2Proof.Machine.Num.fin false m e).lt (.fin false k z) = false) →
        let e0 := (max 0 (e + (Nat.log2 m : Int) + 128)).toNat
        b.ex = min 254 (if e0 ≤ 254 ∧ mag i e0 0 = 2 ^ SxFmt.mbits f then e0 + 1 else e0))) ∧
  ∀ (s : State) (d a b : VReg) (dm mk : MReg) (t : ETy) (f : SxFmt) (h part : Bool),
    let bs := sxBlocks f t (s.rdV a) (s.rdM mk)
    let img := sxImage f (bs.map (·.1))
    (t.isVecFloat = true →
      ∃ fl, WritesV (.vcvtsxTo d a t mk f) s d 1 .n8 (fun _ i => img / 2 ^ (8 * i) % 256) fl ∧
        ∀ j, fl.getLsbD j = bs.any fun x => x.2.getLsbD j) ∧
    WritesV (.vcvtsxFrom d a h .f32 mk f) s d 1 .f32 (governedBy s .f32 mk d fun _ j =>
      (convert .f32 .rne false (sxImageElem f (s.rdV a).toNat (128 * h.toNat + j))).1 % 2 ^ 32) 0 ∧
    (t.isMatch = true → dm ≠ 0 →
      let n := t.count
      let l := min (velem t (s.rdV b) (n - 1)) 64
      let valid (i : Nat) : Prop := i < n ∧ (s.rdM mk).getLsbD i = true
      let same (i k : Nat) : Prop := ∀ j, j < k → valid (i + j) ∧ velem t (s.rdV a) (i + j) = velem t (s.rdV b) j
      ∃ val, WritesM (.vmatch dm a b t mk part) s dm n val 0 ∧
        ∀ i, i < n → (val i = true ↔
          (0 < l ∧ same i l) ∨ (part = true ∧ ∃ k, 0 < k ∧ k < l ∧ same i k ∧ ¬ valid (i + k))))

/-! ### The memory space (R86 to R148) -/

/-- R125 to R134, R148: every load completes in every space where its access is open and aligned: the register takes the
bytes read at the effective address of its format, extended or packed as its entry says. That the offence kept is the lowest
offending byte of all its elements is the model's choice (log entry 23). -/
def Obligations.LoadsComplete : Prop :=
  ∀ (s s1 : State) (spc : Space) (d b i : SReg) (v vi : VReg) (k : DReg) (z : Size) (x scl : Bool) (o : BitVec 8)
      (o11 : BitVec 11) (mk4 : BitVec 2) (mk : MReg) (bs : List Byte) (bss : List (List Byte)),
    let n := Size.bytes z
    let on := governedIdx (s.rdM4 mk4) (512 / n)
    let ea := eaM (s.rdS b) o11
    let at' (addr : Nat → Word) : List Word := on.map addr
    let open' (as' : List Word) : Prop := (∀ a ∈ as', a.toNat % n = 0) ∧ Reads s spc (as'.map fun a => (a, n)) s1 bss
    let es := streamElems (s.rdD k) (s.rdS i) (s.rdM mk)
    (Reads s spc [(eaMs (s.rdS b) z o, n)] s1 [bs] →
      exec (.ld spc d b z x o) s = .next (s1.wrS d (extendBytes x n bs))) ∧
    (Reads s spc [(eaMx (s.rdS b) (s.rdS i) z scl, n)] s1 [bs] →
      exec (.ldx spc d b i z x scl) s = .next (s1.wrS d (extendBytes x n bs))) ∧
    (ea.toNat % 64 = 0 → Reads s spc [(ea, 512)] s1 [bs] →
      exec (.vld spc v b o11) s = .next (s1.wrV v (vecOfBytes bs))) ∧
    (open' (at' (strideAt (s.rdS b) (s.rdS i))) →
      exec (.vlds spc v b i z mk4) s = .next (s1.wrV v (vecOfElems n on bss))) ∧
    (z.isWordOrD = true → open' (at' (indexAt (s.rdS b) (s.rdV vi) n scl)) →
      exec (.vldx spc v b vi z scl mk4) s = .next (s1.wrV v (vecOfElems n on bss))) ∧
    (streamOk (s.rdD k) false = true →
      Reads s (dSpc (s.rdD k)) (es.map fun p => (dAt (s.rdD k) p.2, (dBits (s.rdD k) + 7) / 8)) s1 bss →
      exec (.vldd v k i mk) s = .next (s1.wrV v (BitVec.ofNat 4096 ((es.zip bss).foldl (fun w p =>
        w ||| streamValue (s.rdD k) p.1.2 p.2 <<< (dBits (s.rdD k) * p.1.1)) 0)))) ∧
    ((s.rdS b).toNat % 32 = 0 → Reads s spc [(s.rdS b, 32)] s1 [bs] →
      exec (.dsetImg spc b k) s = .next (s1.wrD k (BitVec.ofNat 256 (leNat bs))))

/-- R125 to R134, R148: every store completes in the scratchpad and in global memory where its access is open and aligned:
it leaves the state in which the bytes of its register, or the bits of a 4-bit element alone, go to the effective address of
its format, and changes no register. That the offence kept is the lowest offending byte of all its elements, and that a
4-bit element is a write, is the model's choice (log entry 23). -/
def Obligations.StoresComplete : Prop :=
  ∀ (s s1 : State) (spc : Space) (d b i : SReg) (v vi : VReg) (k : DReg) (z : Size) (scl : Bool) (o : BitVec 8)
      (o11 : BitVec 11) (mk4 : BitVec 2) (mk : MReg),
    let n := Size.bytes z
    let x := s.rdD k
    let ea := eaM (s.rdS b) o11
    let low : List Byte := leBytes n (s.rdS d).toNat
    let els (addr : Nat → Word) : List (Word × List Byte) :=
      (governedIdx (s.rdM4 mk4) (512 / n)).map fun j => (addr j, leBytes n (elemOf (8 * n) (s.rdV v).toNat j))
    let even (addr : Nat → Word) : Prop := ∀ e ∈ els addr, e.1.toNat % n = 0
    let es := streamElems x (s.rdS i) (s.rdM mk)
    (Stores s spc [(eaMs (s.rdS b) z o, low)] s1 → exec (.st spc d b z o) s = .next s1) ∧
    (Stores s spc [(eaMx (s.rdS b) (s.rdS i) z scl, low)] s1 → exec (.stx spc d b i z scl) s = .next s1) ∧
    (ea.toNat % 64 = 0 → Stores s spc [(ea, leBytes 512 (s.rdV v).toNat)] s1 → exec (.vst spc v b o11) s = .next s1) ∧
    (even (strideAt (s.rdS b) (s.rdS i)) → Stores s spc (els (strideAt (s.rdS b) (s.rdS i))) s1 →
      exec (.vsts spc v b i z mk4) s = .next s1) ∧
    (z.isWordOrD = true → even (indexAt (s.rdS b) (s.rdV vi) n scl) →
      Stores s spc (els (indexAt (s.rdS b) (s.rdV vi) n scl)) s1 → exec (.vstx spc v b vi z scl mk4) s = .next s1) ∧
    (streamOk x true = true → 8 ≤ dBits x →
      Stores s (dSpc x) (es.map fun p => (dAt x p.2, leBytes (dBits x / 8) (elemOf (dBits x) (s.rdV v).toNat p.1))) s1 →
      exec (.vstd v k i mk) s = .next s1) ∧
    (streamOk x true = true → dBits x < 8 → dSpc x = .sp → s.mustWait (writesOf .sp (es.map fun p => (dAt x p.2, 1))) = false →
      s.unsafeAt .sp (es.map fun p => (dAt x p.2, 1)) = none →
      (∀ p ∈ es, s.spWaits s.cur s.ctxn (dAt x p.2).toNat 1 = false) →
      exec (.vstd v k i mk) s = .next (es.foldl (fun u p => u.putBitsSp (dAt x p.2) (dBitOff x (dIndex x p.2).1) (dBits x)
        (elemOf (dBits x) (s.rdV v).toNat p.1))
        (s.offendIf s.cur true (s.lowestBad s.ctxn (es.map fun p => (dAt x p.2, 1)))))) ∧
    (∀ s0 ls, streamOk x true = true → dBits x < 8 → dSpc x = .g →
      s.mustWait (writesOf .g (es.map fun p => (dAt x p.2, 1))) = false →
      s.unsafeAt .g (es.map fun p => (dAt x p.2, 1)) = none →
      (∀ p ∈ es, canonicalRange (dAt x p.2) 1 = true) →
      State.planAll s.cur s.ctxn .write false s (es.map fun p => (dAt x p.2, 1)) = .ok (s0, ls) →
      exec (.vstd v k i mk) s = .next (s0.gSend s0.cur s0.ctxn none ((es.zip ls).map fun p =>
        (p.2, [bitPatch (dBitOff x (dIndex x p.1.2).1) (dBits x) (elemOf (dBits x) (s.rdV v).toNat p.1.1)])))) ∧
    ((s.rdS b).toNat % 32 = 0 → Stores s spc [(s.rdS b, leBytes 32 (s.rdD k).toNat)] s1 →
      exec (.dgetImg spc b k) s = .next s1)

/-- R131, R132, R87 and R88: a load from owned scratchpad words, by a task with no provisional bytes, that waits for no access
of its task before it (R108), gives their bytes, lowest address first; a narrow load extends them with zeros or with the top
bit. It changes no flag, no byte and no other register. R131, R132, R88 and R91: a store to owned scratchpad words, inside
its frame where its task is a quorum member (R129), puts the low bytes of its register there, lowest address first, and
makes the tags of the words it touches full. Every other byte of every memory, every other tag and every register stays. -/
def Obligations.ScratchpadAccess : Prop :=
  (∀ (s : State) (d b i : SReg) (v : VReg) (z : Size) (x scl : Bool) (o : BitVec 8) (o11 : BitVec 11) (h : TileIx)
      (off : Nat), s.t.commit.lines = [] →
    let n := Size.bytes z
    let rd (a : Word) (n : Nat) : Prop := SpPlain s a n h off ∧ s.mustWait (readsOf .sp [(a, n)]) = false
    let val : Nat := leNat (spBytes s h off n)
    let w : Word := if x = true ∧ 2 ^ (8 * n - 1) ≤ val then BitVec.ofInt 64 ((val : Int) - 2 ^ (8 * n))
      else BitVec.ofNat 64 val
    (rd (eaMs (s.rdS b) z o) n → WritesS (.ld .sp d b z x o) s d w 0) ∧
    (rd (eaMx (s.rdS b) (s.rdS i) z scl) n → WritesS (.ldx .sp d b i z x scl) s d w 0) ∧
    ((eaM (s.rdS b) o11).toNat % 64 = 0 → rd (eaM (s.rdS b) o11) 512 →
      WritesV (.vld .sp v b o11) s v 1 .n8 (fun _ j => (cellGet (s.tile h).sp (off + j)).toNat) 0)) ∧
  (∀ (s : State) (d b i : SReg) (v : VReg) (z : Size) (scl : Bool) (o : BitVec 8) (o11 : BitVec 11) (h : TileIx)
      (off : Nat), Memory.wf (s.tile h).sp = true →
    let n := Size.bytes z
    let wr (a : Word) (n : Nat) : Prop := SpPlain s a n h off ∧ s.mustWait (writesOf .sp [(a, n)]) = false ∧
      s.unsafeAt .sp [(a, n)] = none
    let low : List Byte := leBytes n (s.rdS d).toNat
    let ok (i : Instr) (bs : List Byte) : Prop := ∃ t, exec i s = .next t ∧ SpStored s t h off bs
    (wr (eaMs (s.rdS b) z o) n → ok (.st .sp d b z o) low) ∧
    (wr (eaMx (s.rdS b) (s.rdS i) z scl) n → ok (.stx .sp d b i z scl) low) ∧
    ((eaM (s.rdS b) o11).toNat % 64 = 0 → wr (eaM (s.rdS b) o11) 512 →
      ok (.vst .sp v b o11) (leBytes 512 (s.rdV v).toNat)))

/-- R88: a word of a scalar access that offends reads zero and takes no byte; the access raises no fault. `OOBADDR` and
`OOBFLAG` record its address and its kind, unless an earlier offence is held. Here the address is malformed, so every byte
offends. R127: the whole-register forms at an address that is no multiple of 64, the descriptor images at one that is no
multiple of 32, and the scalar atomics and full/empty forms at one that is no multiple of their size, raise MISALIGN with
that address, and nothing else happens. -/
def Obligations.OffendingAndMisaligned : Prop :=
  (∀ (s : State) (d b : SReg) (z : Size) (x : Bool) (o : BitVec 8),
    let a := eaMs (s.rdS b) z o
    spHome s.cur a.toNat = none →
    (s.mustWait (readsOf .sp [(a, Size.bytes z)]) = false →
      ∃ t, exec (.ld .sp d b z x o) s = .next t ∧ t.regs.getS d = 0 ∧ SameBytes s t ∧
      t.regs.ctl.oobFlag = true ∧ (s.regs.ctl.oobFlag = false → t.regs.ctl.oobAddr = a.setWidth 32 ∧
        t.regs.ctl.oobWr = false) ∧
      (s.regs.ctl.oobFlag = true → t.regs.ctl = s.regs.ctl)) ∧
    (s.member = false → s.mustWait (writesOf .sp [(a, Size.bytes z)]) = false →
      ∃ t, exec (.st .sp d b z o) s = .next t ∧ SameBytes s t ∧ t.regs.s = s.regs.s ∧
      t.regs.ctl.oobFlag = true ∧ (s.regs.ctl.oobFlag = false → t.regs.ctl.oobAddr = a.setWidth 32 ∧
        t.regs.ctl.oobWr = true) ∧
      (s.regs.ctl.oobFlag = true → t.regs.ctl = s.regs.ctl))) ∧
  (∀ (s : State) (spc : Space) (d b : SReg) (v : VReg) (k : DReg) (z : Size) (o : BitVec 8) (o11 : BitVec 11)
      (f : AmoOp) (sc : Scope) (od : Order), spc ≠ .cd →
    let ea := eaM (s.rdS b) o11
    let traps (i : Instr) (a : Word) : Prop := exec i s = s.issueTrap causeMisalign a
    (ea.toNat % 64 ≠ 0 →
      traps (.vld spc v b o11) ea ∧ traps (.vst spc v b o11) ea ∧ traps (.vstp spc v b o11) ea) ∧
    ((s.rdS b).toNat % 32 ≠ 0 → traps (.dsetImg spc b k) (s.rdS b) ∧ traps (.dgetImg spc b k) (s.rdS b)) ∧
    ((s.rdS b).toNat % Size.bytes z ≠ 0 → traps (.amo spc d b f sc z od) (s.rdS b)) ∧
    ((eaMs (s.rdS b) z o).toNat % Size.bytes z ≠ 0 →
      traps (.ldfe .sp d b z o) (eaMs (s.rdS b) z o) ∧ traps (.ldfec .sp d b z o) (eaMs (s.rdS b) z o) ∧
      traps (.stfe .sp d b z o) (eaMs (s.rdS b) z o))) ∧
  (∀ (s : State) (a : Word) (n : Nat), 0 < n → a.toNat % 2 ^ 21 + n ≤ 2 ^ 21 →
    let c := s.src.ctl
    let off (j : Nat) : Nat := a.toNat % 2 ^ 21 + j
    let inside (j : Nat) : Prop := (c.qframeBase.toNat ≤ off j ∧ off j < c.qframeBase.toNat + c.qframeSize.toNat) ∨
      (c.hnd = true ∧ ∃ g, s.t.lowestSeg c.ctxn = some g ∧ g.toNat * 65536 + 0xF000 ≤ off j ∧ off j < (g.toNat + 1) * 65536)
    (s.member = false → s.unsafeAt .sp [(a, n)] = none) ∧
    (s.member = true →
      (s.unsafeAt .g [(a, n)] = some a) ∧
      (spHome s.cur a.toNat ≠ some s.cur → s.unsafeAt .sp [(a, n)] = some a) ∧
      (spHome s.cur a.toNat = some s.cur → (∀ j, j < n → inside j) → s.unsafeAt .sp [(a, n)] = none) ∧
      (spHome s.cur a.toNat = some s.cur → ∀ j, j < n → (∀ k, k < j → inside k) → ¬ inside j →
        s.unsafeAt .sp [(a, n)] = some (a + BitVec.ofNat 64 j)))) ∧
  (∀ (s : State) (spc : Space) (d b i : SReg) (v : VReg) (k : DReg) (z : Size) (scl : Bool) (o : BitVec 8) (o11 : BitVec 11)
      (f : AmoOp) (fa : FAmo) (fv : VamoOp) (sc : Scope) (od : Order) (x : Word), spc ≠ .cd →
    let offends (i : Instr) (spc : Space) (a : Word) (n al : Nat) : Prop :=
      i.wf = true → a.toNat % al = 0 → s.unsafeAt spc [(a, n)] = some x → exec i s = s.issueTrap causeQuorumUnsafe x
    let ea := eaM (s.rdS b) o11
    let w : Word := BitVec.ofNat 64 ((eaMs (s.rdS b) z o).toNat / 8 * 8)
    let w64 := eaMs (s.rdS b) z o
    let n := Size.bytes z
    offends (.st spc d b z o) spc (eaMs (s.rdS b) z o) n 1 ∧
    offends (.stx spc d b i z scl) spc (eaMx (s.rdS b) (s.rdS i) z scl) n 1 ∧
    offends (.vst spc v b o11) spc ea 512 64 ∧ offends (.dgetImg spc b k) spc (s.rdS b) 32 32 ∧
    offends (.amo spc d b f sc z od) spc (s.rdS b) n n ∧ offends (.amof spc d b fa sc z od) spc (s.rdS b) n n ∧
    offends (.cas spc d b sc z od) spc (s.rdS b) n n ∧ offends (.vamo spc v b fv sc z od) spc (s.rdS b) 512 64 ∧
    (w64.toNat % n = 0 → ∀ i ∈ [Instr.ldfec .sp d b z o, .stfe .sp d b z o], offends i .sp w 8 1) ∧
    (w64.toNat % 64 = 0 → ∀ i ∈ [Instr.ldfecV .sp v b z o, .stfeV .sp v b z o], offends i .sp w64 512 1))

/-- R91, R92, R129 and R135: a full/empty access whose words satisfy its wait, with no earlier waiter in its way, completes at
once: a load reads, `LDFEC` leaves the words empty, and `STFE` stores the low bytes of its register, lowest address first, at
the bytes it addresses that do not offend, and leaves its words full; no other byte of a scratchpad changes, and no other
register. Where a word keeps it waiting, the task waits, bounded by its watchdog; a quorum member does either inside its
frame alone. R136: `FESET` and `FECLR` complete for every 8-byte aligned start and every count: each word of the range that
does not offend takes the tag, and no byte of a scratchpad changes. -/
def Obligations.FullEmptyResults : Prop :=
  (∀ (s : State) (i : Instr) (q : FeReq),
    feReq s.cur s.src i = some q → i.wf = true →
    q.addr.toNat % (if q.bytes = 512 then 64 else q.bytes) = 0 →
    (feWrites i = true → s.unsafeAt .sp [(BitVec.ofNat 64 q.base, 8 * q.words)] = none ∧ s.t.ctlPending = false) →
    s.mustWait (q.mem i) = false → s.spWaits s.cur q.ctx q.base (8 * q.words) = false →
    let old := s.spRead q.tile q.ctx true q.addr.toNat q.bytes
    let at' := s.spLocs q.tile q.ctx q.addr.toNat q.bytes
    let stored (t : State) (bs : List Byte) : Prop := Memory.wf (s.tile at'.1).sp = true →
      (∀ j off, at'.2[j]? = some (some off) → cellGet (t.tile at'.1).sp off = bs.getD j 0) ∧
      ∀ x off, (x = at'.1 → some off ∉ at'.2) → cellGet (t.tile x).sp off = cellGet (s.tile x).sp off
    (s.feReady q = true → s.feBehind q none = false →
      (q.full = true → s.spPoisoned q.tile q.ctx q.addr.toNat q.bytes = none) →
      ∃ t, exec i s = .next t ∧ t.t.wait = s.t.wait ∧
        (∀ off, some off ∈ (s.feWords q).2 → (t.tile (s.feWords q).1).tagFull off =
          (match i with
          | .ldfec .. | .ldfecV .. => false
          | _ => true)) ∧
        (match i with
        | .ldfe _ d _ _ _ | .ldfec _ d _ _ _ =>
          t.regs.getS d = (if d = 0 then 0 else BitVec.ofNat 64 (leNat old)) ∧ SameScratch s t ∧
          (∀ a, a ≠ d → t.regs.getS a = s.regs.getS a) ∧ t.regs.v = s.regs.v
        | .ldfeV _ d _ _ _ | .ldfecV _ d _ _ _ => t.regs.getV d = vecOfBytes old ∧ SameScratch s t ∧
          (∀ a, a ≠ d → t.regs.getV a = s.regs.getV a) ∧ t.regs.s = s.regs.s
        | .stfe _ d _ _ _ => stored t (leBytes q.bytes (s.rdS d).toNat) ∧ t.regs.s = s.regs.s ∧ t.regs.v = s.regs.v
        | .stfeV _ d _ _ _ => stored t (leBytes 512 (s.rdV d).toNat) ∧ t.regs.s = s.regs.s ∧ t.regs.v = s.regs.v
        | _ => True)) ∧
    (s.feReady q = false ∨ s.feBehind q none = true → exec i s = .next (s.waitFor i s.t.view.fewdog.toNat (q.mem i)))) ∧
  (∀ (s : State) (b c : SReg) (full : Bool),
    let n := tagCount (s.rdS c)
    let p := s.tagLocs (s.rdS b) n
    let i : Instr := if full = true then .feset .sp b c else .feclr .sp b c
    let ws := (List.range n).map fun j => (s.rdS b + BitVec.ofNat 64 (8 * j), 8)
    (s.rdS b).toNat % 8 = 0 →
    (∀ x, s.unsafeAt .sp ws = some x → exec i s = s.issueTrap causeQuorumUnsafe x) ∧
    (s.unsafeAt .sp ws = none → s.edgeWaits = false →
      (∀ off, some off ∈ p.2 → (s.tile p.1).zeroing s.ctxn off = false) →
      ∃ t, exec i s = .next t ∧
        (∀ off, some off ∈ p.2 → (t.tile p.1).tagFull off = full) ∧
        (∀ x w, ¬ (x = p.1 ∧ ∃ off, some off ∈ p.2 ∧ off / 8 = w) →
          (t.tile x).tagFull (8 * w) = (s.tile x).tagFull (8 * w)) ∧
        SameScratch s t ∧ t.regs.s = s.regs.s))

/-- R137 to R142: every atomic completes in the scratchpad and in global memory where its access is open and aligned: the
old value goes to the register that gave the operand, zero-extended, and an acquire drops the stale lines of its context
afterwards. R140: the new value of a floating atomic is the sum rounded once, or the smaller or larger of two numbers, -0
below +0; a NaN gives way to a number, and under `.PROP` wins; a NaN that results is the canonical one, and a signalling
operand sets NV. -/
def Obligations.AtomicsComplete : Prop :=
  (∀ (t : ETy) (f : BinFmt) (p bf : Bool) (old b : Nat), binFmt t = some f →
    let x := readNum t old
    let y := readNum t b
    let nv : Flags := if x.isSnan = true ∨ y.isSnan = true then flNV else 0
    let pick (lower : Bool) : Nat :=
      if (x.isNan = true ∧ y.isNan = true) ∨ (p = true ∧ (x.isNan = true ∨ y.isNan = true)) then f.nanPat
      else if x.isNan = true then b
      else if y.isNan = true then old
      else if (if lower = true then y.below x else x.below y) = true then b else old
    famoNew (.min p bf) t old b = (pick true, nv) ∧ famoNew (.max p bf) t old b = (pick false, nv) ∧
    (famoNew (.add bf) t old b).1 = (f.round .rne false (x.add .rne y).1).1 ∧
    (famoNew (.add bf) t old b).2 = (x.add .rne y).2 ||| (f.round .rne false (x.add .rne y).1).2 ||| nv ∧
    (x.isNan = true ∨ y.isNan = true → (famoNew (.add bf) t old b).1 = f.nanPat) ∧
    vamoNew .addF32 32 old b = famoNew (.add false) .f32 old b ∧
    vamoNew .addBf16 16 old b = famoNew (.add true) .bf16 old b) ∧
  ∀ (s s1 : State) (spc : Space) (d b : SReg) (v : VReg) (f : AmoOp) (fa : FAmo) (fv : VamoOp) (sc : Scope) (z : Size)
      (o : Order) (old : Nat) (olds : List Nat),
    let n := Size.bytes z
    let a := s.rdS b
    let x := (s.rdS d).toNat % 2 ^ (8 * n)
    let y := (s.rdS (d + 1)).toNat % 2 ^ (8 * n)
    let t := famoTy fa z
    let m := 2 ^ valWidth t
    let el (k : Nat) : Nat := elemOf (8 * n) (s.rdV v).toNat k
    let fin (u : State) : State := if Order.acq o = true then u.acquireEdge u.cur (Scope.within sc spc) else u
    (a.toNat % n = 0 →
      (Rmw s spc sc o a n 1 (fun _ w => some (amoNew f (8 * n) w x)) s1 [old] →
        exec (.amo spc d b f sc z o) s = .next (fin (s1.wrS d (BitVec.ofNat 64 old)))) ∧
      ((Instr.amof spc d b fa sc z o).wf = true →
        Rmw s spc sc o a n 1 (fun _ w => some (famoNew fa t (w % m) (x % m)).1) s1 [old] →
        exec (.amof spc d b fa sc z o) s =
          .next (fin ((s1.wrS d (BitVec.ofNat 64 old)).raise (famoNew fa t (old % m) (x % m)).2))) ∧
      ((Instr.cas spc d b sc z o).wf = true →
        Rmw s spc sc o a n 1 (fun _ w => if w = x then some y else none) s1 [old] →
        exec (.cas spc d b sc z o) s = .next (fin (s1.wrS d (BitVec.ofNat 64 old))))) ∧
    (a.toNat % 64 = 0 → (Instr.vamo spc v b fv sc z o).wf = true →
      Rmw s spc sc o a n (512 / n) (fun k w => some (vamoNew fv (8 * n) w (el k)).1) s1 olds →
      exec (.vamo spc v b fv sc z o) s =
        .next (fin ((s1.wrV v (vecOfElems n (List.range (512 / n)) (olds.map (leBytes n)))).raise
          (((List.range (512 / n)).zip olds).foldl (fun fl p => fl ||| (vamoNew fv (8 * n) p.2 (el p.1)).2) 0))))

/-- R139 and R141: a relaxed integer atomic or compare-and-swap on owned scratchpad words: the register takes the old value,
the location the new one of its operation on values of the access size, or keeps its value where a `CAS` fails; the tag is
full either way, and nothing else changes in any scratchpad. -/
def Obligations.AtomicScratchpad : Prop :=
  ∀ (s : State) (d b : SReg) (f : AmoOp) (sc : Scope) (z : Size) (h : TileIx) (off : Nat),
    let n := Size.bytes z
    let w := 8 * n
    let x := (s.rdS d).toNat % 2 ^ w
    let y := (s.rdS (d + 1)).toNat % 2 ^ w
    let old := leNat (spBytes s h off n)
    let sx (v : Nat) : Int := if v < 2 ^ (w - 1) then v else (v : Int) - 2 ^ w
    let new : Nat := match f with
      | .add => (old + x) % 2 ^ w
      | .and => old &&& x
      | .or => old ||| x
      | .xor => old ^^^ x
      | .swap => x
      | .min => if sx old ≤ sx x then old else x
      | .max => if sx x ≤ sx old then old else x
      | .minn => min old x
      | .maxn => max old x
    let took (i : Instr) (v : Nat) : Prop := ∃ t, exec i s = .next t ∧
      t.regs.getS d = (if d = 0 then 0 else BitVec.ofNat 64 old) ∧ (∀ r, r ≠ d → t.regs.getS r = s.regs.getS r) ∧
      (∀ u a, cellGet (t.tile u).sp a =
        if u = h ∧ off ≤ a ∧ a < off + n then (leBytes n v).getD (a - off) 0 else cellGet (s.tile u).sp a) ∧
      (t.tile h).tagFull off = true
    s.unsafeAt .sp [(s.rdS b, n)] = none → s.mustWait (atomicMem .sp (s.rdS b) n .relaxed) = false →
    Memory.wf (s.tile h).sp = true → (s.rdS b).toNat % n = 0 → SpPlain s (s.rdS b) n h off →
    took (.amo .sp d b f sc z .relaxed) new ∧
    (d.toNat % 2 = 0 → (Instr.cas .sp d b sc z .relaxed).wf = true →
      took (.cas .sp d b sc z .relaxed) (if old = x then y else old))

/-- R107, R112, R113, R115 and R143: `FENCE` is performed at once, for every order and scope it accepts, where no access of
its task that it orders is still to be performed, and for a release no control write: a release leaves no write the tile sees
on its way short of the point of the scope, which is its cluster, the cache of its die, or the homes; an acquire from CLUSTER
scope up leaves no line of the context in the L1, and from DEVICE scope up no line in the cache of the die; and no register
or scratchpad changes. The points of the scopes, and the drop of the die's cache, are the model's choice (log entry 21). -/
def Obligations.FenceResults : Prop :=
  ∀ (s : State) (sc : Scope) (o : Order), o.isFence = true →
    s.mustWait ⟨[], false, false, Order.acq o, Order.rel o⟩ = false → (Order.rel o = true → s.t.ctlPending = false) →
    let far : Bool := sc == .device || sc == .system
    ∃ t, exec (.fence sc o) s = .next t ∧ SameScratch s t ∧ (∀ x, (t.tile x).regs = (s.tile x).regs) ∧
      (Order.rel o = true → sc ≠ .tile → t.t.wbuf = [] ∧
        (sc ≠ .cluster → (t.cluster (clusterOf s.cur)).wbuf = []) ∧ (far = true → (t.die (dieOf s.cur)).wbuf = [])) ∧
      (Order.acq o = true → (sc ≠ .tile → ∀ l ∈ t.t.l1, l.asid ≠ (s.ctx s.regs.ctl.ctxn).asid) ∧
        (far = true → (t.die (dieOf s.cur)).cache = []))

/-- R144, R309 and R310: a provisional store and a contribution that fit the commit buffer complete: they enter it, and no
byte of any memory changes until the task retires; with one line too few they raise COMMIT_OVERFLOW, which enters nothing.
-/
def Obligations.ProvisionalResults : Prop :=
  ∀ (s : State) (d b i : SReg) (v : VReg) (z : Size) (o : BitVec 8) (o11 : BitVec 11) (m : BitVec 7) (r : Running),
    s.t.run = some r →
    let held (i : Instr) (c : CommitBuf) (a : Word) : Prop :=
      (c.size ≤ commitLines → ∃ t, exec i s = .next t ∧ t.t.commit = c ∧ SameBytes s t ∧ t.regs = s.regs) ∧
      (commitLines < c.size → ∃ u, exec i s = u.issueTrap causeCommitOverflow a ∧ SameBytes s u ∧ u.t.commit = s.t.commit)
    let sp (a : Word) (bs : List Byte) : CommitBuf :=
      s.t.commit.putSp (s.spLocs s.cur s.ctxn a.toNat bs.length).1 (s.spLocs s.cur s.ctxn a.toNat bs.length).2 bs
    let low : List Byte := leBytes (Size.bytes z) (s.rdS d).toNat
    let free (a : Word) (n : Nat) : Prop := s.mustWait (writesOf .sp [(a, n)]) = false
    (∀ h off, free (eaMs (s.rdS b) z o) (Size.bytes z) → SpPlain s (eaMs (s.rdS b) z o) (Size.bytes z) h off →
      held (.stp .sp d b z o) (sp (eaMs (s.rdS b) z o) low) (eaMs (s.rdS b) z o)) ∧
    ((eaM (s.rdS b) o11).toNat % 64 = 0 → free (eaM (s.rdS b) o11) 512 → ∀ h off, SpPlain s (eaM (s.rdS b) o11) 512 h off →
      held (.vstp .sp v b o11) (sp (eaM (s.rdS b) o11) (leBytes 512 (s.rdV v).toNat)) (eaM (s.rdS b) o11)) ∧
    (s.src.ctl.qjoin ≠ 0 →
      held (.contrib v i m) { s.t.commit with contribs := s.t.commit.contribs ++ [⟨(s.rdS i).toNat,
        (List.range (m.toNat + 1)).map fun k => BitVec.ofNat 32 (elemOf 32 (s.rdV v).toNat k)⟩] } 0)

/-- R145: a put by the stage a pipe comes from, with fewer than 8 entries in it, completes: its register becomes the newest
entry. A get by the stage it goes to, with an entry in it, completes: the oldest entry goes to its register. With the pipe
full, or empty, the task waits, bounded by its watchdog. -/
def Obligations.PipeResults : Prop :=
  ∀ (s : State) (d : VReg) (n : BitVec 4) (p : Pipe), s.pipe s.cur n = some p →
    s.mustWait pipeMem = false → s.t.ctlPending = false →
    (p.src = s.src.ctl.stage →
      (p.entries.length < 8 → ∃ t, exec (.pipep d n) s = .next t ∧
        t.pipe s.cur n = some { p with entries := p.entries ++ [s.rdV d] } ∧ t.regs = s.regs ∧ SameScratch s t) ∧
      (8 ≤ p.entries.length → exec (.pipep d n) s = .next (s.waitFor (.pipep d n) s.t.view.pipewdog.toNat pipeMem))) ∧
    (p.dst = s.src.ctl.stage →
      (∀ v rest, p.entries = v :: rest → ∃ t, exec (.pipeg d n) s = .next t ∧
        t.pipe s.cur n = some { p with entries := rest } ∧ t.regs.getV d = v ∧
        (∀ a, a ≠ d → t.regs.getV a = s.regs.getV a) ∧ SameScratch s t) ∧
      (p.entries = [] → exec (.pipeg d n) s = .next (s.waitFor (.pipeg d n) s.t.view.pipewdog.toNat pipeMem)))

/-- R146, R147 and R148: a prefetch changes no register, tag or byte in any state; parking moves one of the 56 slots of an
accumulator tile, bit for bit, and its spill map follows; the field forms of the descriptor moves read and write one field
of a descriptor. -/
def Obligations.ParkAndDescriptorResults : Prop :=
  ∀ (s : State) (b d : SReg) (v : VReg) (j : BitVec 6) (c : AccReg) (k : DReg) (f : BitVec 6) (o : BitVec 11)
      (dc rel : Bool),
    (∃ t, exec (.pref .g dc b o) s = .next t ∧ SameBytes s t ∧ ∀ x, (t.tile x).regs = (s.tile x).regs ∧
      (t.tile x).empties = (s.tile x).empties) ∧
    (j.toNat < 56 →
      (∃ t, exec (.vpark v j c) s = .next t ∧ SameBytes s t ∧ t.t.mx.spill.getLsbD c.toNat = true ∧
        (∀ n, n < 229376 → (t.regs.getC c).getLsbD n =
          if 4096 * j.toNat ≤ n ∧ n < 4096 * j.toNat + 4096 then (s.rdV v).getLsbD (n - 4096 * j.toNat)
          else (s.src.getC c).getLsbD n) ∧
        t.regs = { s.regs with c := t.regs.c } ∧ ∀ a, a ≠ c → t.regs.getC a = s.regs.getC a) ∧
      (s.t.slotPoison c j = none → ∃ t, exec (.vunpark v rel j c) s = .next t ∧ SameBytes s t ∧
        t.t.mx.spill.getLsbD c.toNat = (s.t.mx.spill.getLsbD c.toNat && !rel) ∧
        (∀ n, n < 4096 → (t.regs.getV v).getLsbD n = (s.src.getC c).getLsbD (4096 * j.toNat + n)) ∧
        t.regs = { s.regs with v := t.regs.v } ∧ ∀ a, a ≠ v → t.regs.getV a = s.regs.getV a)) ∧
    ((Instr.dset d k f).wf = true → ∃ t, exec (.dset d k f) s = .next t ∧ OnlyRegs s t ∧
      t.regs = { s.regs with d := t.regs.d } ∧ (∀ a, a ≠ k → t.regs.getD a = s.regs.getD a) ∧
      t.regs.getD k = dSet (s.rdD k) f.toNat (s.rdS d)) ∧
    ((Instr.dget d k f).wf = true → WritesS (.dget d k f) s d (dGet (s.rdD k) f.toNat) 0)

namespace Sys2Proof.Machine

/-- From `s` to `t`: the registers are `r`, the issue record is `i`, and nothing else differs. -/
def Became (s t : State) (r : Regs) (i : Issue) : Prop := t.regs = r ∧ t.t.issue = i ∧ OnlyRegs s t

/-- The registers at the bundle that follows one at their pc, when the bundle after it is `next` (R36, R82). -/
def Regs.passed (r : Regs) (next : Addr48) : Regs :=
  let f := loopStep r.pc next r.ctl.loop0 r.ctl.loop1
  { r with
    pc := f.1
    ctl := { r.ctl with loop0 := { r.ctl.loop0 with lc := f.2.1 }, loop1 := { r.ctl.loop1 with lc := f.2.2 } } }

end Sys2Proof.Machine

/-! ### The control space (R78 to R85) -/

/-- R36, R78 and R79: a transfer whose condition fails leaves everything; a taken one sets the next bundle to its target:
twice the offset from the bundle's address, or the address in `ra`. `CALL` and `CALLR` write `s63` with the address after
the bundle, `BRP` ends the innermost active loop, and an odd address in `ra` raises MISALIGN, but only where the condition
holds. -/
def Obligations.TransferResults : Prop :=
  ∀ (s : State) (q : PReg) (neg : Bool) (o : BitVec 21) (a : SReg),
    let dest : Addr48 := BitVec.ofInt 48 ((s.src.pc.toNat : Int) + 2 * o.toInt)
    let reg : Addr48 := (s.rdS a).extractLsb' 0 48
    let back : Word := BitVec.ofNat 64 ((s.src.pc.toNat + s.t.issue.size) % 2 ^ 48)
    let goes (i : Instr) (r : Regs) (l : Addr48) : Prop :=
      ∃ t, exec i s = .next t ∧ Became s t r { s.t.issue with npc := some l }
    let linked : Regs := { s.regs with s := s.regs.s.set 63 back }
    let c := s.regs.ctl
    let ended : Regs := { s.regs with ctl :=
      if s.src.ctl.loop1.lc ≠ 0 then { c with loop1 := { c.loop1 with lc := 0 } } else { c with loop0 := { c.loop0 with lc := 0 } } }
    (s.rdP q = neg → ∀ i ∈ [Instr.br q neg o, .brp q neg o, .call q neg o, .jr a neg q, .callr a neg q, .ret a neg q],
      exec i s = .next s) ∧
    (s.rdP q ≠ neg →
      goes (.br q neg o) s.regs dest ∧ goes (.brp q neg o) ended dest ∧ goes (.call q neg o) linked dest ∧
      ((s.rdS a).getLsbD 0 = false →
        goes (.jr a neg q) s.regs reg ∧ goes (.callr a neg q) linked reg ∧ goes (.ret a neg q) s.regs reg) ∧
      ((s.rdS a).getLsbD 0 = true → ∀ i ∈ [Instr.jr a neg q, .callr a neg q, .ret a neg q],
        exec i s = s.issueTrap causeMisalign (s.rdS a)))

/-- R81: `LOOP` and `LOOPI` program the hardware loop they name: its start after the bundle, its end at twice the end field
from the bundle's address, its count. An end inside the bundle raises ILLEGAL_OP, and a count of 0 transfers past the bundle
at the loop's end. R82: what follows the bundle at `a` without a taken transfer. The end bundle of an active loop steps its
count by one; with a count left the loop starts again; the inner loop goes first, and the outer is looked at only once the
inner is done. R35: a no-op bundle waits its stall count and takes a cycle, and the next bundle begins 2 bytes on; a padding
header goes on at the next 64-byte line, and takes a cycle only where it stalls. -/
def Obligations.LoopAndHeaderResults : Prop :=
  (∀ (s : State) (l : Bool) (a : SReg) (e : BitVec 18) (n e' : BitVec 12),
    let programs (i : Instr) (count : BitVec 32) (off : Nat) : Prop :=
      let x : LoopRegs := ⟨count, s.src.pc + BitVec.ofNat 48 s.t.issue.size, s.src.pc + BitVec.ofNat 48 (2 * off)⟩
      let set : Regs := { s.regs with ctl :=
        if l = true then { s.regs.ctl with loop1 := x } else { s.regs.ctl with loop0 := x } }
      (2 * off < s.t.issue.size → exec i s = s.illegal) ∧
      (s.t.issue.size ≤ 2 * off →
        (count ≠ 0 → ∃ t, exec i s = .next t ∧ Became s t set
          (if l = true then { s.t.issue with wroteLc1 := true } else { s.t.issue with wroteLc0 := true })) ∧
        (count = 0 → ∀ s1 bs, s.codeAt s.cur x.le = .ok (s1, bs) → ∃ t, exec i s = .next t ∧ t.regs = set ∧
          t.t.issue.npc = some (followHeader x.le (bs.getD 1 0 ++ bs.getD 0 0))))
    programs (.loop l a e) ((s.rdS a).extractLsb' 0 32) e.toNat ∧ programs (.loopi l n e') (n.zeroExtend 32) e'.toNat) ∧
  (∀ (a next : Addr48) (l0 l1 : LoopRegs),
    let at0 : Prop := l0.lc ≠ 0 ∧ a = l0.le
    let at1 : Prop := l1.lc ≠ 0 ∧ a = l1.le
    (at1 → l1.lc ≠ 1 → loopStep a next l0 l1 = (l1.ls, l0.lc, l1.lc - 1)) ∧
    (at1 → l1.lc = 1 → ¬ at0 → loopStep a next l0 l1 = (next, l0.lc, 0)) ∧
    (¬ at1 → ¬ at0 → loopStep a next l0 l1 = (next, l0.lc, l1.lc)) ∧
    (at0 → (¬ at1 ∨ l1.lc = 1) →
      loopStep a next l0 l1 = (if l0.lc = 1 then next else l0.ls, l0.lc - 1, if at1 then 0 else l1.lc))) ∧
  (∀ (s : State) (stall : BitVec 5),
    let at' := max s.t.cyc (s.t.nextIssue + stall.toNat)
    let passes (i : Instr) (next : Addr48) (cyc issue : Nat) : Prop := ∃ t, exec i s = .next t ∧ SameBytes s t ∧
      t = s.modT fun x => { x with cyc := cyc, nextIssue := issue, regs := s.regs.passed next }
    let line : Addr48 := BitVec.ofNat 48 (64 * (s.regs.pc.toNat / 64 + 1))
    (stall ≠ 0 → passes (.noOpBundle stall) (s.regs.pc + 2) (at' + 1) (at' + 1)) ∧
    (stall = 0 → exec (.noOpBundle stall) s = s.illegal) ∧
    (stall ≠ 0 → passes (.paddingHeader stall) line (at' + 1) (at' + 1)) ∧
    (stall = 0 → passes (.paddingHeader stall) line s.t.cyc s.t.nextIssue))

/-- R26, R29, R30 and R84: a `MOVC` writes the value of its control register; one of a fault register in handler mode arms
the handler. A `MOVCW` outside a bundle changes its register alone, to the value the register takes: the bits it has, a
one-to-clear field cleared, 0 never taken where it is not legal, the sizes capped; a flag of `FPFLAGS` that a result still
on its way sets in this cycle or later ends set (R21, R188). -/
def Obligations.ControlRegisters : Prop :=
  ∀ (s : State) (d a : SReg) (cr : BitVec 10),
    let W := s.rdS a
    let n := cr.toNat
    let old := s.readCr cr
    let low (k : Nat) : Word := BitVec.ofNat 64 (W.toNat % 2 ^ k)
    ((Instr.movc d cr).wf = true →
      (crFault cr = false → WritesS (.movc d cr) s d old 0) ∧
      (crFault cr = true → s.src.ctl.hnd = true →
        exec (.movc d cr) s = .next ((s.wrS d old).modT fun x => { x with armed := true })) ∧
      (crFault cr = true → s.src.ctl.hnd = false → s.src.ctl.sys = true → WritesS (.movc d cr) s d old 0)) ∧
    ((Instr.movcw a cr).wf = true → (crSystemWrite cr = true → s.src.ctl.sys = true) →
      ∃ t, exec (.movcw a cr) s = .next t ∧ SameBytes s t ∧ t.regs = { s.regs with ctl := t.regs.ctl } ∧
        (s.t.issue = .idle →
          (∀ c, c ≠ cr → t.readCr c = s.readCr c) ∧
          (n = 0x08 → t.readCr cr = if 5 ≤ W.toNat / 4 % 8 then BitVec.ofNat 64 (old.toNat / 4 * 4 + W.toNat % 4) else low 5) ∧
          (n = 0x09 → t.readCr cr = (old &&& ~~~W) ||| (s.t.lateFlags s.src.ctl.hnd).zeroExtend 64) ∧
          (n = 0x0A → t.readCr cr = low 1) ∧
          (n = 0x0B → t.readCr cr = if low 32 = 0 then 1 else low 32) ∧
          (n = 0x11 → t.readCr cr = if W.getLsbD 0 = true then 0 else old) ∧
          (n = 0x1E ∨ n = 0x41 ∨ n = 0x42 ∨ n = 0x44 ∨ n = 0x45 → t.readCr cr = W &&& 0xFFFFFFFFFFFE#64) ∧
          (n = 0x20 → t.readCr cr = if low 4 = 0 then old else low 4) ∧
          (n = 0x28 → t.readCr cr = W &&& 0x1FFFC0#64) ∧
          (n = 0x29 → t.readCr cr = if 65536 < W.toNat then 65536 else W &&& 0x1FFC0#64) ∧
          (n = 0x2A ∨ n = 0x40 ∨ n = 0x43 ∨ (0x58 ≤ n ∧ n ≤ 0x5B) → t.readCr cr = low 32) ∧
          (n = 0x30 → s.src.ctl.ctxn = 0 → t.readCr cr = low 32)))

/-! ### Privilege, traps and handlers (R351, R373 to R384) -/

/-- R351 and R382: outside system mode a system instruction or a write of a system register raises PRIV; so does a read of a
fault register by a task, and a `RETT` outside a handler. R83, R373, R374 and R384: `BRK` stops its bundle at issue with
BRK, and `TRAP` raises TRAPI once the other slots of its bundle have taken effect, with STEP set; each carries its immediate
in the data address. Outside a bundle each is taken at once. -/
def Obligations.PrivilegeAndSoftwareTraps : Prop :=
  (∀ (s : State) (a b d : SReg) (sc : Scope) (cr : BitVec 10),
    let priv (i : Instr) : Prop := exec i s = s.issueTrap causePriv s.whereWord
    (s.src.ctl.sys = false →
      priv .sleepOff ∧ priv (.tlbinvPage a b sc) ∧ priv (.tlbinvAsid b sc) ∧ priv (.tlbinvAll sc) ∧
      ((Instr.movcw a cr).wf = true → crSystemWrite cr = true → priv (.movcw a cr)) ∧
      ((Instr.movc d cr).wf = true → crFault cr = true → s.src.ctl.hnd = false → priv (.movc d cr))) ∧
    (s.src.ctl.hnd = false → priv (.rett a b) ∧ priv (.rettSkip a b))) ∧
  (∀ (s : State) (i : BitVec 19),
    let f (cause : BitVec 8) (step : Bool) : TrapRec :=
      ⟨cause, 0, BitVec.ofNat 4 s.t.issue.slot, false, step, i.zeroExtend 64, s.src.pc.zeroExtend 64⟩
    (s.t.issue.src.isSome = true →
      (∃ t, exec (.brk i) s = .next t ∧
        Became s t s.regs { s.t.issue with mark := .issueTrap, pend := some (f causeBrk false) }) ∧
      (s.t.issue.pend = none → ∃ t, exec (.trap i) s = .next t ∧
        Became s t s.regs { s.t.issue with pend := some (f causeTrapi true) })) ∧
    (s.t.issue.src = none →
      exec (.brk i) s = .next (s.takeTrap s.cur (f causeBrk false)) ∧
      exec (.trap i) s = .next (s.takeTrap s.cur (f causeTrapi true))))

/-- R374, R376, R377, R378 and R380: taking an exception with a handler. The pc goes to `TRAPV`; `s56` holds the end of the
lowest segment the context owns, `s57` to `s63` and `p7` are clear, the loops are off and `FPFLAGS` is 0, and the task's own
values of these are banked; every other register keeps its value. Bank 1 takes the cause, its fields and both addresses; in a
handler that has read it, it takes the new fault alone, and in one that has not, bank 1 moves to bank 2 under NESTED. R264,
R275, R311 and R375: of the task itself only this changes: the asynchronous causes pending wait for `RETT`, a deep
pre-emption that was due lapses unless the gang is stopping for its own, and a save under way ends. -/
def Obligations.TrapEntry : Prop :=
  ∀ (s : State) (t : TileIx) (f : TrapRec) (r : Running) (g : BitVec 5),
    let x := s.tile t
    let c := x.regs.ctl
    let u := s.takeTrap t f
    let y := u.tile t
    let b1 := y.regs.ctl.bank1
    x.run = some r → x.view.trapv ≠ 0 → f.cause ≠ causeResumeLost → x.lowestSeg c.ctxn = some g →
    (c.hnd = false ∨ x.armed = true ∨ c.bank2.cause.extractLsb' 0 8 = 0) →
    y.regs.pc = x.view.trapv ∧ y.regs.getS 56 = BitVec.ofNat 64 (65536 * g.toNat + 65536) ∧
    (∀ a : SReg, 57 ≤ a.toNat → y.regs.getS a = 0) ∧ (∀ a : SReg, a.toNat < 56 → y.regs.getS a = x.regs.getS a) ∧
    y.regs.getP 7 = false ∧ (∀ q, q ≠ 7 → y.regs.getP q = x.regs.getP q) ∧
    y.regs = { x.regs with
      s := y.regs.s, p := y.regs.p, pc := y.regs.pc
      ctl := { c with hnd := true, loop0 := .off, loop1 := .off, fpflags := 0, bank1 := b1, bank2 := y.regs.ctl.bank2 } } ∧
    b1.addr = f.addr ∧ b1.pc = f.pc ∧ b1.cause.extractLsb' 12 4 = f.slot ∧ b1.cause.getLsbD 8 = c.hnd ∧
    (c.hnd = false → y.banked = some x.regs.bank ∧ b1.cause.extractLsb' 0 8 = f.cause ∧ b1.cause.getLsbD 9 = f.step ∧
      b1.cause.getLsbD 10 = f.replay ∧ b1.cause.extractLsb' 16 8 = f.sub ∧ y.regs.ctl.bank2 = c.bank2) ∧
    (c.hnd = true → y.banked = x.banked ∧
      (x.armed = true → b1.cause.extractLsb' 0 8 = f.cause ∧ b1.cause.extractLsb' 16 8 = f.sub ∧
        y.regs.ctl.bank2 = ⟨0, 0, 0⟩) ∧
      (x.armed = false → b1.cause.extractLsb' 0 8 = causeNested ∧ b1.cause.extractLsb' 16 8 = f.cause ∧
        y.regs.ctl.bank2 = c.bank1)) ∧
    y.run = some { r with
      asyncHeld := r.async.length, deepDue := r.deepDue && s.gangStopping t, fresh := none, saving := none } ∧
    y.wait = none ∧ y.replay = none ∧ y.armed = false ∧ y.accs = x.accs ∧ SameBytes s u ∧ ∀ z, z ≠ t → u.tile z = s.tile z

/-- R375, R377 and R382: the return from a handler. The next bundle is at the resume address; unless the resume word keeps
handler mode, the task's own values of the banked registers come back and `CTX`.HND is clear, and the causes still pending
may be taken; REPLAY names the one slot that issues there, and control then goes on where the first issue of that bundle sent
it (the model's choice, log entry 80). A return waits for the accesses the handler has issued (R377). `RETT.SKIP` passes the
bundle at the resume address as if it had issued. An odd resume address raises MISALIGN; REPLAY with no such slot, or under
SKIP, is illegal. -/
def Obligations.HandlerReturn : Prop :=
  ∀ (s : State) (a b : SReg),
    let A := s.rdS a
    let W := s.rdS b
    let dest : Addr48 := A.extractLsb' 0 48
    let slot := (W.extractLsb' 12 4).toNat
    let r : Regs := if W.getLsbD 8 = true then s.regs else (s.t.leaveHandler).regs
    let left := s.t.owed.find? fun o => o.hnd == W.getLsbD 8 && o.pc == dest
    s.src.ctl.hnd = true → s.t.accs.any (·.src.ctl.hnd) = false →
    (A.getLsbD 0 = true → exec (.rett a b) s = s.issueTrap causeMisalign A ∧ exec (.rettSkip a b) s = s.issueTrap causeMisalign A) ∧
    (A.getLsbD 0 = false → W.getLsbD 10 = true → exec (.rettSkip a b) s = s.illegal ∧ (7 < slot → exec (.rett a b) s = s.illegal)) ∧
    (A.getLsbD 0 = false → (W.getLsbD 10 = true → slot ≤ 7) → ∃ t, exec (.rett a b) s = .next t ∧ SameBytes s t ∧
      t.regs = r ∧ t.t.issue.npc = some dest ∧ (∀ z, t.t.run = some z → z.asyncHeld = 0) ∧
      (W.getLsbD 10 = false → t.t.replay = none) ∧
      (W.getLsbD 10 = true → t.t.replay = some ⟨slot, left.map (·.flow)⟩) ∧
      (W.getLsbD 8 = false → t.t.banked = none ∧ t.regs.ctl.hnd = false)) ∧
    (A.getLsbD 0 = false → W.getLsbD 10 = false → ∀ s1 bs, s.codeAt s.cur dest = .ok (s1, bs) →
      let p := Regs.passed { r with pc := dest } (followHeader dest (bs.getD 1 0 ++ bs.getD 0 0))
      ∃ t, exec (.rettSkip a b) s = .next t ∧ SameBytes s t ∧ t.t.issue.npc = some p.pc ∧ t.regs = { p with pc := r.pc }) ∧
    (∀ k, s.t.banked = some k → W.getLsbD 8 = false →
      (∀ i : Fin 8, r.getS (BitVec.ofNat 6 (56 + i.val)) = k.s[i.val]) ∧
      (∀ c : SReg, c.toNat < 56 → r.getS c = s.regs.getS c) ∧
      r.getP 7 = k.p7 ∧ (∀ q, q ≠ 7 → r.getP q = s.regs.getP q) ∧
      r = { s.regs with
        s := r.s, p := r.p
        ctl := { s.regs.ctl with hnd := false, loop0 := k.loop0, loop1 := k.loop1, fpflags := k.fpflags } })

/-- R385: `SYSC` of a task at depth 0 outside a handler takes the lowest free slot of its save area for its continuation,
leaves the tile, and a task of the die's system tile alone is queued with the number of tile and context, the immediate, and
the handle of the slot. With no free slot it raises PROT. R386, R388 and R389: `SAVEX` writes the task's state to the lowest
free slot and the handle of the slot to `rd`, or 0 where no slot is free; every other register keeps its value. `RESTX` of
such a slot loads the registers of the image and goes on where it says, and the slot is free unless the form keeps it;
`RESTX.DROP` only frees it, and raises PROT where a latch or Steep slot of it names the Caddy of another tile. In system mode
`RESTX` of a slot that holds a `SYSC` queues its task again, with words 0 to 2 as they were and words 3 to 7 as the slot has
them, and `RESTX.DROP` ends that task, counted killed. Where a slot holds a `SYSC` record (the record at its start, the
commit buffer at 0x900) is the model's choice (log entry 60). -/
def Obligations.SystemCallAndSave : Prop :=
  (∀ (s : State) (r : Running) (c : CtxNo), s.t.run = some r → r.saving = none → s.saveSlot s.cur c = freeSlot (s.ctx c)) ∧
  (∀ (s : State) (i : BitVec 19) (r : Running),
    let c := s.ctxn
    let d := dieOf s.cur
    s.t.run = some r → s.spawnHold = false → s.src.ctl.holdDepth = 0 → s.src.ctl.hnd = false → r.record.gm = false →
    (s.saveSlot s.cur c = none → exec (.sysc i) s = s.issueTrap causeProt 0) ∧
    (∀ k s1, s.saveSlot s.cur c = some k →
      let rec' := r.suspended s.regs (s.returnAddr.extractLsb' 0 48) none s.t.issue.pend
      s.slotPut s.cur c (slotVa (s.ctx c) k) [(0, rec'.bytes), (0x900, r.commit.image)] = .ok s1 →
      let held : SaveSlot := .sysc rec' r.home (clusterOf s.cur) s1.nextOrder
      let u := ({ s1 with nextOrder := s1.nextOrder + 1 }.modCtx c fun x =>
        { x with slots := assocSet x.slots k held }).leaveTile s.cur none
      (rec'.entry = s.returnAddr.extractLsb' 0 48 ∧ (rec'.w 0).getLsbD 48 = true ∧ rec'.w 1 = r.record.w 1 ∧
        rec'.w 2 = r.record.w 2 ∧ ∀ j : Fin 8, 3 ≤ j.val → rec'.w j = s.regs.getS (BitVec.ofNat 6 (j.val - 2))) ∧
      ∃ q : Rec, exec (.sysc i) s = .next (({ u with nextTask := u.nextTask + 1 }.enqueue (systemCluster d) q).select s.cur) ∧
        q.ctxn = 0 ∧ q.prio = 7 ∧ q.entry = s.settings.syscEntry ∧
        q.affk = 2 ∧ q.affc = systemCluster d ∧ q.affm = 0x80 ∧
        q.words[3] = (0#16 ++ s.cur ++ 0#1 ++ c ++ 24#8 ++ 0#5 ++ i : BitVec 64) ∧ q.words[4] = slotHandle false true c k)) ∧
  (∀ (s : State) (a d : SReg) (r : Running) (k : BitVec 10) (from' : TileIx),
    let c := s.ctxn
    s.t.run = some r → s.src.ctl.hnd = false → r.record.gm = false →
    (s.member = false → s.saveSlot s.cur c = none → WritesS (.savex d) s d 0 0) ∧
    (s.member = true → exec (.savex d) s = s.issueTrap causeQuorumUnsafe 0) ∧
    (s.member = false → s.saveSlot s.cur c = some k → s.t.mx.ops = [] → s.spawnHold = false → ∀ s1,
      s.slotPut s.cur c (slotVa (s.ctx c) k) (s.savexImage d k) = .ok s1 →
      ∃ t, exec (.savex d) s = .next t ∧ t.regs.getS d = (if d = 0 then 0 else slotHandle false false c k) ∧
        (∀ b, b ≠ d → t.regs.getS b = s.regs.getS b) ∧ t.regs = { s.regs with s := t.regs.s } ∧
        assocGet (t.ctx c).slots k = some (.state s.cur) ∧ SameScratch s t) ∧
    (s.restTarget (s.rdS a) = some (.state k from') →
      (from' = s.cur → exec (.restxDrop a) s = .next (s.freeSaveSlot c (some k))) ∧
      (from' ≠ s.cur → ∀ l, s.slotPart s.cur c (slotVa (s.ctx c) k) 0x1240 192 [] = .ok l →
        exec (.restxDrop a) s = if imgNeedsCaddy l = true then s.issueTrap causeProt s.openAddr
          else .next (s.freeSaveSlot c (some k))) ∧
      (s.src.ctl.holdDepth = 0 → s.t.inFlight = false → ∀ l, s.slotGet s.cur c (slotVa (s.ctx c) k) = .ok l →
        (imgNeedsCaddy l = true → from' = s.cur) → (imgNeedsCluster l = true → clusterOf from' = clusterOf s.cur) →
        let n := s.regs.load l false s.t.view.holdlim
        ∃ t u, exec (.restx a) s = .next t ∧ exec (.restxKeep a) s = .next u ∧
          t.regs = { n with pc := s.regs.pc } ∧ t.t.issue.npc = some n.pc ∧ u.regs = t.regs ∧ u.t.issue = t.t.issue ∧
          (t.ctx c).slots = assocDel (s.ctx c).slots k ∧ (u.ctx c).slots = (s.ctx c).slots ∧ SameBytes s t ∧ SameBytes s u)) ∧
    (∀ c' rec' home o, s.restTarget (s.rdS a) = some (.record c' k rec' home o) →
      exec (.restxDrop a) s = .next (((s.freeSaveSlot c' (some k)).cancelCommands rec'.task).sendEnd
        (rec'.endMsg .killed false o)) ∧
      exec (.restxKeep a) s = s.illegal ∧
      ∀ l l', s.slotPart s.cur c' (slotVa (s.ctx c') k) 0 64 [] = .ok l →
        (rec'.commit = ⟨[], []⟩ ∧ l' = l ∨
          rec'.commit ≠ ⟨[], []⟩ ∧ s.slotPart s.cur c' (slotVa (s.ctx c') k) 0x900 2304 l = .ok l') →
        ∃ q : Rec, exec (.restx a) s = .next ((s.freeSaveSlot c' (some k)).enqueue home q) ∧ q.task = rec'.task ∧
          q.w 0 = rec'.w 0 ∧ q.w 1 = rec'.w 1 ∧ q.w 2 = rec'.w 2 ∧ q.commit = rec'.commit.load l' ∧
          ∀ j : Fin 8, 3 ≤ j.val → q.w j = BitVec.ofNat 64 (imgNat l' (8 * j.val) 8)))

/-! ### Tasks, joins and gangs (R254 to R268, R278, R294 to R308) -/

/-- R255, R296, R297 and R299: `SPAWN` checks its image in the order of R296 and then sends one record, made from the image
and the spawner's context, to its queue, behind the check of the join its handle names; `SPAWNG` sends the records of all
members of a gang and its pipes as one message. -/
def Obligations.SpawnResults : Prop :=
  ∀ (s : State) (a b : SReg),
    let w := s.group a
    let h : Handle := w[2].extractLsb' 0 32
    let home := clusterOf s.cur
    s.spawnsFull = false → s.edgeWaits = false →
    ((Instr.spawn a).wf = true →
      (∀ c x, imgDefect home s.ctxn w[0] w[1] = some (c, x) → exec (.spawn a) s = s.issueTrap c x) ∧
      (imgDefect home s.ctxn w[0] w[1] = none →
        (s.member = true → exec (.spawn a) s = s.issueTrap causeQuorumUnsafe 0) ∧
        (s.member = false → s.foreignQuorum h = true → exec (.spawn a) s = s.issueTrap causeProt (h.zeroExtend 64)) ∧
        (s.member = false → s.foreignQuorum h = false → ∃ t m, exec (.spawn a) s = .next t ∧
          t.spawns = s.spawns ++ [(s.nextMsg, m)] ∧ m.recs = [imgRec w s.ctxn s.launchRef s.nextTask] ∧
          m.handle = h ∧ m.ctx = s.ctxn ∧ m.tile = s.cur ∧ m.target = imgTarget home w[1] ∧
          m.st = (if h = 0 then .accepted else .checking) ∧ (∀ x, (t.tile x).regs = (s.tile x).regs) ∧ SameScratch s t))) ∧
    (∀ s1 bs,
      let n := ((s.rdS b).extractLsb' 0 3).toNat + 1
      let g : Handle := (gangWord bs 0 2).extractLsb' 0 32
      let tbl := bs.drop (64 * n)
      (s.rdS a).toNat % 64 = 0 → Reads s .sp [(s.rdS a, 64 * n + 16)] s1 [bs] →
      (∀ i, i < n → (gangWord bs i 0).getLsbD 0 = false) →
      imgDefect home s.ctxn (gangWord bs 0 0) (gangWord bs 0 1) = none → s.member = false → s.foreignQuorum g = false →
      n ≤ (imgTiles home s.ctxn (gangWord bs 0 1)).length → pipesBad tbl n = false →
      ∃ t m, exec (.spawng a b) s = .next t ∧ t.spawns = s1.spawns ++ [(s1.nextMsg, m)] ∧
        m.recs = ((List.range n).map fun i => gangRec bs n i s.ctxn s.launchRef (s.nextTask + i)) ∧ m.pipes = pipesOf tbl ∧
        m.handle = g ∧ m.ctx = s.ctxn ∧ m.tile = s.cur ∧ m.target = imgTarget home (gangWord bs 0 1) ∧
        m.st = (if g = 0 then .accepted else .checking) ∧ SameScratch s t)

/-- R257, R278, R300 and R301: `JINIT` opens a join of the task's context, owned by the task, in the join unit of its
cluster, and writes its handle; with every record of the unit in use, or 8 joins of the task open, it writes 0. A successor
with a parent is counted there first, and where the parent's join unit refuses it PROT is raised with the handle as its
address (the model's choice, log entry 63). `QINIT` makes an open join of the task without members a quorum join with the
values of its block; its counts start at zero (the model's choice for tasks that ended in it before, log entry 95). -/
def Obligations.JoinOpening : Prop :=
  ∀ (s : State) (a b d : SReg) (r : Running),
    let cl := clusterOf s.cur
    let w := s.group a
    let h : Handle := w[2].extractLsb' 0 32
    let full := (s.cluster cl).freeJoins.isEmpty || decide (8 ≤ s.openJoins.length)
    let opened (t : State) (succ : Option (Rec × ClusterIx)) : Prop := ∃ g j,
      assocGet (t.cluster cl).joins (joinIndex g) = some ⟨joinGen g, some j⟩ ∧ joinCluster g = cl ∧ j.st = .open ∧ j.ctx = s.ctxn ∧
      j.owner = r.record.task ∧ j.pending = 0 ∧ j.succ = succ ∧ j.quorum = none ∧
      t.regs = s.regs.setS d (g.zeroExtend 64) ∧ t.openJoins = s.openJoins ++ [g]
    s.t.run = some r → (Instr.jinit d a).wf = true →
    (a = 0 → s.member = false →
      (full = true → WritesS (.jinit d a) s d 0 0) ∧
      (full = false → ∃ t, exec (.jinit d a) s = .next t ∧ opened t none ∧ SameBytes s t)) ∧
    (a ≠ 0 → imgDefect cl s.ctxn w[0] w[1] = none → s.member = false → s.foreignQuorum h = false →
      (full = true → WritesS (.jinit d a) s d 0 0) ∧
      (full = false → h = 0 → ∃ t, exec (.jinit d a) s = .next t ∧
        opened t (some (imgRec w s.ctxn s.launchRef s.nextTask, imgTarget cl w[1])) ∧ SameBytes s t) ∧
      (full = false → h ≠ 0 →
        let c := { s with nextTask := s.nextTask + 1 }.countSpawn h s.ctxn r.record.task [imgRec w s.ctxn s.launchRef s.nextTask]
        (c = none → exec (.jinit d a) s = .next (s.execTrap causeProt (h.zeroExtend 64) 0)) ∧
        ∀ s1 m, c = some (s1, [m]) → ∃ t g, exec (.jinit d a) s = .next t ∧ t.regs = s.regs.setS d (g.zeroExtend 64) ∧
          t.openJoins = s.openJoins ++ [g] ∧ SameBytes s t)) ∧
    (∀ s1 bs j,
      let g : Handle := (s.rdS a).extractLsb' 0 32
      let word (k : Nat) : Word := BitVec.ofNat 64 (leNat ((bs.drop (8 * k)).take 8))
      let blk : QBlock := ⟨word 0, word 1, word 2, word 3⟩
      let q := blk.quorum s.cur
      let n := 64 + 4 * q.len.toNat
      (s.rdS b).toNat % 8 = 0 → Reads s .sp [(s.rdS b, 32)] s1 [bs] → blk.reserved = false → q.illegal = false →
      s.openJoins.contains g = true → s.joinOf s.ctxn g = some j → j.quorum = none → j.pending = 0 → s.member = false →
      s1.spWaits s.cur s.ctxn q.cbase.toNat n = false →
      ∃ t, exec (.qinit a b) s = .next t ∧
        t.join g = some { j with arrived := 0, failed := 0, killed := 0, late := 0, weight := 0, quorum := some q } ∧
        (∀ h' o, Memory.wf (s.tile h').sp = true → SpPlain s1 (q.cbase.zeroExtend 64) n h' o →
          ∀ k, k < n → cellGet (t.tile h').sp (o + k) = 0) ∧
        ∀ x, (t.tile x).regs.s = (s.tile x).regs.s)

/-- R264, R268, R302, R303, R304 and R308: a `YIELD` with nothing to suspend for, or with no slot for its commit buffer,
goes on; one with a reason leaves the tile and its continuation is queued, holding the address after it and `s1` to `s5`. A
`JWAIT` makes the continuation the successor of an open join of the task. In a gang, `YIELD` and `BARG` wait for the gang.
R265, R305, R306 and R307: `HOLD` raises the hold depth and starts the hold timer at its limit from depth 0; `UNHOLD` lowers
it, and at depth 0 the timer reads all ones; past either end they raise HOLD_DEPTH with the depth. `END` at depth 0 ends the
task as arrived once nothing of it is on its way, and `ABORT` ends it as failed. -/
def Obligations.SuspensionHoldAndEnd : Prop :=
  (∀ (s s1 : State) (a : SReg) (r : Running) (slot : Option (BitVec 10)),
    let h : Handle := (s.rdS a).extractLsb' 0 32
    let k := r.suspended s1.regs (s.returnAddr.extractLsb' 0 48) slot s.t.issue.pend
    s.t.run = some r → s.spawnHold = false →
    (s.src.ctl.hnd = false → s.src.ctl.holdDepth = 0 →
      (r.record.gm = true → exec .yield s = .next ((s.releaseEdge .device).waitFor .yield s.t.view.pipewdog.toNat .none)) ∧
      (r.record.gm = false →
        (s.yieldDue s.cur = false ∨ s.keepCommit s.cur s.ctxn r.commit = .noSlot → exec .yield s = .next s) ∧
        (s.yieldDue s.cur = true → s.keepCommit s.cur s.ctxn r.commit = .ok s1 slot →
          exec .yield s = .next ((((s1.leaveTile s.cur none).enqueueOnly r.home k).select s.cur).offer r.home k))) ∧
      (∀ j, s.openJoins.contains h = true → s.joinOf s.ctxn h = some j → s.member = false →
        s.keepCommit s.cur s.ctxn r.commit = .ok s1 slot →
        let t := (j.quorum.map (·.home)).getD s.cur
        exec (.jwait a) s = .next (s1.waitJoin h k r.home) ∧
        exec (.jwaitHere a) s = .next (s1.waitJoin h (k.boundTo t) (clusterOf t)) ∧
        (k.boundTo t).affk = 2 ∧ (k.boundTo t).affc = clusterOf t ∧ (k.boundTo t).affm = 1#8 <<< (t.toNat % 8))) ∧
    (∀ g, s.gangOf s.cur = some g → exec .barg s = .next (((s.modRun s.cur fun r =>
      { r with bargs := if r.bargOpen = true then r.bargs else r.bargs + 1, bargOpen := true }).releaseEdge .cluster).waitFor
        .barg s.t.view.pipewdog.toNat .none)) ∧
    k.entry = s.returnAddr.extractLsb' 0 48 ∧ (k.w 0).getLsbD 48 = true ∧ k.w 1 = r.record.w 1 ∧ k.w 2 = r.record.w 2 ∧
    (∀ i : Fin 8, 3 ≤ i.val → k.w i = s1.regs.getS (BitVec.ofNat 6 (i.val - 2))) ∧ k.commit = r.commit ∧
    k.async = r.async ++ s.t.issue.pend.toList) ∧
  (∀ s : State,
    let d := s.src.ctl.holdDepth
    let trap (i : Instr) : Prop := exec i s = s.issueTrap causeHoldDepth (d.zeroExtend 64)
    let moves (i : Instr) (n : BitVec 3) (left : BitVec 32) : Prop := ∃ t, exec i s = .next t ∧ OnlyRegs s t ∧
      t.regs = { s.regs with ctl := { s.regs.ctl with holdDepth := n, holdLeft := left } }
    (d ≠ 7 → moves .hold (d + 1) (if d = 0 then s.t.view.holdlim else s.regs.ctl.holdLeft)) ∧ (d = 7 → trap .hold) ∧
    (d ≠ 0 → moves .unhold (d - 1) (if d = 1 then 0xFFFFFFFF else s.regs.ctl.holdLeft)) ∧ (d = 0 → trap .unhold) ∧
    (s.spawnHold = false →
      (d ≠ 0 → trap .endTask) ∧ (d = 0 → s.t.mx.ops = [] → s.linesWait s.ctxn s.t.commit = false →
        let e := s.endTask s.cur .arrived false
        exec .endTask s = .next (if s.src.ctl.sys = true then e.flushCtl else e))) ∧
    (s.spawnsOut s.cur = 0 → exec .abort s = .next (s.endTask s.cur .failed false)))

/-! ### Power, invalidation and headers (R35, R317 to R319, R359, R360) -/

/-- R317 to R319: `SLEEP` sets the idle target of its tile alone; `WAKE` starts the wake of each sleeping tile it names of a
ready cluster, 600 ns from RETAIN and 2,400 ns from OFF, and of a system tile only for context 0. R359 and R360: in system
mode, with no access that used an old translation on its way, a `TLBINV` completes: no tile of its scope keeps a translation
or a line it names, nor do the clusters that lie whole in the scope and the tile's own. `ICINV` leaves no line of its
context in an instruction cache of the scope. No register changes, nor does a scratchpad. A `WAKE` of a tile that is not
ready, or that is held after a loss of power, starts none (R15, R410). That a `TLBINV` of TILE scope clears the TLB of the
tile's cluster too, and drops cached lines by 512 MiB, is the model's choice (log entry 70). -/
def Obligations.SleepWakeInvalidation : Prop :=
  (∀ (s : State) (a : SReg),
    let sets (i : Instr) (x : IdleTarget) : Prop :=
      exec i s = .next (s.modT fun y => { y with power := { y.power with idle := x } })
    sets .sleepCg .none ∧ sets .sleepRetain .retain ∧ (s.src.ctl.sys = true → sets .sleepOff .off) ∧
    (s.phase = .up → ∃ t, exec (.wake a) s = .next t ∧ SameBytes s t ∧ ∀ u : TileIx,
      let w := s.rdS a
      let named : Bool := clusterOf u == w.extractLsb' 8 5 && w.getLsbD (u.toNat % 8) && (s.ctxn == 0 || !isSystemTile u)
      let x := s.tile u
      let can : Bool := named && x.power.waking.isNone && !x.peat.held && s.port.ready1.getLsbD (clusterOf u).toNat
      (can = true → x.power.st = .retain → (t.tile u).power.waking = some 600) ∧
      (can = true → x.power.st = .off → (t.tile u).power.waking = some 2400) ∧
      (can = false ∨ (x.power.st ≠ .retain ∧ x.power.st ≠ .off) → t.tile u = x))) ∧
  (∀ (s : State) (a b : SReg) (sc : Scope),
    let ts := instanceTiles s.cur sc
    let quiet (t : State) : Prop := (∀ x, (t.tile x).regs = (s.tile x).regs) ∧ SameScratch s t
    let gone (i : Instr) (k : InvKind) : Prop := s.provisionalIn s.cur sc k = false → ∃ t, exec i s = .next t ∧ quiet t ∧
      (∀ x ∈ ts, (∀ e ∈ (t.tile x).tlb, k.hits e = false) ∧ ∀ l ∈ (t.tile x).l1, k.hitsLine l.asid l.va = false) ∧
      ∀ c ∈ clusterOf s.cur :: instanceClusters s.cur sc, ∀ e ∈ (t.cluster c).tlb, k.hits e = false
    (s.src.ctl.sys = true → (∀ x ∈ ts, (s.tile x).ctlPending = false) →
      gone (.tlbinvPage a b sc) (.page ((s.rdS b).extractLsb' 0 7) ((s.rdS a).extractLsb' 0 48)) ∧
      gone (.tlbinvAsid b sc) (.asid ((s.rdS b).extractLsb' 0 7)) ∧ gone (.tlbinvAll sc) .all) ∧
    (s.t.ctlPending = false → ∃ t, exec (.icinv sc) s = .next t ∧ quiet t ∧
      ∀ x ∈ ts, ∀ l ∈ (t.tile x).ic, l.asid ≠ (s.ctx s.ctxn).asid))

namespace Sys2Proof.Machine

/-- `i` issues a command to queue `q` of the current tile: a full queue holds it; otherwise the command, with the operands
read at issue, stands behind the others under the next COUNT, and nothing else of the machine's memory or registers
changes. -/
def Enqueues (i : Instr) (s : State) (q : QueueId) (tk : SReg) (da db : Desc) (w0 w1 : Word) : Prop :=
  let k := s.t.queue q
  (16 ≤ k.cmds.length → exec i s = s.hold) ∧
  (k.cmds.length < 16 → ∃ t c, exec i s = .next t ∧ (t.t.queue q).cmds = k.cmds ++ [c] ∧ (t.t.queue q).last = k.last + 1 ∧
    (t.t.queue q).timeline = k.timeline ∧ (∀ q', q' ≠ q → t.t.queue q' = s.t.queue q') ∧
    c.instr = i ∧ c.da = da ∧ c.db = db ∧ c.s0 = w0 ∧ c.s1 = w1 ∧ c.token = tk ∧ c.count = k.last + 1 ∧ c.ctx = s.ctxn ∧
    c.live = true ∧ c.started = false ∧ c.cancelled = false ∧ c.result = none ∧ t.regs = s.regs ∧ SameBytes s t)

/-- `i` puts a matrix instruction in flight behind those of its tile, with the values read at issue (R245), from the state
`s1`; the accumulators and every other register but `MXPROG` keep their values. -/
def EntersArray (i : Instr) (s s1 t : State) (m : MxOp) (k : MxKind) (d : Desc) (ss : Word) : Prop :=
  exec i s = .next t ∧ t.t.mx.ops = s1.t.mx.ops ++ [m] ∧ m.kind = k ∧ m.desc = d ∧ m.ss = ss ∧ m.ashape = s.src.ctl.ashape ∧
  m.done = 0 ∧ m.parked = false ∧ SameBytes s t ∧
  t.regs = { s1.regs with ctl := { s1.regs.ctl with
    mxAct := t.regs.ctl.mxAct, mxAcc := t.regs.ctl.mxAcc, mxRows := t.regs.ctl.mxRows } }

end Sys2Proof.Machine

/-! ### Engines and weight updates (R149 to R168, R404) -/

/-- R149 to R151 and R158 to R168: each engine command whose operands pass its checks enters its queue: copies and slab
growth the copy queue, gathers and the other slab commands the gather queue, collectives and streams their own. R404: a
subcommand of `MUPD` that passes its checks joins the tile's subcommands, in no engine queue, with the value of its
register. -/
def Obligations.EngineCommands : Prop :=
  (∀ (s : State) (tk a : SReg) (da db : DReg) (dat flt : Bool) (o : CollOp),
    let x := s.rdD da
    let y := s.rdD db
    let A := s.rdS a
    let A' := s.rdS (pairHi a)
    let m := rowCount A'
    let open' := s.member = false
    (copyOk x y = true →
      (s.unsafeAt (dSpc x) (copyTargets x y) = none →
        Enqueues (.cpy tk da db) s .cpy tk x y 0 0 ∧
        (dSpace x = 0 → Enqueues (.strm tk da db) s .strm tk x y 0 0 ∧ Enqueues (.strmTag tk da db) s .strm tk x y 0 0)) ∧
      (dSpace x = 1 → open' → Enqueues (.cpyPeer tk da db a) s .cpy tk x y A 0) ∧
      (dSpace x = 0 → (dBase x).getLsbD 26 = false → A.toNat < 256 →
        s.unsafeAt (dSpc x)
          ((maskTiles s.cur s.ctxn A).flatMap fun t => (copyTargets x y).map fun e => (windowAddr t e.1, e.2)) = none →
        Enqueues (.cpym tk da db a) s .cpy tk x y A 0)) ∧
    (1 ≤ m → m ≤ 64 →
      (dOk x false true = true → dSpace x = 0 → rowsOk x = true →
        s.unsafeAt (dSpc x) (((List.range (dTotal x)).map fun k => (dAt x k, (dBits x + 7) / 8)) ++
          (List.range m).map fun j => (rowAt x j, if dat = true then 1008 else 1024)) = none →
        ((Instr.gath tk da a dat flt).wf = true → Enqueues (.gath tk da a dat flt) s .gath tk x 0 A A') ∧
        ((Instr.gathList tk da db a dat flt).wf = true → dOk y false false = true →
          Enqueues (.gathList tk da db a dat flt) s .gath tk x y A A')) ∧
      ((Instr.kvput tk db a).wf = true → dOk y false false = true → dSpace y ≠ 2 → rowsOk y = true → open' →
        Enqueues (.kvput tk db a) s .gath tk 0 y A A')) ∧
    (open' →
      (A.toNat < 64 → Enqueues (.kvalloc tk a) s .gath tk 0 0 A 0) ∧
      Enqueues (.kvgrow tk a) s .cpy tk 0 0 A 0 ∧ Enqueues (.kvfree tk a) s .gath tk 0 0 A 0 ∧
      (∀ t, dOk x false true = true → dOk y false false = true → dFk x = false → dFk y = false → dSpace y ≠ 2 →
        ETy.ofCode (dFmt y) = some t → (CollOp.reduces o = true → collTy t = true) → collOk A = true →
        Enqueues (.coll tk da db a o) s .coll tk x y A 0))) ∧
  (∀ (s : State) (tk a : SReg) (db : DReg),
    let y := s.rdD db
    let joins (i : Instr) (d : Desc) : Prop := i.wf = true → ∃ t m, exec i s = .next t ∧ t.t.mupd = s.t.mupd ++ [m] ∧
      t.t.eng = s.t.eng ∧ m.instr = i ∧ m.db = d ∧ m.s = s.rdS a ∧ m.token = tk ∧ m.ctx = s.ctxn ∧ m.live = true ∧
      m.reached = 0 ∧ m.result = none ∧ t.regs = s.regs ∧ SameBytes s t
    s.member = false →
    joins (.mupdBegin tk a) 0 ∧ joins (.mupdCommit tk a) 0 ∧ joins (.mupdAbort tk a) 0 ∧
    (dOk y false false = true → dSpace y ≠ 2 → dTotal y * dBits y % 512 = 0 →
      ((s.rdS a).toNat % 64 = 0 → joins (.mupdWrite tk db a) y) ∧
      ((s.rdS a).toNat % 64 ≠ 0 → (Instr.mupdWrite tk db a).wf = true →
        exec (.mupdWrite tk db a) s = s.issueTrap causeMisalign (s.rdS a))))

/-- R156 and R157: with a number of this tile's queue whose timeline has reached it, `WAITT` goes on and `ENGQ` writes the
status, or the mask, of its completion record (12, or 0, where none is kept); before, the task waits; a number of another
tile or queue, or not issued, raises PROT. `ENGQ.DEPTH` and `ENGQ.LAST` write the commands in the queue and the last number.
-/
def Obligations.TimelineResults : Prop :=
  ∀ (s : State) (a d : SReg) (q : QueueId),
    let n := s.rdS a
    let forms : List Instr := [.waitt a q, .engqStat d a q, .engqVmask d a q]
    let past (i : Instr) (r : Regs) : Prop :=
      ∃ t, exec i s = .next t ∧ t.regs = r ∧ SameBytes s t ∧ t.t.eng = s.t.eng ∧ t.t.wait = s.t.wait
    (s.seqOk q n = false → ∀ i ∈ forms, exec i s = s.issueTrap causeProt n) ∧
    (s.seqOk q n = true → s.t.reached q n = false → ∀ i ∈ forms, exec i s = .next (s.waitFor i 0 .none)) ∧
    (s.seqOk q n = true → s.t.reached q n = true →
      past (.waitt a q) s.regs ∧
      (∀ r, (s.t.queue q).recOf n = some r →
        past (.engqStat d a q) (s.regs.setS d r.status) ∧ past (.engqVmask d a q) (s.regs.setS d r.vmask)) ∧
      ((s.t.queue q).recOf n = none →
        past (.engqStat d a q) (s.regs.setS d 12) ∧ past (.engqVmask d a q) (s.regs.setS d 0))) ∧
    WritesS (.engqDepth d q) s d (BitVec.ofNat 64 (s.t.queue q).cmds.length) 0 ∧
    WritesS (.engqLast d q) s d
      (if (s.t.queue q).last = 0 then 0 else s.cur ++ QueueId.code q ++ (s.t.queue q).last : BitVec 64) 0

/-! ### The matrix array (R226 to R248) -/

/-- R226, R229, R232, R233, R236, R238, R239 and R245: a first issue of a weight load whose operand passes its checks goes
in flight, and its latch takes the format and the source; of a multiplication, with the latch full in the operand's format
and the accumulator not parked, it goes in flight and `MXPROG` shows it, a second one beside an older one that it reads
ahead. A format that differs raises FORMAT_MISMATCH, and a parked accumulator ACC_PARKED. -/
def Obligations.MatrixIssue : Prop :=
  ∀ (s : State) (l : LReg) (c : AccReg) (k : DReg) (rs : SReg) (j g n : BitVec 2) (acc : Bool),
    let d := s.rdD k
    let ss := s.rdS rs
    let w := s.t.mx.w[l.toNat]'l.isLt
    let loads (i : Instr) (e : Bool) (j n g : BitVec 2) : Prop := ∃ t m, EntersArray i s s t m (.mldw l e j n g) d ss ∧
      let w' := t.t.mx.w[l.toNat]'l.isLt
      w'.full = true ∧ w'.fmt = dFmt d ∧ w'.expand = e ∧ w'.desc = d ∧ w'.ss = ss ∧ w'.elems = w.elems ∧ w'.scales = w.scales
    let runs (i : Instr) (kind : MxKind) : Prop :=
      (w.full = true → w.fmt = dFmt d →
        (s.t.mx.spill.getLsbD c.toNat = true → exec i s = s.issueTrap causeAccParked (c.zeroExtend 64)) ∧
        (s.t.mx.spill.getLsbD c.toNat = false →
          (s.t.mmas = [] → ∃ t m, EntersArray i s s t m kind d ss ∧
            ((∀ o ∈ s.t.mx.ops, o.shown = false) →
              t.regs.ctl.mxAct = true ∧ t.regs.ctl.mxAcc = c ∧ t.regs.ctl.mxRows = 0)) ∧
          (∀ o, s.t.mmas = [o] →
            (o.parked = true ∨ s.readAhead s.cur o = none → exec i s = s.hold) ∧
            (∀ s1, o.parked = false → s.readAhead s.cur o = some s1 → ∃ t m, EntersArray i s s1 t m kind d ss)) ∧
          (2 ≤ s.t.mmas.length → exec i s = s.hold))) ∧
      (w.full = true → w.fmt ≠ dFmt d → exec i s = s.issueTrap causeFormatMismatch (0#52 ++ 0xF#4 ++ dFmt d ++ w.fmt : BitVec 64))
    let many := (n.toNat + 1) * (g.toNat + 1)
    s.t.issue.replay = false → operandOk d ss = true →
    ((dSpc d = .cd → s.cdStop (loadBytes d ss) = none) →
      (dCount d 0 ≤ mfKmax (dFmt d) → loads (.mldw l k rs) false 0 0 0) ∧
      (dCount d 0 ≤ (n.toNat + 1) * mfKmax (dFmt d) → j.toNat + many ≤ 4 → s.t.chainBusy j.toNat many = false →
        s.t.badSlot (dFmt d) j.toNat many = none → loads (.mldwExpand l k j rs g n) true j n g)) ∧
    (dSpc d ≠ .cd → s.t.mx.gated &&& s.src.ctl.ashape = 0 →
      (dCount d 0 ≤ mfKmax (dFmt d) → runs (.mma c l k rs acc) (.mma c l false 0 0 acc)) ∧
      (dCount d 0 ≤ 16 * (n.toNat + 1) → j.toNat + (n.toNat + 1) ≤ 4 → s.t.chainBusy j.toNat (n.toNat + 1) = false →
        s.t.badSlot (dFmt d) j.toNat (n.toNat + 1) = none →
        runs (.mmaAbsorb c l k j rs n acc) (.mma c l true j n acc)))

/-- R228, R237, R240 to R244: `MSHAPE` sets the participating bands and wakes those gated; `MZERO` makes every entry of a
tile that is not parked +0 and raises ACC_PARKED for one that is; `MSYNC` goes on once nothing is in flight and holds
before; `STEEPLD` marks the slots of its mask with format and source and goes in flight; `MDRAIN` reads its epilogue block
and writes its rows. -/
def Obligations.MatrixControl : Prop :=
  ∀ (s : State) (bands ms : BitVec 4) (c : AccReg) (f : MFmt) (k : DReg) (rs : SReg) (relu sat : Bool) (r : RM),
    let a := s.rdS rs
    ((Instr.mshape bands).wf = true → ∃ t, exec (.mshape bands) s = .next t ∧ SameBytes s t ∧
      t.regs = { s.regs with ctl := { s.regs.ctl with ashape := bands } } ∧ t.t.mx.gated = s.t.mx.gated ∧
      t.t.mx.waking = s.t.mx.waking ||| (s.t.mx.gated &&& bands)) ∧
    (s.t.mx.spill.getLsbD c.toNat = false → ∃ t, exec (.mzero c) s = .next t ∧ SameBytes s t ∧
      t.regs = { s.regs with c := t.regs.c } ∧ t.regs.getC c = 0 ∧ ∀ b, b ≠ c → t.regs.getC b = s.regs.getC b) ∧
    (s.t.mx.spill.getLsbD c.toNat = true → exec (.mzero c) s = s.issueTrap causeAccParked (c.zeroExtend 64)) ∧
    (s.t.mx.ops = [] → exec .msync s = .next s) ∧ (s.t.mx.ops ≠ [] → exec .msync s = s.hold) ∧
    (let size := mfImageBytes (MFmt.code f)
     let rank (i : BitVec 2) : Nat := ((List.range i.toNat).filter fun j => ms.getLsbD j).length
     let n := ((List.range 4).filter fun j => ms.getLsbD j).length
     (Instr.steepld f rs ms).wf = true → s.t.issue.replay = false → a.toNat % 64 = 0 → a.toNat + n * size ≤ 0x1780000 →
      s.cdStop [(a, n * size)] = none → ∃ t m, EntersArray (.steepld f rs ms) s s t m (.steepld f ms) 0 a ∧
        ∀ i : BitVec 2, let p := t.t.mx.st[i.toNat]'i.isLt
          if ms.getLsbD i.toNat = true then
            p.valid = true ∧ p.fmt = MFmt.code f ∧ p.src = a + BitVec.ofNat 64 (rank i * size)
          else p = s.t.mx.st[i.toNat]'i.isLt) ∧
    (let d := s.rdD k
     let cnt := ssDrainCnt a
     let mode := s.drainMode r
     let targets := (List.range cnt).flatMap (drainRowTargets d s.src.ctl.ashape)
     dOk d false true = true → 1 ≤ cnt → cnt ≤ 64 → ((dSx d).isSome = true → mode = .rne) →
      (a.extractLsb' 32 3 = 0 ∨ (a.extractLsb' 0 32).toNat % 64 = 0) → s.unsafeAt (dSpc d) targets = none →
      (dSpc d = .sp → ∀ e ∈ targets, s.spWaits s.cur s.ctxn e.1.toNat e.2 = false) →
      (∀ e ∈ epiReads a, s.spWaits s.cur s.ctxn e.1.toNat e.2 = false) → s.t.issue.replay = false → ∃ s2 m,
        s2.t.mx.ops = s.t.mx.ops ++ [m] ∧ m.kind = .mdrain c relu sat mode ∧ m.desc = d ∧ m.ss = a ∧ m.done = 0 ∧
        m.ashape = s.src.ctl.ashape ∧ m.seed = s.regs.ctl.srseed ∧ SameBytes s s2 ∧
        s2.regs.ctl.srseed = (if mode = .sr then seedAfter (cnt * (columns s.src.ctl.ashape).length) s.regs.ctl.srseed
          else s.regs.ctl.srseed) ∧
        let rows (u : State) (n : MxOp) : Prop :=
          exec (.mdrain c k rs relu sat r) s = .next (State.drainRows s.cur c (s.src.getC c) relu sat mode 65 u n)
        (epiReads a = [] → m.epi = some (epiBytes a []) ∧ rows s2 m) ∧
        (epiReads a ≠ [] → m.epi = none ∧
          (s2.readBehind s.cur m = true → exec (.mdrain c k rs relu sat r) s = .next s2) ∧
          (s2.readBehind s.cur m = false → ∀ u n bss, State.mxReads s.cur .sp (epiReads a) s2 m = .ok (u, n, bss) →
            rows u { n with epi := some (epiBytes a bss), held := [] }))) ∧
    (∀ (u : State) (m : MxOp) (t : TileIx) (x : AccWord) (n w : Nat) (ty : ETy) (mode : RM), 8 ≤ w →
      (m.count ≤ m.done → State.drainRows t c x relu sat mode (n + 1) u m = u.modTile t (·.setOp m)) ∧
      (m.done < m.count → u.writeBehind t m = false → (u.tile t).rowPoisoned c m.ashape m.done = false →
        ∀ v f, u.drainWrite t m x relu sat mode m.done = .ok (v, f) → State.drainRows t c x relu sat mode (n + 1) u m =
          State.drainRows t c x relu sat mode n v { m with done := m.done + 1, flags := m.flags ||| f }) ∧
      (drainTy m.desc = some ty → dBits m.desc = w → mode = .rne → m.ss.extractLsb' 32 3 = 0 → ∀ j < 64,
        let value (i : Nat) : Sys2Proof.Machine.Num :=
          let y := readNum .a56 (accEntry x j i).toNat
          if relu = true ∧ y.isNan = false ∧ y.neg = true then .fin false 0 0 else y
        (m.drainRow x relu sat mode j).1 = (columns m.ashape).map fun i => (dAddr m.desc i j 0 0,
          (leBytes (w / 8) (convert ty .rne sat (value i)).1).map Patch.full)))

/-- R230, R231, R234 and R239: the row an `MMA` commits. Where its operand row can be read, each entry of that row in a
participating column takes the array's sum of its products, on the entry before it or on zero; every other entry of the
accumulators keeps its value, and no byte of a memory changes. Steps named: `MMA_ROW_COMMIT`. -/
def Obligations.MatrixRow : Prop :=
  ∀ (s s1 : State) (t : TileIx) (m m0 : MxOp) (rest : List MxOp) (c : AccReg) (l : LReg) (absorb acc : Bool) (j n : BitVec 2)
      (row : MxRow),
    let x := s.tile t
    (x.mmas = m :: rest → m.kind = .mma c l absorb j n acc → s.rowsRun t = true → s.mxStands t m = false → m.done < m.count →
    m.done < 64 → (acc = true → x.rowPoisoned c m.ashape m.done = false) →
    s.nextRow t m = .ok (s1, m0, row) →
    ∃ u, exec (.mmaRowCommit t) s = .next u ∧ SameBytes s u ∧
      let f := dFmt m.desc
      let a := if absorb = true then (steepAbsorb f x.slotNo j.toNat (n.toNat + 1) (row.nums f)).nums f else row.nums f
      let w := x.mx.w[l.toNat]'l.isLt
      (∀ b, b ≠ c → (u.tile t).regs.getC b = x.regs.getC b) ∧
      ∀ r k, r < 64 → k < 64 → accEntry ((u.tile t).regs.getC c) r k =
        if r = m.done ∧ k ∈ columns m.ashape then
          arrayEntry (if acc = true then accEntry (x.regs.getC c) r k else 0) (products a (w.column k a.length))
        else accEntry (x.regs.getC c) r k) ∧
    (∀ (a b : List Sys2Proof.Machine.Num) (i : Nat) (p q : Bool) (y z : Nat) (e f : Int), a[i]? = some (.fin p y e) → b[i]? = some (.fin q z f) →
      (products a b)[i]? = some (.fin (p != q) (y * z) (e + f))) ∧
    (∀ (base : BitVec 56) (ps : List Sys2Proof.Machine.Num),
      let b := readNum .a56 base.toNat
      let pos := ps.any (Sys2Proof.Machine.Num.isInf false) || Sys2Proof.Machine.Num.isInf false b
      let neg := ps.any (Sys2Proof.Machine.Num.isInf true) || Sys2Proof.Machine.Num.isInf true b
      (b.isNan = true ∨ ps.any Sys2Proof.Machine.Num.isNan = true ∨ (pos = true ∧ neg = true) →
        (arrayEntry base ps).toNat = fmtA56.nanPat) ∧
      (b.isNan = false → ps.any Sys2Proof.Machine.Num.isNan = false →
        (pos = true → neg = false → (arrayEntry base ps).toNat = fmtA56.infPat) ∧
        (pos = false → neg = true → (arrayEntry base ps).toNat = fmtA56.signed true fmtA56.infPat)) ∧
      (∀ (k : Nat) (l : List (Bool × Nat × Nat)), l.length ≤ 16 → pos = false → neg = false → b.isNan = false →
        ps = l.map (fun x => .fin x.1 x.2.1 (-(k : Int) + x.2.2)) →
        let sum : Int := (l.map fun x => (if x.1 = true then -(x.2.1 : Int) else x.2.1) * 2 ^ x.2.2).foldl (· + ·) 0
        sum.natAbs < 2 ^ 64 → arrayEntry base ps = if sum = 0 then base else
          BitVec.ofNat 56 (convert .a56 .rne false (b.add .rne (.fin (decide (sum < 0)) sum.natAbs (-(k : Int)))).1).1))

namespace Sys2Proof.Machine

/-- From `s` to `u` the task on tile t, which waited at `w`, goes on past it: the wait ends in a state `v` in which the
instruction has taken effect. Where no cause of its bundle is pending, the task then stands at the bundle that follows, or
tries the next slot of its bundle that was held back. -/
def GoesOn (s u v : State) (t : TileIx) (w : Wait) : Prop :=
  u = v.endWait t w ∧ (v.tile t).run = (s.tile t).run ∧ (v.tile t).wait = some w ∧
  (w.issue.pend = none →
    (u.tile t).run = (s.tile t).run ∧ (u.tile t).regs.s = (v.tile t).regs.s ∧ (u.tile t).regs.v = (v.tile t).regs.v ∧
    (w.rest = [] → (u.tile t).wait = none ∧ (u.tile t).regs.pc = w.issue.after.next) ∧
    ∀ si l, w.rest = si :: l → ∃ k, (u.tile t).wait = some k ∧ k.instr = si.instr ∧ k.rest = l ∧ k.begun = false)

/-- Only the head command of queue q of tile t differs from `s` to `u`: it is `c`. -/
def HeadBecame (s u : State) (t : TileIx) (q : QueueId) (c : EngCmd) : Prop := u = s.setHead t q c

end Sys2Proof.Machine

/-! ### Waits and boundaries (R22, R92, R145, R264, R265, R308, R375) -/

/-- R22, R92, R145, R264, R265, R308 and R375: the steps that end what a task waits for. A tag access that is ready and not
behind another, and a put or get that fits, take effect and the task goes on; a watchdog that has run out raises its cause
at the waiting bundle; a `BARG` episode that every running member has reached releases its members, and a gang `YIELD` does
too where none has a reason to suspend. At a bundle boundary the oldest asynchronous cause that is due, or the overrun of
the hold timer, is taken unless the task is killed there. Which slots behind a waiting one are held back, and where the
handler returns to, is the model's choice (log entry 80). Steps named: `RESULT_WRITEBACK`, `ASYNC_CAUSE_TAKEN`,
`FE_TAG_OPERATION`, `FE_TIMEOUT`, `PIPE_WAIT_COMPLETE`, `PIPE_TIMEOUT`, `BARRIER_EPISODE_COMPLETE`, `GANG_YIELD_RENDEZVOUS`,
`HOLD_OVERRUN`. -/
def Obligations.WaitEvents : Prop :=
  ∀ (s : State) (t : TileIx) (w : Wait) (r : Running),
    let x := s.tile t
    (∃ u, exec (.resultWriteback t) s = .next u ∧ SameBytes s u ∧ (∀ z, (u.tile z).regs = (s.tile z).regs) ∧
      ∀ p, p ∈ (u.tile t).pending ↔ p ∈ x.pending ∧ min x.cyc x.nextIssue < p.2) ∧
    (s.phase = .up → x.wait = some w → x.waiting w = true →
      (∀ q, feReq t w.src w.instr = some q →
        (s.feReady q = true → s.feBehind q (some w.arrived) = false →
          (q.full = true → s.spPoisoned q.tile q.ctx q.addr.toNat q.bytes = none) →
          ∃ u v, exec (.feTagOperation t) s = .next u ∧ GoesOn s u v t w ∧
            (∀ sp d b z o, w.instr = .ldfe sp d b z o → (v.tile t).regs.getS d =
              if d = 0 then 0 else BitVec.ofNat 64 (leNat (s.spRead q.tile q.ctx true q.addr.toNat q.bytes)))) ∧
        (w.leftNs = 0 → x.killDue = false → exec (.feTimeout t) s =
          .next (s.waitTrap t w causeFeTimeout (BitVec.ofNat 64 (s.feFirst q)) 0))) ∧
      (∀ d n p, w.instr = .pipep d n → s.pipe t n = some p → p.entries.length < 8 →
        ∃ u v, exec (.pipeWaitComplete t) s = .next u ∧ GoesOn s u v t w ∧
          v.pipe t n = some { p with entries := p.entries ++ [w.src.getV d] }) ∧
      (∀ d n p e l, w.instr = .pipeg d n → s.pipe t n = some p → p.entries = e :: l →
        ∃ u v, exec (.pipeWaitComplete t) s = .next u ∧ GoesOn s u v t w ∧ v.pipe t n = some { p with entries := l } ∧
          (v.tile t).regs.getV d = e) ∧
      (∀ a, pipeCode w.instr = some a → x.watched w = true → w.leftNs = 0 → x.killDue = false →
        exec (.pipeTimeout t) s = .next (s.waitTrap t w causePipeTimeout a 0))) ∧
    (∀ cause addr, w.rest = [] → w.issue.pend = none → ∃ v, (v.tile t).run = x.run ∧ SameBytes s v ∧
      s.waitTrap t w cause addr 0 =
        v.takeTrap t ⟨cause, 0, BitVec.ofNat 4 w.slot, true, false, addr, w.src.pc.zeroExtend 64⟩) ∧
    (∀ cl n g, s.phase = .up → (s.cluster cl).gangsOf n = [g] →
      exec (.barrierEpisodeComplete cl n) s = .next (s.goAll ((g.tiles.map (·.2)).filter (s.episodeDone g))) ∧
      (s.gangAt g .yield = true → (∀ p ∈ g.tiles, s.hasParked p.2 .suspend = false) →
        ((∀ p ∈ g.tiles, s.yieldDue p.2 = false) → exec (.gangYieldRendezvous cl n) s = .next (s.goAll (g.tiles.map (·.2)))) ∧
        (∀ p ∈ g.tiles, s.yieldDue p.2 = true → (∀ e ∈ g.pipes, e.2.entries = []) →
          exec (.gangYieldRendezvous cl n) s = .next (s.gangSuspend g)))) ∧
    (∀ l : List TileIx, l.Nodup → t ∈ l → x.wait = some w → w.rest = [] →
      (∀ z ∈ l, ∀ k, (s.tile z).wait = some k → k.issue.pend = none) →
      ((s.goAll l).tile t).wait = none ∧ ((s.goAll l).tile t).regs.pc = w.issue.after.next ∧
        ((s.goAll l).tile t).regs.s = x.regs.s) ∧
    (s.atBoundary t = true → x.run = some r →
      (∀ f, x.asyncDue = some f →
        let u := s.modRun t fun k => { k with async := k.async.eraseIdx (x.asyncFrom r) }
        (f.cause = causeHoldOverrun → x.holdOverrun = false → exec (.asyncCauseTaken t) s = .next u) ∧
        (f.cause ≠ causeHoldOverrun ∨ x.holdOverrun = true → exec (.asyncCauseTaken t) s = .next
          (if f.replay = true then
            (u.modTile t (·.owe ⟨x.regs.ctl.hnd, f.pc.extractLsb' 0 48, ⟨x.regs.pc, none, none⟩⟩)).takeTrap t f
          else u.takeTrap t { f with pc := x.regs.pc.zeroExtend 64 }))) ∧
      (x.overrunNext = true → exec (.holdOverrun t) s =
        .next ((s.modRun t fun k => { k with async := k.async.filter fun f => f.cause != causeHoldOverrun }).takeTrap t
          ⟨causeHoldOverrun, 0, 11, false, false, x.regs.ctl.holdWord, x.regs.pc.zeroExtend 64⟩)))

/-! ### Engines at work (R149 to R170, R404 to R407) -/

/-- R149 to R154, R161 and R167 to R170: the next command of a queue starts once the matrix instructions issued before it
have made their accesses; with its outcome known the head leaves the queue, its record is kept, the timeline shows its COUNT,
and the register of its token, below `s56`, takes its number if its task is still there; one cancelled before its start
completes as CANCELLED. A tagged stream at the end of its watchdog, a stalled collective, members that disagree and a command
over a failed link end with their codes; a collective of one mind, every rank of which has arrived, gives every member its
result. In a collective of the link domain, what the ranks on peer devices do, and the end with NOPEER or LINK, is the
model's choice where the spec leaves it open (log entry 44). Steps named: `ENGINE_COMMAND_START`, `ENGINE_COMMAND_COMPLETE`,
`STRM_TAG_TIMEOUT`, `COLLECTIVE_ALL_ARRIVED`, `COLLECTIVE_TIMEOUT`, `YALTAN_LINK_FAILURE`, `YALTAN_LINK_READY`. -/
def Obligations.EngineEvents : Prop :=
  ∀ (s : State) (t : TileIx) (q : QueueId) (c : EngCmd) (rest : List EngCmd),
    let x := s.tile t
    let k := x.queue q
    let ends (u : State) (o : EngOut) : Prop :=
      (((u.tile t).queue q).cmds = rest ∧ ((u.tile t).queue q).timeline = c.count ∧
        ((u.tile t).queue q).recs = addCapped 64 k.recs ⟨c.count, o.1, o.2.1⟩ ∧
        (x.cmdLive c = true → c.token ≠ 0 → c.token.toNat < 56 → (u.tile t).regs.getS c.token = seqNum t q c.count) ∧
        (x.cmdLive c = false → (u.tile t).regs = x.regs) ∧ SameScratch s u)
    (k.cmds = c :: rest → c.started = false → k.next = some c) ∧
    (k.next = some c → s.engineRuns t = true → c.cancelled = false → x.quietBefore c.order = true →
      ∃ u n, exec (.engineCommandStart t q) s = .next u ∧ (u.tile t).regs = x.regs ∧ SameBytes s u ∧
        ((u.tile t).queue q).cmds = k.cmds.map fun e => if e.count = c.count then { c with started := true, leftNs := n } else e) ∧
    (k.cmds = c :: rest → s.engineRuns t = true →
      (c.started = false → c.cancelled = true → ∃ u, exec (.engineCommandComplete t q) s = .next u ∧ ends u (engCode 8)) ∧
      (c.started = true → ∀ o, c.result = some o → ∃ u, exec (.engineCommandComplete t q) s = .next u ∧ ends u o)) ∧
    (x.started .strm = some c → s.engineRuns t = true → s.tagWaits t = true → c.leftNs = 0 →
      ∃ u, exec (.strmTagTimeout t) s = .next u ∧ HeadBecame s u t .strm { c with result := some (engCode 9) }) ∧
    (∀ (srcs : Option (List (List Nat))) (z : TileIx) (e : EngCmd) (code : BitVec 8), ∃ v : State,
      State.endMember srcs code s (z, e) = v.setCmd z .coll { e with result := some (engCode code), parked := false }) ∧
    (s.engineRuns t = true →
      (x.started .coll = some c → c.result = none → c.parked = false → c.leftNs = 0 →
        let l := (s.ranks t c).filterMap id
        exec (.collectiveTimeout t) s = .next (State.endMembers 9 l.length l s)) ∧
      (let ready (c : EngCmd) : Bool := (s.ranks t c).all (·.isSome)
       let rs := s.ranks t c
       let ms := rs.filterMap id
       s.collRuns rs = true →
        (x.collectives.find? ready = some c →
          (collAgrees ms (collN c.s0) = false → exec (.collectiveAllArrived t) s =
            .next (ms.foldl (fun s p => s.setCmd p.1 .coll { p.2 with result := some (engCode 14) }) s)) ∧
          (collAgrees ms (collN c.s0) = true → ∀ s1 srcs s2, State.allSources c rs s = .ok (s1, srcs) →
            State.allPut srcs ((List.range rs.length).zip rs) s1 = .ok s2 →
            exec (.collectiveAllArrived t) s = .next s2)) ∧
        (x.collectives.find? ready = none → x.collectives.find? (fun c => collLevel c.s0 == 4) = some c →
          let links := s.peerLinks c.ctx
          let ends (code : BitVec 8) (u : State) : State := State.endMembers code 1 [(t, c)] u
          ((s.ctx c.ctx).peers = 0 → exec (.collectiveAllArrived t) s = .next (ends 10 s)) ∧
          ((s.ctx c.ctx).peers ≠ 0 → (∀ b ∈ links, b = false) → exec (.collectiveAllArrived t) s = .next (ends 11 s)) ∧
          ((s.ctx c.ctx).peers ≠ 0 → (∃ b ∈ links, b = true) →
            let ch := s.choose (if ∀ b ∈ links, b = true then 2 else 3)
            exec (.collectiveAllArrived t) s =
              .next (if ch.1 = 1 then ch.2.collGo c rs else if ch.1 = 2 then ends 11 ch.2 else ch.2))))) ∧
    (∀ n a d e b, x.started .cpy = some c → c.result = none → c.instr = .cpyPeer a d e b →
      Config.linkOf (c.s0.extractLsb' 0 5) = n → ∃ u, exec (.yaltanLinkFailure n) s = .next u ∧
        (u.tile t).started .cpy = some { c with parked := false, result := some (engCode 11) }) ∧
    (∀ n, s.booted = true → ∃ u, exec (.yaltanLinkReady n) s = .next u ∧ u.port.ready0.getLsbD (20 + n.toNat) = true)

/-- R102, R104, R105, R164 to R167 and R404 to R407: a started slab command reaches the KV map of its die: an allocation
within the pages of its context takes a free descriptor and its pages, beyond them it ends with RESERVE; a free of a slab
that does not move returns its pages and advances its generation; a growth reserves pages and begins to move, and each chunk
moves four rows. A gather or put is refused for its handle or a position, or accepted, and has its outcome once its rows are
done. The first subcommand of `MUPD` goes on: with the Caddy not ready it ends with NOTREADY, a region of another context
gives DENIED, and an opening marks the region. A WRITE stages its lines in pages of the pool, unseen by reads, or is refused
whole; an ABORT gives the pages back; a COMMIT waits for reads under way, switches bytes and version at once, and then
measures the region, returns the old pages and clears UPDATING. The order of RESERVE and MAPFULL is the model's choice (log
entry 45), and so is the order of the codes of `MUPD` (log entry 47). Steps named: `KV_MAP_COMMAND`, `KVGROW_CHUNK_MOVE`,
`MUPD_COMPLETE`. -/
def Obligations.SlabEvents : Prop :=
  ∀ (s : State) (t : TileIx) (q : QueueId) (c : EngCmd),
    let x := s.tile t
    let pages (u : State) (d : DieIx) : Nat := (u.ctx c.ctx).pagesFree d
    let h := c.handle
    (x.started q = some c → s.engineRuns t = true → c.result = none → c.parked = false →
      (∀ a b, c.instr = .kvalloc a b →
        let n := 2 ^ (c.s0.extractLsb' 0 4).toNat
        let d := c.s0.extractLsb' 4 2
        (s.granted c.ctx d n = false → ∃ u, exec (.kvMapCommand t q) s = .next u ∧
          HeadBecame s u t q { c with result := some (engCode 2) }) ∧
        (s.granted c.ctx d n = true → (s.die d).freeSlabs ≠ [] → ∃ u g,
          exec (.kvMapCommand t q) s = .next u ∧ slabDie g = d ∧
          assocGet (u.die d).kv (slabIx g) = some ⟨slabGen g, some ⟨c.s0.extractLsb' 0 4, c.ctx, [], none⟩⟩ ∧
          pages u d = pages s d - n ∧ ((u.tile t).started q).bind (·.result) = some (engStatus 0 0 g, 0, none))) ∧
      (∀ a b, c.instr = .kvfree a b →
        (∀ e, s.slabFor c.ctx h = .error e → ∃ u, exec (.kvMapCommand t q) s = .next u ∧
          HeadBecame s u t q { c with result := some (engCode e) }) ∧
        (∀ y, s.slabFor c.ctx h = .ok y → y.move = none → pages s (slabDie h) + y.pages < 2 ^ 32 → ∃ u,
          exec (.kvMapCommand t q) s = .next u ∧
          assocGet (u.die (slabDie h)).kv (slabIx h) = some ⟨nextGen (slabGen h), none⟩ ∧
          pages u (slabDie h) = pages s (slabDie h) + y.pages ∧
          ((u.tile t).started q).bind (·.result) = some (engCode 0))) ∧
      (∀ a b, c.instr = .kvgrow a b → c.reached = 0 →
        (∀ e, s.kvgrow c.ctx h = .error e → ∃ u, exec (.kvMapCommand t q) s = .next u ∧
          HeadBecame s u t q { c with result := some (engCode e) }) ∧
        (∀ y, s.slabFor c.ctx h = .ok y → y.move = none → y.k ≠ 15 → s.granted c.ctx (slabDie h) (2 * y.pages) = true →
          ∃ u, exec (.kvMapCommand t q) s = .next u ∧ u.slab h = some { y with move := some ⟨[], 0⟩ } ∧
            ((u.tile t).started q).map (·.reached) = some 1)) ∧
      (isRows c.instr = true →
        (c.kv = none → ∀ s1 ps, s.positions t c = .ok (s1, ps) →
          (∀ e, s1.slabFor c.ctx h = .error e → ∃ u, exec (.kvMapCommand t q) s = .next u ∧
            HeadBecame s1 u t q { c with result := some (engCode e) }) ∧
          (∀ y, s1.slabFor c.ctx h = .ok y →
            ((∃ p ∈ ps, y.valid p = false) → ∃ u, exec (.kvMapCommand t q) s = .next u ∧
              HeadBecame s1 u t q { c with result := some (engCode 4) }) ∧
            ((∀ p ∈ ps, y.valid p = true) →
              HeadBecame s1 (s.rowTurn t q) t q { c with kv := some ⟨ps, none, 0, 0, none, none⟩ }))) ∧
        (∀ r, c.kv = some r → r.ps.length ≤ c.reached → ∃ u, exec (.kvMapCommand t q) s = .next u ∧
          HeadBecame s u t q { c with result := some (match c.instr with
            | .kvput .. => engCode 0
            | _ => c.gathOutcome r) }))) ∧
    (x.started .cpy = some c → s.engineRuns t = true → c.result = none → c.reached ≠ 0 → (∃ a b, c.instr = .kvgrow a b) →
      ∀ y m, s.slab h = some y → y.move = some m →
        (m.mark + 4 < y.oldRows → ∃ u rows, exec (.kvgrowChunkMove t) s = .next u ∧
          u.slab h = some { y with move := some ⟨rows, m.mark + 4⟩ }) ∧
        (y.oldRows ≤ m.mark + 4 → ∃ u rows, exec (.kvgrowChunkMove t) s = .next u ∧
          u.slab h = some ⟨y.k + 1, y.owner, rows, none⟩)) ∧
    (∀ (m : MupdCmd) (rest : List MupdCmd), x.mupd = m :: rest → s.engineRuns t = true → m.parked = false → m.result = none →
      x.cmdLive m.cmd = true → m.token ≠ 0 → m.token.toNat < 56 →
      let ready := s.port.ready0.getLsbD (12 + (dieOf t).toNat)
      let r := x.caddy.region m.entry
      let ends (u : State) (code : BitVec 8) (detail : BitVec 32) : Prop := exec (.mupdComplete t) s = .next u ∧
        (u.tile t).mupd = rest ∧ (u.tile t).regs.getS m.token = engStatus code 0 detail
      (ready = false → ∃ u, ends u 20 0) ∧
      (ready = true → ∀ a b, m.instr = .mupdBegin a b →
        (r.ownedBy m.ctx = false → ∃ u, ends u 13 0) ∧
        (r.ownedBy m.ctx = true → x.caddy.txn.isSome = true → ∃ u, ends u 21 0) ∧
        (r.ownedBy m.ctx = true → x.caddy.txn = none → ∃ u, ends u 0 r.version ∧
          ((u.tile t).caddy.region m.entry).updating = true ∧
          (u.tile t).caddy.txn = some ⟨m.entry, m.ctx, [], [], []⟩)) ∧
      (ready = true → ∀ a b, m.instr = .mupdCommit a b ∨ m.instr = .mupdAbort a b →
        let opened (y : Txn) : Prop := x.caddy.txn = some y ∧ y.region = m.entry ∧ y.ctx = m.ctx
        (m.switched = false → r.ownedBy m.ctx = false → ∃ u, ends u 13 0) ∧
        (m.switched = false → r.ownedBy m.ctx = true → (∀ y, ¬ opened y) → ∃ u, ends u 22 0) ∧
        (m.instr = .mupdAbort a b → r.ownedBy m.ctx = true → ∀ y, opened y → ∃ u, ends u 0 0 ∧
          ((u.tile t).caddy.region m.entry) = { r with updating := false } ∧ (u.tile t).caddy.txn = none ∧
          (u.tile t).caddy.bytes = x.caddy.bytes ∧ ∀ p ∈ y.pages, p.2 ∈ (u.tile t).caddy.pool) ∧
        (m.instr = .mupdCommit a b → m.switched = false → r.ownedBy m.ctx = true → ∀ y, opened y →
          (x.caddyReads = true → exec (.mupdComplete t) s = .next s) ∧
          (x.caddyReads = false → ∃ u, exec (.mupdComplete t) s = .next u ∧
            (u.tile t).mupd = { m with switched := true } :: rest ∧ (u.tile t).regs = x.regs ∧
            (u.tile t).caddy.region m.entry = { r with version := r.version + 1 } ∧ (u.tile t).caddy.txn = some y ∧
            (Memory.wf x.caddy.bytes = true → ∀ z, cellGet (u.tile t).caddy.bytes z =
              if z / 64 ∈ y.lines then cellGet y.bytes z else cellGet x.caddy.bytes z))) ∧
        (m.instr = .mupdCommit a b → m.switched = true → ∀ y, opened y → ∃ u, ends u 0 r.version ∧
          (u.tile t).caddy.txn = none ∧ (u.tile t).caddy.bytes = x.caddy.bytes ∧
          (let n := (u.tile t).caddy.region m.entry
           n.updating = false ∧ n.version = r.version ∧ n.measured = r.version ∧ n.measure = x.caddy.digest t n ∧
           (∀ l, l ∈ n.lost ↔ l ∈ r.lost ∧ l ∉ y.lines) ∧ (n.damaged = true ↔ r.damaged = true ∧ n.lost ≠ [])) ∧
          ((y.pages.map (·.1)).Nodup → ∀ p ∈ y.pages, (u.tile t).caddy.physPage p.1 = p.2 ∧
            x.caddy.physPage p.1 ∈ (u.tile t).caddy.pool))) ∧
      (ready = true → ∀ a b d, m.instr = .mupdWrite a d b →
        let off := m.s.toNat
        let n := mupdBytes m.db
        (∀ y, x.caddy.txn = some y → y.ctx = m.ctx → (x.caddy.region y.region).ownedBy m.ctx = false → ∃ u, ends u 13 0) ∧
        ((∀ y, x.caddy.txn = some y → y.ctx ≠ m.ctx) →
          (x.caddy.regionAt off = none → ∃ u, ends u 22 0) ∧
          ∀ g, x.caddy.regionAt off = some g → ∃ u, ends u (if g.ownedBy m.ctx = true then 22 else 13) 0) ∧
        ∀ y, x.caddy.txn = some y → y.ctx = m.ctx → (x.caddy.region y.region).ownedBy m.ctx = true →
          let g := x.caddy.region y.region
          let new := (newPages y off n).length
          let inside := 65536 * g.base.toNat ≤ off ∧ off + n ≤ 65536 * (g.base.toNat + g.len.toNat)
          let room := y.pages.length + new ≤ 512 ∧ new ≤ (x.caddy.pool.filter fun p => !x.caddy.retired p).length
          (¬ inside → ∃ u, ends u 26 0) ∧ (inside → ¬ room → ∃ u, ends u 23 0) ∧
          (inside → room → n = 64 → m.reached = 0 → m.remapped = 0 → ∀ s1 bs, s.mupdLine t m 0 = .ok (s1, bs) →
            (s1.tile t).caddy = x.caddy → (s1.tile t).mupd = x.mupd → (s1.tile t).cmdLive m.cmd = true →
            (x.caddy.stage y off bs = none → ∃ u, ends u 24 0) ∧
            ∀ c moved, x.caddy.stage y off bs = some (c, moved) →
              ∃ u, ends u 0 (if moved = true then 1 else 0) ∧ (u.tile t).caddy = c))) ∧
    (∀ (c : Caddy) (y : Txn) (off : Nat) (bs : List Byte) (c' : Caddy) (moved : Bool), off % 64 = 0 → bs.length = 64 →
      c.stage y off bs = some (c', moved) →
      c'.bytes = c.bytes ∧ c'.regions = c.regions ∧ ∃ y', c'.txn = some y' ∧ y'.region = y.region ∧ y'.ctx = y.ctx ∧
        (Memory.wf y.bytes = true → ∀ z, cellGet y'.bytes z = if z / 64 = off / 64 then bs.getD (z % 64) 0 else cellGet y.bytes z) ∧
        (∀ l, l ∈ y'.lines ↔ l = off / 64 ∨ l ∈ y.lines) ∧ ∃ p, assocGet y'.pages (off / 4096) = some p)

/-! ### The array and the bands at work (R228, R238, R241, R244, R247) -/

/-- R228, R238, R241, R244 and R247: the load of a latch goes on until it stops or its last column is in; a drain that has
written its rows sets its flags for the mode that issued it and leaves; a slot loads from its Caddy image once it is
readable; an idle band outside `ASHAPE` is gated, and a wake ends. Steps named: `MLDW_LATCH_LOADED`, `MDRAIN_COMPLETE`,
`STEEPLD_SLOT_LOADED`, `BAND_IDLE_GATE`, `BAND_WAKE_COMPLETE`. -/
def Obligations.MatrixEvents : Prop :=
  ∀ (s : State) (t : TileIx) (m : MxOp) (l : LReg) (b : BitVec 2),
    let x := s.tile t
    let isLoad (k : MxKind) : Bool := match k with
      | .mldw a .. => a == l
      | _ => false
    let isSteep (k : MxKind) : Bool := match k with
      | .steepld .. => true
      | _ => false
    (x.firstOp isLoad = some m → s.matrixRuns t = true → s.mxStands t m = false → ∃ e j n g, m.kind = .mldw l e j n g ∧
        exec (.mldwLatchLoaded t l) s = .next (State.loadColumns t l e j n g 65 s m)) ∧
    (∀ (e : Bool) (j g h : BitVec 2) (n : Nat), m.kind = .mldw l e j g h →
      (m.done < m.count → s.readBehind t m = false → ∀ v o r, s.mxRow t m m.done = .ok (v, o, r) → ∃ u,
        State.loadColumns t l e j g h (n + 1) s m = State.loadColumns t l e j g h n u { o with done := m.done + 1 } ∧
        u = v.modTile t fun y => y.modLatch l fun w => w.setColumn m.done (y.latchColumn m e j g h r)) ∧
      (m.count ≤ m.done → ∀ k, k < 64 → ∀ d ≤ mfKmax (x.mx.w[l.toNat]'l.isLt).fmt,
        let w := x.mx.w[l.toNat]'l.isLt
        let z := ((State.loadColumns t l e j g h (n + 1) s m).tile t).mx.w[l.toNat]'l.isLt
        z.column k d = if k < m.count then w.column k d else (List.range d).map fun _ => mfElem w.fmt 0 0)) ∧
    (∀ (w : WLatch) (k : Nat) (r : MxRow), k < 64 → r.raws.length ≤ mfKmax w.fmt → r.scales.length ≤ 1024 →
      ∀ d ≤ mfKmax w.fmt, ((w.setColumn k r).column k d = (List.range d).map fun i =>
        mfElem w.fmt (r.scales.getD i 0 % 512) (r.raws.getD i 0 % 2 ^ mfBits w.fmt)) ∧
        ∀ i, i < 64 → i ≠ k → (w.setColumn k r).column i d = w.column i d) ∧
    (x.mx.ops.find? (fun o => o.isDrain && !s.mxStands t o) = some m → s.rowsRun t = true → m.count ≤ m.done → m.epi ≠ none →
      ∃ u, exec (.mdrainComplete t) s = .next u ∧ (u.tile t).mx.ops = (x.mx.ops.filter fun o => o.order != m.order) ∧
        (m.hnd = x.banked.isSome → (u.tile t).regs.ctl.fpflags = x.regs.ctl.fpflags ||| m.flags) ∧
        (u.tile t).regs.s = x.regs.s ∧ SameBytes s u) ∧
    (∀ f ms a, x.firstOp isSteep = some m → m.kind = .steepld f ms → s.matrixRuns t = true → m.nextSlot ms = some a →
      s.cdDamaged t (x.slotNo a.toNat).src.toNat (mfImageBytes (MFmt.code f)) = none →
      ∃ u, exec (.steepldSlotLoaded t) s = .next u ∧
        (u.tile t).mx.st[a.toNat]'a.isLt = (x.mx.st[a.toNat]'a.isLt).load
          (s.cdRead t (x.slotNo a.toNat).src.toNat (mfImageBytes (MFmt.code f))) ∧
        (u.tile t).regs.c = x.regs.c ∧ SameBytes s u) ∧
    (s.phase = .up → x.run.isSome = true → x.regs.ctl.ashape.getLsbD b.toNat = false →
      (∀ o ∈ x.mmas, o.ashape.getLsbD b.toNat = false) → x.mx.idle[b.toNat]'b.isLt + 256 ≤ x.cyc →
      ∃ u, exec (.bandIdleGate t b) s = .next u ∧
        (u.tile t).mx.gated.getLsbD b.toNat = true ∧ (u.tile t).regs = x.regs ∧ SameBytes s u) ∧
    (x.mx.waking.getLsbD b.toNat = true → ∃ u, exec (.bandWakeComplete t b) s = .next u ∧
      (u.tile t).mx.gated.getLsbD b.toNat = false ∧ (u.tile t).mx.waking.getLsbD b.toNat = false ∧
      (u.tile t).regs = x.regs ∧ SameBytes s u)

/-! ### Parking, isolation and outside accesses (R89, R116, R353 to R365, R369) -/

/-- R89, R116, R353, R354, R357, R361, R362, R365 and R369: a read of PARKNEXT presents the oldest request not yet presented;
FAIL, or 10 ms without an answer, ends a parked access with XLATE in its task, and RETRY takes the request off. An owner byte
takes its segment away or gives it, and one given to another context begins to be zeroed; the zeroing leaves zeros and full
tags. A region entry takes its words unless they overlap another valid entry. A write performed at its home leaves the tile's
list; a word of a context's block takes its fields or is refused, context 0's block takes none, and PARKANS, PARKBELL and the
aperture words act as their rows say; an outside access of an aperture that is not valid reads as ones and sets ERR, and one
that translates reads or writes its bytes. The address of XLATE at a slot of the save area, and what an answer with an id not
presented does, are the model's choice (log entries 61 and 79). Steps named: `PARKNEXT_READ`, `PARKANS_RETRY`,
`PARKANS_FAIL`, `PARK_TIMEOUT`, `SEGMENT_OWNER_WRITE`, `SEGMENT_ZERO_COMPLETE`, `CADDY_REGION_WRITE`, `CONTROL_REGION_WRITE`,
`HOST_APERTURE_ACCESS`, `PEER_WRITE_INBOUND`, `WRITE_REACHES_HOME`. -/
def Obligations.IsolationEvents : Prop :=
  ∀ (s : State) (t : TileIx) (die : DieIx) (id : BitVec 12) (p : Parked) (g : BitVec 5) (o : BitVec 8),
    let x := s.tile t
    (∀ p, Die.unpresented (s.die die) = some p → ∃ u, exec (.parknextRead die) s = .next u ∧
      (u.die die).parkInfo = p.info ∧ (∀ r ∈ (u.die die).parked, r.id = p.id → r.presented = true) ∧ SameBytes s u) ∧
    (s.phase = .up → (s.die die).request id = some p →
      (∃ u, exec (.parkansRetry die id) s = .next u ∧ ∀ r ∈ (u.die die).parked, r.id ≠ id) ∧
      (∀ w : Wait, p.kind = .access w.order →
        let u := s.unpark die id
        let va := p.va.signExtend 64
        let answers (v : State) : Prop :=
          exec (.parkansFail die id) s = .next v ∧ (p.leftNs = 0 → exec (.parkTimeout die id) s = .next v)
        ((s.tile p.tile).accs.find? (fun a => a.order == w.order) = some w → answers (u.accFault p.tile w causeXlate va 0)) ∧
        ((∀ a ∈ (s.tile p.tile).accs, a.order ≠ w.order) → (s.tile p.tile).wait = some w → w.begun = true →
          answers ((u.dropSaving p.tile).waitTrap p.tile w causeXlate (match w.instr with
            | .rettSkip a _ => w.src.getS a
            | .yield | .jwait _ | .jwaitHere _ | .sysc _ => ((s.ctx (s.ctxOn p.tile)).slotAt p.va).signExtend 64
            | _ => va) 0)))) ∧
    (isSystemTile t = false → ∃ u, exec (.segmentOwnerWrite t g o) s = .next u ∧ SameBytes s u ∧
      ((u.tile t).seg g).owner = ownerOf o ∧
      (∀ c e, ownerOf o = some c → (x.seg g).owner ≠ some c → (x.seg g).last = some e → e ≠ c →
        ((u.tile t).seg g).zeroing = true)) ∧
    ((x.seg g).zeroing = true → Memory.wf x.sp = true → ∃ u, exec (.segmentZeroComplete t g) s = .next u ∧
      ((u.tile t).seg g).zeroing = false ∧
      (∀ a, g.toNat * 65536 ≤ a → a < (g.toNat + 1) * 65536 →
        cellGet (u.tile t).sp a = 0 ∧ (u.tile t).tagFull a = true) ∧
      ∀ a, a < g.toNat * 65536 ∨ (g.toNat + 1) * 65536 ≤ a → cellGet (u.tile t).sp a = cellGet x.sp a) ∧
    (∀ (i : BitVec 4) (w : Word), ∃ u v, exec (.caddyRegionWrite t i true w) s = .next u ∧
      (u.tile t).caddy.region i = { x.caddy.region i with grant := w } ∧
      exec (.caddyRegionWrite t i false w) s = .next v ∧
      let r := x.caddy.region i
      let n := r.write w
      (x.caddy.refuses i n = false → (v.tile t).caddy.region i =
        if n.base = r.base ∧ n.len = r.len then n else { n with measure := x.caddy.digest t n, measured := n.version }) ∧
      (x.caddy.refuses i n = true → (v.tile t).caddy = x.caddy)) ∧
    (s.fabricUp = true →
      (∀ n w, (s.ahead t)[n]? = some w → (∀ v ∈ (s.ahead t).take n, v.sameLine w = false) →
        (w.ctl = true → exec (.writeReachesHome t n) s = .next ((s.takeWrite t n).ctlWritten w)) ∧
        (w.ctl = false → ∃ u, exec (.writeReachesHome t n) s = .next u ∧ u.ahead t = (s.ahead t).eraseIdx n ∧ SameScratch s u ∧
          (w.host = false → Memory.wf s.gm = true → u.host = s.host ∧ ∀ a, cellGet u.gm a =
            if w.addr ≤ a ∧ a < w.addr + w.bytes.length then (w.bytes.getD (a - w.addr) .keep).on (cellGet s.gm a)
            else cellGet s.gm a) ∧
          (w.host = true → Memory.wf s.host = true → u.gm = s.gm ∧ ∀ a, cellGet u.host a =
            if w.addr ≤ a ∧ a < w.addr + w.bytes.length then (w.bytes.getD (a - w.addr) .keep).on (cellGet s.host a)
            else cellGet s.host a))) ∧
      (∀ (c : CtxNo) (w : Word), c ≠ 0 → ∃ u,
        exec (.controlRegionWrite (BitVec.ofNat 21 (128 * c.toNat + 32)) w) s = .next u ∧
        (u.ctx c).peers = w.extractLsb' 0 32 ∧ (∀ e, e ≠ c → u.ctx e = s.ctx e) ∧ SameBytes s u) ∧
      (∀ (c : CtxNo) (w : Word), c ≠ 0 →
        let lo : BitVec 32 := w.extractLsb' 0 32
        let hi : BitVec 32 := w.extractLsb' 32 32
        let sets (k : Nat) (f : Context → Context) : Prop :=
          exec (.controlRegionWrite (BitVec.ofNat 21 (128 * c.toNat + 8 * k)) w) s = .next (s.modCtx c f)
        let refused (k : Nat) : Prop := sets k fun x => { x with err := true }
        sets 1 (fun x => { x with root := w.extractLsb' 12 34 }) ∧
        (100000 ≤ hi.toNat → hi.toNat ≤ 100000000 → sets 2 fun x => { x with period := hi, allowance := lo }) ∧
        (hi.toNat < 100000 ∨ 100000000 < hi.toNat → refused 2) ∧
        sets 3 (fun x => { x with save := w.extractLsb' 6 42 }) ∧
        sets 5 (fun x => { x with sqlog := w.extractLsb' 60 4, sqbase := w.extractLsb' 7 51 }) ∧
        sets 6 (fun x => { x with cqlog := w.extractLsb' 60 4, cqbase := w.extractLsb' 5 53 }) ∧
        (hi ≠ 0 → lo ≠ 0 → sets 7 (fun x => { x with quantum := hi, holdlim := lo }) ∧
          sets 12 (fun x => { x with pipewdog := hi, fewdog := lo })) ∧
        (hi = 0 ∨ lo = 0 → refused 7 ∧ refused 12) ∧
        ∀ d : Fin 4, sets (8 + d.val) fun x =>
          { x with kvReserve := x.kvReserve.set d.val hi d.isLt, kvFree := x.kvFree.set d.val lo d.isLt }) ∧
      (∀ (k : Nat) (w : Word), k < 16 → exec (.controlRegionWrite (BitVec.ofNat 21 (8 * k)) w) s = .next s) ∧
      (∀ w : Word,
        let park (off : Nat) (u : State) : Prop :=
          exec (.controlRegionWrite (BitVec.ofNat 21 (0x30000 + 256 * die.toNat + off)) w) s = .next u
        park 24 (s.modDie die fun x => { x with parkBell := w.extractLsb' 0 32 }) ∧
        (w.getLsbD 16 = true → park 16 (s.parkFail die (w.extractLsb' 0 12))) ∧
        (w.getLsbD 16 = false → park 16 (s.parkRetry die (w.extractLsb' 0 12)))) ∧
      (∀ (i : BitVec 6) (w : Word),
        let a := s.aperture i
        let becomes (off : Nat) (b : Aperture) : Prop := ∃ u,
          exec (.controlRegionWrite (BitVec.ofNat 21 (0x31000 + 16 * i.toNat + off)) w) s = .next u ∧ u.aperture i = b ∧
          (∀ j, j ≠ i → u.aperture j = s.aperture j) ∧ SameBytes s u
        becomes 8 { a with base := w &&& 0xFFFFFFFFC0000000#64 } ∧
        becomes 0 { a with ctx := w.extractLsb' 0 7, valid := w.getLsbD 7, err := a.err && !w.getLsbD 8 }) ∧
      (∀ (off : BitVec 36) (w : Word), (s.aperture (off.extractLsb' 30 6)).valid = false →
        ∃ u v, exec (.hostApertureAccess off none) s = .next u ∧ u.port.answer = 0xFFFFFFFFFFFFFFFF ∧
          (u.aperture (off.extractLsb' 30 6)).err = true ∧ exec (.hostApertureAccess off (some w)) s = .next v ∧
          (v.aperture (off.extractLsb' 30 6)).err = true ∧ SameBytes s u ∧ SameBytes s v) ∧
      (∀ (off : BitVec 36) l, let a := s.aperture (off.extractLsb' 30 6)
        a.valid = true → s.outsidePlan a.ctx .read (a.base + (off.extractLsb' 0 30).zeroExtend 64) 8 = some l →
        ∃ u, exec (.hostApertureAccess off none) s = .next u ∧ u.port.answer = BitVec.ofNat 64 (leNat (s.outsideRead l)) ∧
          SameBytes s u) ∧
      (∀ (c : CtxNo) (va w : Word),
        (s.outsidePlan c .write va 8 = none → exec (.peerWriteInbound c va w) s = .next s) ∧
        (∀ l, s.outsidePlan c .write va 8 = some l →
          exec (.peerWriteInbound c va w) s = .next (State.outsideWrite l (leBytes 8 w.toNat) s))))

/-! ### Spawns, joins and the scheduler at work (R258 to R275, R285, R286, R297 to R299) -/

/-- R258, R259, R266, R275, R285, R286 and R296 to R298: a spawn is checked at its join unit, which counts it or refuses it;
the answer goes back, a refusal as an asynchronous PROT of the spawner; an accepted record enters its queue once the
accesses before its spawn are performed. Ends that arrive in one cycle are counted in order; one at a plain join that is
open lowers what is pending by one and is counted by its kind, and an arrival adds its weight. A grace timer that has run
out settles its join; a kill notice marks its task, and a kill that is due ends it. Steps named: `SPAWN_JOIN_CHECK`,
`SPAWN_CHECK_RETURN`, `SPAWN_RECORD_ENQUEUE`, `JOIN_END_ARRIVAL`, `GRACE_EXPIRY`, `KILL_NOTICE`, `KILL_TAKEN`. -/
def Obligations.JoinEvents : Prop :=
  ∀ (s : State) (n : Nat) (t : TileIx) (j : JoinRec),
    (∀ m, assocGet s.spawns n = some m → m.returned = false → s.fabricUp = true →
      (m.st = .checking →
        (s.countSpawn m.handle m.ctx m.task m.recs = none → ∃ u, exec (.spawnJoinCheck n) s = .next u ∧
          assocGet u.spawns n = some { m with st := .refused } ∧ u.clusters = s.clusters) ∧
        (s.joinOf m.ctx m.handle = some j → j.quorum = none → j.pending + m.recs.length ≤ 65535 →
          ∃ u, exec (.spawnJoinCheck n) s = .next u ∧ assocGet u.spawns n = some { m with st := .accepted } ∧
            u.join m.handle = some { j with pending := j.pending + m.recs.length })) ∧
      (m.st = .refused → ∀ r, (s.tile m.tile).run = some r → r.record.task = m.task →
        ∃ u, exec (.spawnCheckReturn n) s = .next u ∧ assocGet u.spawns n = none ∧
          (u.tile m.tile).run = some { r with async := r.async ++
            [⟨causeProt, 0, 9, false, false, m.handle.zeroExtend 64, 0⟩] }) ∧
      (m.st = .accepted → ∃ u, exec (.spawnCheckReturn n) s = .next u ∧
        assocGet u.spawns n = some { m with returned := true }) ∧
      (m.st = .accepted → s.accessesDone m.task m.order = true → ∀ r, m.recs = [r] → r.gm = false →
        exec (.spawnRecordEnqueue n) s = .next ((s.setSpawn n { m with st := .enqueue }).enqueue m.target r))) ∧
    (∀ m, assocGet s.ends n = some m → s.fabricUp = true → s.endReady m = true →
      exec (.joinEndArrival n) s =
        .next (((s.sameCycle n m).2.foldl (fun l p => insertEnd p l) [(n, m)]).foldl
          (fun u p => { u with ends := assocDel u.ends p.1 }.countEnd p.2) (s.sameCycle n m).1).flushCtl ∧
      ((∀ p ∈ s.ends, p.1 ≠ n → joinCluster p.2.handle ≠ joinCluster m.handle) → s.ctlDue = [] →
      m.joins = [] → m.commit = ⟨[], []⟩ → m.launch = none → s.joinOf m.ctx m.handle = some j → j.st = .open → j.quorum = none →
      ∃ u, exec (.joinEndArrival n) s = .next u ∧ assocGet u.ends n = none ∧
        u.join m.handle = some (match m.kind with
          | .arrived => { j with pending := j.pending - 1, arrived := j.arrived + 1, weight := f32Add j.weight m.weight }
          | .failed => { j with pending := j.pending - 1, failed := j.failed + 1 }
          | .killed => { j with pending := j.pending - 1, killed := j.killed + 1 }))) ∧
    (∀ h q, (s.join h).bind (·.quorum) = some q → s.phase = .up → q.graceLeft = some 0 →
      exec (.graceExpiry h) s = .next (s.evalJoin h true)) ∧
    (∀ m r, assocGet s.kills n = some m → s.fabricUp = true → (s.tile m.tile).run = some r → r.record.task = m.task →
      ∃ u, exec (.killNotice n) s = .next u ∧ (u.tile m.tile).run = some { r with killPending := true }) ∧
    (∀ r, (s.tile t).run = some r → s.phase = .up → (s.tile t).killDue = true → (s.tile t).peat.held = false →
      exec (.killTaken t) s = .next (s.endTask t .killed r.powerKill))

/-- R269 to R273, R317, R320 to R322: a queued record that has waited an aging step gains one; an idle tile without work of
its own takes the best record it may steal; a gang past its threshold reserves tiles, and the reservation of one that is
queued no more lapses. A task that has run its quantum is marked for pre-emption on the one tile that comes first; a
pre-emption that is due takes place while its task waits. A context at work is charged, once in a microsecond, and refilled;
one long without quota has its tasks marked. An idle tile enters its sleep state, OFF clearing its scratchpad, and one that
has woken looks for work and has the queued tasks offered again. The amounts charged (log entry 71), the caches lost on
entering RETAIN or OFF (log entry 72), and the choice of the victim (log entry 64) are the model's choice. Steps named:
`AGING_STEP`, `STEAL`, `GANG_RESERVATION`, `QUANTUM_EXPIRY`, `DEEP_PREEMPTION`, `QUOTA_STOP_TIMEOUT`, `QUOTA_CHARGE`,
`QUOTA_REFILL`, `IDLE_TARGET_REACHED`, `TILE_WAKE_COMPLETE`. -/
def Obligations.SchedulerEvents : Prop :=
  ∀ (s : State) (t : TileIx) (cl : ClusterIx) (x : CtxNo) (n : Nat),
    let y := s.tile t
    s.phase = .up →
    (∃ u, exec (.agingStep cl n) s = .next u ∧ (u.cluster cl).queue = (s.cluster cl).queue.map fun q =>
      if q.order = n ∧ (q.aged + 1) * (s.cluster cl).agingNs ≤ q.waited then { q with aged := q.aged + 1 } else q) ∧
    (∀ c q, y.idleAwake = true → s.stealFor t = some (c, q) →
      exec (.steal t) s = .next ((s.unqueue c q.order).dispatch t q c)) ∧
    (((s.cluster (clusterOf t)).queue.any fun q => q.record.eligible t) = false →
      (s.cluster (clusterOf t)).reserved.contains t = false → s.stealFor t = bestFrom (s.stealable t)) ∧
    (∀ g, (s.cluster cl).reserving = some g →
      (((s.cluster cl).queue.any fun q => q.record.gm && q.record.gang == g) = true → exec (.gangReservation cl) s = .next s) ∧
      (((s.cluster cl).queue.any fun q => q.record.gm && q.record.gang == g) = false → exec (.gangReservation cl) s =
        .next ((s.modCluster cl fun k => { k with reserving := none, reserved := [] }).offerAll cl))) ∧
    (∀ q, (s.cluster cl).reserving = none → bestQueued ((s.cluster cl).overdueGangs.filter s.choosable) = some q →
      let ms := (s.cluster cl).gangMembers q.record.ctxn q.record.gang
      let free := s.gangTiles cl cl q.record.gang
      let l := gangBase ms free
      let u := s.modCluster cl fun k => { k with reserving := some q.record.gang, reserved := l }
      exec (.gangReservation cl) s = .next (if u.gangFits cl cl q.record then u.startGang cl cl q.record else u) ∧
        l.length ≤ ms.length ∧ matchTiles l ms = true ∧ (∀ z ∈ l, z ∈ tilesOf cl ∧ (s.tile z).idleAwake = true) ∧
        (∀ z ∈ free, z ∉ l → l.length < ms.length → matchTiles (l ++ [z]) ms = false)) ∧
    (∀ q, s.qualifies t q = true → (∀ u, s.qualifies u q = true → s.victimBefore t u = true) → s.victimFor t q = true) ∧
    (∀ r q, y.run = some r → q ∈ s.higher t → s.victimFor t q = true →
      (∀ u r', u ≠ t → (s.tile u).regs.ctl.holdDepth = 0 → (s.tile u).run = some r' → r'.deepDue = true →
        ∀ p ∈ s.higher u, p.order ≠ q.order) →
      ∃ u, exec (.quantumExpiry t) s = .next u ∧ (u.tile t).run = some { r with deepDue := true }) ∧
    (∀ r, y.run = some r → s.preemptDue t = true → y.killDue = false → y.power.st = .on → y.peat.held = false → y.halted = none →
      (y.wait.isSome = true ∨ s.hasParked t .fetch = true ∨ r.stopped = true ∨ r.restoring.isSome = true) →
      exec (.deepPreemption t) s = .next (s.deepPreempt t)) ∧
    (∃ u, exec (.quotaStopTimeout x) s = .next u ∧ SameBytes s u ∧
      ∀ z r, (s.tile z).run = some r → (s.tile z).regs.ctl.ctxn = x → 50000 ≤ r.brokeNs →
        (u.tile z).run = some { r with deepDue := true }) ∧
    (s.chargeable x = true → ∃ u, exec (.quotaCharge x n) s = .next u ∧ (u.ctx x).charged = some (s.time.toNat / 1000) ∧
      (u.ctx x).quota = (if (s.ctx x).curAllowance = 0xFFFFFFFF then (s.ctx x).quota else (s.ctx x).quota - n) ∧
      (∀ c, c ≠ x → u.ctx c = s.ctx c) ∧ exec (.quotaCharge x n) u = .next u) ∧
    (s.chargeable x = false → exec (.quotaCharge x n) s = .next s) ∧
    ((s.ctx x).periodLeft = 0 → ∃ k : Context,
      exec (.quotaRefill x) s = .next (allClusters.foldl (fun s c => s.offerAll c) (s.modCtx x fun _ => k)) ∧
      k.curAllowance = (s.ctx x).allowance ∧ k.periodLeft = (s.ctx x).period.toNat ∧
      k.quota = if (s.ctx x).allowance = 0xFFFFFFFF then 0x7FFFFFFFFFFFFFFF
        else (s.ctx x).allowance.toNat + min (s.ctx x).quota 0) ∧
    (∀ st, (s.cluster (clusterOf t)).reserved.contains t = false → y.idleReached s.settings = some st →
      ∃ u, exec (.idleTargetReached t) s = .next u ∧ (u.tile t).power.st = st ∧ (u.tile t).l1 = [] ∧
        (∀ a, cellGet (u.tile t).sp a = if st = .off then 0 else cellGet y.sp a) ∧
        ∀ z, z ≠ t → (u.tile z).sp = (s.tile z).sp) ∧
    (y.power.waking = some 0 → exec (.tileWakeComplete t) s =
      .next (((s.modTile t (·.woken)).freed t).offerAll (clusterOf t))) ∧
    y.woken.power = { y.power with st := .gated, idle := .none, idleNs := 0, waking := none } ∧ y.woken.regs = y.regs ∧
    (∀ a, cellGet y.woken.sp a = if y.power.st = .off then 0 else cellGet y.sp a) ∧
    (y.power.st = .off → ∀ a, y.woken.tagFull a = true)

/-! ### Power at work (R312 to R329, R414, R416) -/

/-- R314, R315, R323, R326, R327, R329, R414 and R416: a frequency request sets the policy point; a rail moves at most 10 mV,
and never past its target; at an edge not yet served the boost permits go to the clusters that claim them, in the order of
rank and pointer, as far as the pool reaches, and the pointer moves on, and one served stays; a thermal step moves the cap by
one point; an over-current kills the tasks of one context on its die; a re-plan counts the measurement of its domain; a
stretched cycle changes nothing; a margin request raises the voltage by 10 mV up to 30 mV, and then lowers the policy point
in force. The inputs of these steps, and which point a re-plan raises, are the model's choice (log entry 71). Steps named:
`BOOST_EDGE`, `FREQUENCY_REQUEST`, `RAIL_STEP`, `THERMAL_CAP_STEP`, `OVER_CURRENT`, `AGEING_REPLAN`, `TIMING_STRETCH`,
`MARGIN_VOLTAGE_RAISE`. -/
def Obligations.PowerEvents : Prop :=
  ∀ (s : State) (cl : ClusterIx) (d : DieIx) (b : BitVec 2) (p : OpPoint) (dom : BitVec 6) (ps : BitVec 16) (low up : Bool),
    let k := (s.cluster cl).power
    let nearer (old new target : Nat) : Prop :=
      (old ≤ target → new = min target (old + 10)) ∧ (target ≤ old → new = max target (old - 10))
    exec (.timingStretch cl) s = .next s ∧
    (∃ u, exec (.thermalCapStep cl up) s = .next u ∧ (u.cluster cl).power.thermalCap =
      if up = true then OpPoint.up k.thermalCap else OpPoint.down k.thermalCap) ∧
    (∃ u, exec (.marginVoltageRaise cl) s = .next u ∧ SameBytes s u ∧
      (k.margin ≤ 20 → (u.cluster cl).power.margin = k.margin + 10 ∧ (u.cluster cl).power.policy = k.policy) ∧
      (20 < k.margin → (u.cluster cl).power.margin = k.margin ∧ (u.cluster cl).power.policy = OpPoint.down (s.policyOf cl))) ∧
    (∀ h : dom.toNat < 56, ∃ u, exec (.ageingReplan dom ps low) s = .next u ∧
      (u.port.age[dom.toNat]'h).extractLsb' 32 32 = (s.port.age[dom.toNat]'h).extractLsb' 32 32 + 1 ∧
      (u.port.age[dom.toNat]'h).extractLsb' 0 16 = ps ∧
      let mv := ((s.port.age[dom.toNat]'h).extractLsb' 16 8).toNat
      (low = false → u.port.lifts = s.port.lifts ∧ ((u.port.age[dom.toNat]'h).extractLsb' 16 8).toNat = mv) ∧
      (low = true → ((u.port.age[dom.toNat]'h).extractLsb' 16 8).toNat = min (mv + 5) 255 ∧
        (u.port.age[dom.toNat]'h).getLsbD 24 = ((s.port.age[dom.toNat]'h).getLsbD 24 || decide (40 < mv + 5)) ∧
        ∃ q, ∀ (e : BitVec 6) (r : OpPoint), u.port.lift e r = s.port.lift e r + if e = dom ∧ r = q then 5 else 0)) ∧
    (s.phase = .up →
      (∃ u, exec (.frequencyRequest cl p) s = .next u ∧ (u.cluster cl).power.policy = p ∧ SameBytes s u) ∧
      (∃ u, exec (.railStep (.cluster cl)) s = .next u ∧ nearer k.rail.mv (u.cluster cl).power.rail.mv k.rail.target) ∧
      (∃ u, exec (.railStep (.band d b)) s = .next u ∧
        nearer ((s.die d).band b).mv ((u.die d).band b).mv ((s.die d).band b).target) ∧
      (∃ u, exec (.railStep (.fabric d)) s = .next u ∧ nearer (s.die d).fabric.mv (u.die d).fabric.mv (s.die d).fabric.target) ∧
      (∃ u, exec (.railStep (.port d)) s = .next u ∧ nearer (s.die d).port.mv (u.die d).port.mv (s.die d).port.target) ∧
      (s.timersRun = true → s.time.toNat % 10000 = 0 → (s.die d).edge ≠ some s.time → ∃ u, exec (.boostEdge d) s = .next u ∧
        (u.die d).pointer = (s.die d).pointer + 1 ∧ (u.die d).edge = some s.time ∧ exec (.boostEdge d) u = .next u ∧
        let idle := ∀ c ∈ clustersOf d, OpPoint.rank (s.cluster c).power.permitCap ≤ 1
        let fifth := idle ∧ (s.die d).idleIntervals = 4
        let v := s.modDie d fun x => { x with
          edge := some s.time, idleIntervals := if idle ∧ ¬ fifth then x.idleIntervals + 1 else 0
          permits := if fifth then min 64 (x.permits + 1) else x.permits }
        let served := (v.claimOrder d).filter v.claims
        let pool := (v.die d).permits
        (u.die d).permits = pool - served.length ∧ (u.die d).idleIntervals = (v.die d).idleIntervals ∧
        ∀ c ∈ clustersOf d,
          let k := (s.cluster c).power
          let z := (u.cluster c).power
          (c ∉ served → z.permitCap = .nominal ∧ z.noClaim = false) ∧
          (c ∈ served → (served.takeWhile (· != c)).length < pool → z.permitCap = s.policyOf c ∧ z.noClaim = k.noClaim) ∧
          (c ∈ served → pool ≤ (served.takeWhile (· != c)).length →
            z.permitCap = OpPoint.high .nominal (OpPoint.down k.permitCap) ∧ z.noClaim = (k.permitCap == .boost))) ∧
      (s.powerVictim d = none → exec (.overCurrent d) s = .next s) ∧
      (∀ c, s.powerVictim d = some c → c ≠ 0 ∧ exec (.overCurrent d) s =
        .next (((s.killQueued c true (clustersOf d)).killRunning c true (tilesOfDie d)).checkResumed)))

/-! ### Contexts and launches (R350, R352, R354, R365 to R368, R372) -/

/-- R350, R352, R354, R365 to R367 and R372: a notify beyond the queue sets NRANGE, one within it raises what is pending of
an ACTIVE context; the record at the head becomes a launch where its stamp fits, is fetched again where it does not, and at
the sixteenth time completes with QUEUE_STAMP; one of a context that ends completes with its code. STATE goes from FREE to
ACTIVE while no other context has the ASID, from ACTIVE to its end, and back to FREE once the context's launches and ends are
done. A report holds its fields and their signature. The completion of a launch that its context's end cuts short (log entry
66) and the layout of the report (log entries 12 and 69) are the model's choice. Steps named: `NOTIFY`,
`LAUNCH_RECORD_FETCH`, `STAMP_REFETCH`, `CQHEAD`, `CONTEXT_ACTIVATE`, `CONTEXT_END`, `CONTEXT_END_COMPLETE`,
`ATTESTATION_GO`. -/
def Obligations.ContextEvents : Prop :=
  ∀ (s : State) (x : CtxNo) (n : BitVec 16),
    let c := s.ctx x
    let k := (n + 1 - c.sqhead).toNat
    let w := s.launchRecord x
    let becomes (i : Instr) (f : Context → Context) : Prop := exec i s = .next (s.modCtx x f)
    (c.sqSize < k → becomes (.notify x n) fun y => { y with nrange := true }) ∧
    (k ≤ c.sqSize → c.pendingTo < k → c.st = .active → becomes (.notify x n) fun y => { y with pendingTo := k }) ∧
    (k ≤ c.sqSize → k ≤ c.pendingTo ∨ c.st ≠ .active → exec (.notify x n) s = .next s) ∧
    becomes (.cqhead x n) (fun y => { y with cqhead := n }) ∧
    (s.canFetch x = true →
      (c.st ≠ .active → exec (.launchRecordFetch x) s = .next (s.launchFails x 5 w[14])) ∧
      (c.st = .active → c.refetches = 0 →
        (s.stampOk x w = true → exec (.launchRecordFetch x) s = .next (s.launch x w)) ∧
        (s.stampOk x w = false → becomes (.launchRecordFetch x) fun y => { y with refetches := 1 })) ∧
      (c.st = .active → c.refetches ≠ 0 →
        (s.stampOk x w = true → exec (.stampRefetch x) s = .next (s.launch x w)) ∧
        (s.stampOk x w = false → c.refetches ≠ 16 → becomes (.stampRefetch x) fun y => { y with refetches := y.refetches + 1 }) ∧
        (s.stampOk x w = false → c.refetches = 16 → exec (.stampRefetch x) s =
          .next ((s.modCtx x fun y => { y with stampfail := true }).launchFails x 4 w[14])))) ∧
    (x ≠ 0 →
      (c.st = .free → s.asidUsed x c.asid = false → becomes (.contextActivate x) fun y => { y with st := .active }) ∧
      (c.st = .free → s.asidUsed x c.asid = true → becomes (.contextActivate x) fun y => { y with err := true }) ∧
      (c.st = .active → exec (.contextEnd x) s = .next (s.endContext x)) ∧
      (c.st = .free → becomes (.contextEnd x) fun y => { y with err := true })) ∧
    (x = 0 → exec (.contextActivate x) s = .next s ∧ exec (.contextEnd x) s = .next s) ∧
    (s.phase = .up → c.st = .ending → c.launches = [] → c.pendingTo = 0 → (∀ m ∈ s.ends, m.2.ctx ≠ x) →
      exec (.contextEndComplete x) s = .next ((allTiles.filter fun t => (s.tile t).halted == some x).foldl
        (fun u t => (u.modTile t fun y => { y with halted := none }).freed t) (s.modCtx x fun y => { y with st := .free })) ∧
      ((∀ t, (s.tile t).halted ≠ some x) → becomes (.contextEndComplete x) fun y => { y with st := .free })) ∧
    (s.booted = true → ∃ u, exec .attestationGo s = .next u ∧
      u.port.report = s.reportBody ++ bvBytes 64 (Config.sign (s.reportBody.map (·.toNat))) ∧ SameBytes s u)

/-! ### Persistence (R394 to R417) -/

/-- R394 to R403, R406, R409 to R413, R415 and R417: `CKPT` saves the tile unless its newest save still holds and writes the
epoch; a warning or a power-off command stops issue, and each tile that holds a task saves it; once all have, and with
nothing on its way, power goes, and a task that has issued nothing goes back to its queue (R420). A warm start keeps device
memory and every register but the vectors, a cold one keeps neither, and firmware sets HOST. The readiness bits follow their
events. A resume returns the task to its tile where its save and sources hold, and ends it with RESUME_LOST where they do not
(which sources a resume must read again is the model's choice, log entry 75). A retraining window opens once per die and
counts when it ends; a lost line damages its region. Steps named: `PWRCMD_WARM_OFF`, `PWRCMD_COLD_OFF`, `POWER_FAIL_WARNING`,
`PEAT_SAVE`, `MODULE_POWER_DOWN`, `POWER_RESTORE`, `CHANNEL_TRAINED`, `CLUSTER_READY`, `CDWR_READY`, `TILE_RESUME`,
`RETRAIN_WINDOW_START`, `RETRAIN_WINDOW_END`, `CADDY_PATROL`. -/
def Obligations.PersistenceEvents : Prop :=
  ∀ (s : State) (d : SReg) (t : TileIx) (die : DieIx) (cl : ClusterIx) (ch : BitVec 5) (temp : BitVec 16) (kept : Bool),
    let x := s.tile t
    let y := s.t
    (s.mxGoing s.cur = false → y.windowZeroing = false → ∃ v, SameScratch s v ∧ v.regs.s = s.regs.s ∧
      v.t.peat.valid = true ∧ v.t.peat.dirty = false ∧
      v.t.peat.epoch = (if y.peat.valid = true ∧ y.peat.dirty = false then y.peat.epoch else y.peat.epoch + 1) ∧
      (y.mx.ops = [] → v.mxReissue s.cur = v) ∧
      exec (.ckpt d) s = .next ((v.mxReissue s.cur).wrS d ((v.mxReissue s.cur).t.peat.epoch.zeroExtend 64))) ∧
    (s.phase = .up →
      (∀ p ∈ [(Instr.pwrcmdWarmOff, some PowerCmd.warm), (Instr.pwrcmdColdOff, some PowerCmd.cold),
          (Instr.powerFailWarning, s.port.pwrcmd)], ∃ u, exec p.1 s = .next u ∧ u.phase = .warned ∧ u.port.pwrcmd = p.2 ∧
        SameBytes s u ∧ ∀ z, (u.tile z).regs = (s.tile z).regs ∧ (u.tile z).peat.saved = false) ∧
      (∀ l k r, (x.caddy.logicalLine l) = some k → l < 2 ^ 19 → r ∈ x.caddy.regions.toList → r.valid = true →
        1024 * r.base.toNat ≤ k → k < 1024 * (r.base.toNat + r.len.toNat) →
        ∃ u, exec (.caddyPatrol t (BitVec.ofNat 19 l) true) s = .next u ∧
          let n := { r with damaged := true, lost := numPut r.lost k }
          { n with measure := x.caddy.digest t n, measured := n.version } ∈ (u.tile t).caddy.regions.toList)) ∧
    (s.phase = .warned →
      (x.toSave = true → x.power.st = .on → s.workBefore t = false → x.windowZeroing = false →
        ∃ u, exec (.peatSave t) s = .next u ∧ (u.tile t).peat.saved = true ∧ (u.tile t).peat.valid = true ∧
          (u.tile t).peat.dirty = false ∧ SameScratch s u) ∧
      (s.quiesced = false → exec (.modulePowerDown kept) s = .next s) ∧
      ((∀ z, (s.tile z).toSave = false) → s.spawns = [] → s.ends = [] → s.kills = [] → s.port.windows = [] →
        ∃ u, exec (.modulePowerDown kept) s = .next u ∧ u.port.pwrcmd = none ∧
          u.phase = .down (match s.port.pwrcmd with
            | some .warm => true
            | some .cold => false
            | none => kept) ∧
          (∀ z, (u.tile z).peat.held = (u.tile z).run.isSome) ∧
          ((∀ z, (s.tile z).ctlPending = false ∧ (s.tile z).collectives = []) → ∀ z,
            ((s.tile z).run = none → (u.tile z).run = none) ∧
            (∀ r, (s.tile z).run = some r → r.unstarted = none → (u.tile z).run = some r) ∧
            ∀ r q, (s.tile z).run = some r → r.unstarted = some q →
              (u.tile z).run = none ∧ q ∈ (u.cluster r.home).queue))) ∧
    (s.phase = .down true → ∃ u, exec .powerRestore s = .next u ∧ u.phase = .up ∧ u.gm = s.gm ∧
      u.port.ready0.getLsbD 0 = true ∧ ∀ z,
        (u.tile z).regs = { (s.tile z).regs with v := .replicate 32 0, c := .replicate 8 0 } ∧
        (u.tile z).banked = (s.tile z).banked ∧ (u.tile z).run = (s.tile z).run ∧ (u.tile z).sp = [] ∧
        (u.tile z).empties = [] ∧ (u.tile z).power.st = .off) ∧
    (s.phase = .down false → ∃ u, exec .powerRestore s = .next u ∧ u.phase = .up ∧ u.gm = [] ∧
      u.port.ready0.getLsbD 0 = true ∧ ∀ z, (u.tile z).regs = .reset ∧ (u.tile z).run = none ∧ (u.tile z).sp = [] ∧
        (u.tile z).cyc = (s.tile z).cyc ∧ ∀ q, ((u.tile z).queue q).timeline = ((s.tile z).queue q).timeline ∧
          ((u.tile z).queue q).cmds = []) ∧
    (s.booted = true →
      (∃ u, exec (.channelTrained ch) s = .next u ∧ u.port.ready1.getLsbD (32 + ch.toNat) = true) ∧
      ((s.die die).chilled = false → ∃ u, exec (.cdwrReady die) s = .next u ∧ u.port.ready0.getLsbD (12 + die.toNat) = true) ∧
      ((s.die die).chilled = true → exec (.cdwrReady die) s = .next s) ∧
      (s.channelUp (dieOfCluster cl) = true → s.railsReach cl (s.cluster cl).power.point = true →
        ∃ u : State, exec (.clusterReady cl) s = .next (u.offerAll cl).checkResumed ∧ u.port.ready1.getLsbD cl.toNat = true ∧
          u.port.ready0.getLsbD (8 + (dieOfCluster cl).toNat) = true ∧
          u.port.ready0.getLsbD (16 + (dieOfCluster cl).toNat) = true) ∧
      (s.port.ready1.getLsbD (clusterOf t).toNat = true → x.peat.held = true →
        (s.resumable t = true → s.grantsHold t = true → ∃ u, exec (.tileResume t) s = .next u ∧ (u.tile t).peat.held = false ∧
          (u.tile t).power.st = .on ∧ (u.tile t).run.map (·.record) = x.run.map (·.record) ∧ (u.tile t).regs.s = x.regs.s ∧
          (u.tile t).regs.pc = x.regs.pc) ∧
        (s.resumable t = false → ∃ (u : State) (f : TrapRec), exec (.tileResume t) s = .next (u.takeTrap t f).checkResumed ∧
          f.cause = causeResumeLost ∧ f.slot = 8 ∧ (u.tile t).run = x.run)) ∧
      (s.port.ready1.getLsbD (32 + ch.toNat) = true → (∀ c ∈ s.port.windows, c.extractLsb' 3 2 ≠ ch.extractLsb' 3 2) →
        ∃ u, exec (.retrainWindowStart ch) s = .next u ∧ ch ∈ u.port.windows)) ∧
    (s.fabricUp = true → ch ∈ s.port.windows → ∃ u, exec (.retrainWindowEnd ch temp) s = .next u ∧ ch ∉ u.port.windows ∧
      (u.port.retrain[ch.toNat]'ch.isLt).extractLsb' 0 32 = (s.port.retrain[ch.toNat]'ch.isLt).extractLsb' 0 32 + 1 ∧
      (u.port.retrain[ch.toNat]'ch.isLt).extractLsb' 32 16 = temp)

namespace Sys2Proof.Machine

/-- Tile `t` is about to fetch in `s`: the module has power, the tile runs a task that waits for nothing, and nothing falls
due at this bundle boundary (R37, R275, R375). -/
def AtFetch (s : State) (t : TileIx) : Prop :=
  let x := s.tile t
  ∃ r, x.run = some r ∧ s.phase = .up ∧ x.running = true ∧ x.killDue = false ∧ x.overrunNext = false ∧ x.asyncDue = none ∧
    x.wait = none ∧ x.accs = [] ∧ x.replay = none ∧ s.hasParked t .fetch = false ∧
    r.stopped = false ∧ r.restoring = none ∧ r.deepDue = false

/-- The state in which the one slot `si` of a bundle executes, at a cycle: the registers before the bundle are what it reads
(R21). -/
def issuing (s : State) (cycle : Nat) (si : SlotInstr) : State :=
  s.modT fun x => { x with
    cyc := cycle, replay := none, run := x.run.map ({ · with fresh := none })
    issue := { Issue.idle with src := some x.regs, size := 6, slot := si.slot.index, word := si.word } }

/-- Every memory lists its bytes in canonical form: addresses strictly rising, and no byte listed that reads as an unlisted
one does. -/
def Canonical (s : State) : Prop :=
  (∀ t, Memory.wf (s.tile t).sp = true ∧ Memory.wf (s.tile t).caddy.bytes = true) ∧ Memory.wf s.gm = true ∧
  Memory.wf s.host = true

/-- The instructions of the opcode table that are steps of the device, not words. -/
def isDeviceStep (i : Instr) : Bool :=
  match i with
  | .resultWriteback .. | .asyncCauseTaken .. | .feTagOperation .. | .feTimeout .. | .pipeWaitComplete .. |
    .pipeTimeout .. | .barrierEpisodeComplete .. | .gangYieldRendezvous .. | .holdOverrun .. |
    .engineCommandStart .. | .engineCommandComplete .. | .kvMapCommand .. | .kvgrowChunkMove .. | .strmTagTimeout .. |
    .collectiveAllArrived .. | .collectiveTimeout .. | .mmaRowCommit .. | .mldwLatchLoaded .. | .mdrainComplete .. |
    .steepldSlotLoaded .. | .bandIdleGate .. | .bandWakeComplete .. | .parknextRead .. | .parkansRetry .. |
    .parkansFail .. | .parkTimeout .. | .spawnJoinCheck .. | .spawnCheckReturn .. | .spawnRecordEnqueue .. |
    .joinEndArrival .. | .graceExpiry .. | .killNotice .. | .killTaken .. | .agingStep .. | .steal .. |
    .gangReservation .. | .quantumExpiry .. | .deepPreemption .. | .quotaStopTimeout .. | .quotaCharge .. |
    .quotaRefill .. | .boostEdge .. | .frequencyRequest .. | .railStep .. | .thermalCapStep .. | .overCurrent .. |
    .idleTargetReached .. | .tileWakeComplete .. | .notify .. | .launchRecordFetch .. | .stampRefetch .. |
    .cqhead .. | .contextActivate .. | .contextEnd .. | .contextEndComplete .. | .segmentOwnerWrite .. |
    .segmentZeroComplete .. | .caddyRegionWrite .. | .controlRegionWrite .. | .hostApertureAccess .. |
    .peerWriteInbound .. | .attestationGo .. | .pwrcmdWarmOff .. | .pwrcmdColdOff .. | .powerFailWarning .. |
    .peatSave .. | .modulePowerDown .. | .powerRestore .. | .channelTrained .. | .clusterReady .. | .cdwrReady .. |
    .tileResume .. | .mupdComplete .. | .retrainWindowStart .. | .retrainWindowEnd .. | .ageingReplan .. |
    .timingStretch .. | .marginVoltageRaise .. | .caddyPatrol .. | .writeReachesHome .. | .yaltanLinkFailure .. |
    .yaltanLinkReady .. => true
  | _ => false

end Sys2Proof.Machine

/-! ### Steps, encodings and reset (R21, R32 to R48, R373, R399, R412) -/

/-- R21, R34 to R37, R47, R82 and R373: a step in which a tile fetches. Bytes that hold no bundle raise the cause of their
refusal, and a page that may not be fetched raises PROT; a header takes its effect; and a bundle of one slot is its
instruction, executed over the registers before the bundle. An instruction that waits leaves the bundle unissued, one with
an issue cause takes that trap in the state before it, and one that completes leaves the pc at its transfer, or past the
bundle under the loops, with the rest of its effect kept. A step of the device is its meaning. -/
def Obligations.StepRunsDecoded : Prop :=
  (∀ (s s0 s1 : State) (t : TileIx) (bs : List Byte),
    ((s.schedule = [] ∧ t = s.cur ∧ s0 = s) ∨
      ∃ rest, s.schedule = .issue t :: rest ∧ s0 = { s with schedule := rest, cur := t }) →
    AtFetch s0 t →
    (∀ va, s0.codeAt t s0.regs.pc = .error (.prot va) → step s = .next (s0.takeTrap t
      ⟨causeProt, 0, 10, false, false, va.signExtend 64, s0.regs.pc.zeroExtend 64⟩)) ∧
    ∀ s2, s0.codeAt t s0.regs.pc = .ok (s2, bs) → s1 = s2.modT (·.startFirst) →
    (∀ e, decodeBundle bs = .error e → step s = .next (s1.takeTrap t (rejectTrap e s1.regs.pc))) ∧
    (∀ i, decodeBundle bs = .ok (.header i) → step s = exec i ((if isFree i = true then s2 else s1).modT fun x =>
      { x with replay := none, run := x.run.map ({ · with fresh := none }) })) ∧
    ∀ stall si, decodeBundle bs = .ok (.slots stall 6 [si]) →
      let earliest := s1.t.nextIssue + stall.toNat
      let c := s1.t.issueCycle earliest [si]
      let blocked := s1.t.blocked si.instr
      (∀ f, s1.earlyTrap t earliest [si] = some f → step s = .next (s1.takeTrap t f)) ∧
      (s1.earlyTrap t earliest [si] = none → blocked = true → step s = .next s1) ∧
      (s1.earlyTrap t earliest [si] = none → blocked = false → ∀ u, exec si.instr (issuing s1 c si) = .next u →
        let x := u.t
        (x.issue.mark = .wait → step s = .next s1) ∧
        (∀ f, x.issue.mark = .issueTrap → x.issue.pend = some f →
          step s = .next ({ s1 with freeCount := s1.freeCount + 1 }.takeTrap t f)) ∧
        (x.issue.mark = .done → x.issue.src = none →
          step s = .next (u.modT fun y => { y with cyc := max y.cyc (c + 1), nextIssue := max y.nextIssue (c + 1) })) ∧
        (x.issue.mark = .done → x.issue.src.isSome = true → x.issue.pend = none → x.wait = none → x.issue.flow = none →
          let r := u.src
          let f := loopStep r.pc (r.pc + BitVec.ofNat 48 x.issue.size) r.ctl.loop0 r.ctl.loop1
          ∃ z, step s = .next z ∧ SameBytes u z ∧ z.t.issue = .idle ∧ z.t.cyc = c + 1 ∧ z.regs.pc = x.issue.npc.getD f.1 ∧
            z.regs = { x.regs with pc := z.regs.pc, ctl := { x.regs.ctl with loop0 := z.regs.ctl.loop0, loop1 := z.regs.ctl.loop1 } } ∧
            (x.issue.npc = none → x.issue.wroteLc0 = false → z.regs.ctl.loop0 = { x.regs.ctl.loop0 with lc := f.2.1 }) ∧
            (x.issue.npc = none → x.issue.wroteLc1 = false → z.regs.ctl.loop1 = { x.regs.ctl.loop1 with lc := f.2.2 }) ∧
            ∀ y, y ≠ u.cur → z.tile y = u.tile y))) ∧
  ∀ (s : State) (i : Instr) (rest : List Turn), s.schedule = .event i :: rest → step s = exec i { s with schedule := rest }

/-- The worked words of the spec: each decodes to the instruction it stands for, in the opcode space of its slot; `MUL` in
S0 is refused; and the bundle of R48's example holds its two instructions. -/
def Obligations.DecodingWords : Prop :=
  decodeSlot .s0 0x02182100 = .ok (.add 3 1 2) ∧ decodeSlot .s1 0x44202100 = .ok (.mul 4 1 2) ∧
  decodeSlot .s0 0x44202100 = .error .illegalOp ∧
  decodeSlot .s0 0x3C482064 = .ok (.cmpi 1 .lt 2 100) ∧ decodeSlot .c 0x021FFFE0 = .ok (.br 0 false 0x1FFFE0) ∧
  decodeSlot .m 0x02081504 = .ok (.ld .sp 4 2 .w true 4) ∧ decodeSlot .v0 0x02432119 = .ok (.vadd 4 6 8 .i16 3 .g2 false) ∧
  decodeSlot .v1 0x7A21A709 = .ok (.redMax 2 3 9 .bf16 1 false) ∧ decodeSlot .x 0x06440481 = .ok (.mma 1 0 2 9 true) ∧
  decodeSlot .e 0x0E0002C0 = .ok (.kvfree 0 22) ∧ decodeSlot .c 0x2A028001 = .ok (.waitt 20 .gath) ∧
  decodeBundle [0x03, 0x02, 0x00, 0x21, 0x18, 0x02, 0x00, 0x21, 0x20, 0x44] =
    .ok (.slots 2 10 [⟨.s0, 0x02182100, .add 3 1 2⟩, ⟨.s1, 0x44202100, .mul 4 1 2⟩])

/-- R26, R28, R90, R350, R399 and R412: the machine before its boot, whose first steps set the readiness bits (R409, R411;
that it starts here is the model's choice, log entry 5). Every tile is in OFF with its scratchpad zero and its tags full, and
its timelines show COUNT 0; context 0 is active and every other FREE, with the reset values of the timers; no launch, queue,
join or slab exists; and the memories are in canonical form (the form is the model's own). -/
def Obligations.ResetState : Prop :=
  let s := State.reset
  Canonical s ∧ (s.ctx 0).st = .active ∧ (∀ c, c ≠ 0 → (s.ctx c).st = .free) ∧
  (∀ c, (s.ctx c).launches = [] ∧ (s.ctx c).holdlim = 20000 ∧ (s.ctx c).fewdog = 1000000 ∧ (s.ctx c).pipewdog = 1000000 ∧
    (s.ctx c).quantum = 200000 ∧ (s.ctx c).trapv = 0) ∧
  (∀ c, (s.cluster c).queue = [] ∧ (s.cluster c).joins = []) ∧ (∀ d, (s.die d).kv = []) ∧
  (∀ t, (s.tile t).power.st = .off ∧ (s.tile t).run = none ∧ (∀ a, cellGet (s.tile t).sp a = 0) ∧
    (∀ a, (s.tile t).tagFull a = true) ∧ ∀ q, ((s.tile t).queue q).timeline = 0 ∧ ((s.tile t).queue q).cmds = []) ∧
  (∀ t, (s.tile t).regs.ctl.srseed = 1 ∧ (s.tile t).regs.ctl.ashape = 0xF ∧ (s.tile t).regs.ctl.holdLeft = 0xFFFFFFFF) ∧
  s.port.ready0 = 0 ∧ s.port.ready1 = 0

/-- R32 to R35, R40 to R47: decoding undoes encoding. Every well-formed instruction of a slot, with every operand the
encoding admits, alone in a bundle at any place of a line decodes to itself; so do the two headers; and every instruction
but a step of the device has an encoding. -/
def Obligations.DecodeUndoesEncode : Prop :=
  (∀ (i : Instr) (ln : Lane) (w : BitVec 32) (rest : List Byte), i.wf = true → encodeWord i = some (ln, w) →
    decodeSlot ln.slot w = .ok i ∧ decodeBundle (bundleBytes ln.slot w ++ rest) = .ok (.slots 0 6 [⟨ln.slot, w, i⟩])) ∧
  (∀ (stall : BitVec 5) (i : Instr) (rest bs : List Byte), i = .noOpBundle stall ∨ i = .paddingHeader stall → i.wf = true →
    encode i = some bs → decodeBundle (bs ++ rest) = .ok (.header i)) ∧
  ∀ i : Instr, isDeviceStep i = false → ∃ bs, encode i = some bs

/-- R42, R46 and R47: a slot word has one meaning and no spare bit. Whatever a slot accepts is well formed, and its encoding
gives back the word, so that two words never decode to one instruction and a reserved bit that is set is never passed over.
-/
def Obligations.AcceptedWordsAreExact : Prop :=
  ∀ (sl : Slot) (w : BitVec 32) (i : Instr), decodeSlot sl w = .ok i → i.wf = true ∧ encodeWord i = some (sl.lane, w)

/-- Every step keeps every memory in its canonical form: the scratchpads, the Caddies, device memory and host memory. It is
an invariant of the model's own representation, on which the reads and writes of R86 to R97 rest. -/
def Obligations.StepKeepsMemoriesCanonical : Prop :=
  ∀ s s' : State, Canonical s → step s = .next s' → Canonical s'

/-- R351, R354, R361 and R362: no instruction of a task outside system mode, which is a task of a context other than 0,
changes what isolates contexts: who owns a segment of any scratchpad, an entry of any Caddy's regions, or the state, the
group, the address space and the root of any context. -/
def Obligations.GrantsNeedSystemMode : Prop :=
  ∀ (s s' : State) (i : Instr), isDeviceStep i = false → s.src.ctl.sys = false → s.ctxn ≠ 0 → exec i s = .next s' →
    (∀ t g, ((s'.tile t).seg g).owner = ((s.tile t).seg g).owner) ∧
    (∀ t, (s'.tile t).caddy.regions = (s.tile t).caddy.regions) ∧
    ∀ c, (s'.ctx c).st = (s.ctx c).st ∧ (s'.ctx c).group = (s.ctx c).group ∧ (s'.ctx c).asid = (s.ctx c).asid ∧
      (s'.ctx c).root = (s.ctx c).root
end

