-- ==== Sys2Proof/Laws/Cells.lean ====
section
/-! SUPPORT. The canonical form of a memory: every operation keeps it, a read after a write gives the byte written, every
other byte stays, and two memories that read alike are equal. -/

set_option Elab.async false

namespace Sys2Proof.Machine

/-! ### The form, cell by cell -/

theorem cellsAbove_weaken {lo hi : Nat} (h : lo ≤ hi) :
    ∀ {l : List Host.Cell}, cellsAbove (some hi) l = true → cellsAbove (some lo) l = true
  | [], _ => rfl
  | (k, b) :: r, hl => by
    simp only [cellsAbove, Bool.and_eq_true, decide_eq_true_eq] at hl ⊢
    exact ⟨⟨by omega, hl.1.2⟩, hl.2⟩

theorem cellsAbove_none {lo : Nat} : ∀ {l : List Host.Cell}, cellsAbove (some lo) l = true → cellsAbove none l = true
  | [], _ => rfl
  | (k, b) :: r, hl => by
    simp only [cellsAbove, Bool.and_eq_true, decide_eq_true_eq] at hl ⊢
    exact ⟨⟨trivial, hl.1.2⟩, hl.2⟩

/-- Nothing is listed at or below the bound. -/
theorem cellGet_below {lo a : Nat} (h : a ≤ lo) : ∀ {l : List Host.Cell}, cellsAbove (some lo) l = true → cellGet l a = 0
  | [], _ => rfl
  | (k, b) :: r, hl => by
    simp only [cellsAbove, Bool.and_eq_true, decide_eq_true_eq] at hl
    simp only [cellGet]
    rw [if_neg (by omega), if_pos (by omega)]

/-- A write above the bound stays above it. -/
theorem cellsAbove_cellSet {lo a : Nat} {b : Byte} (h : lo < a) :
    ∀ {l : List Host.Cell}, cellsAbove (some lo) l = true → cellsAbove (some lo) (cellSet l a b) = true
  | [], _ => by
    simp only [cellSet]
    split <;> simp_all [cellsAbove]
  | (k, c) :: r, hl => by
    simp only [cellsAbove, Bool.and_eq_true, decide_eq_true_eq] at hl
    obtain ⟨⟨hk, hc⟩, hr⟩ := hl
    simp only [cellSet]
    split
    · subst_vars
      split
      · exact cellsAbove_weaken (by omega) hr
      · simp_all [cellsAbove]
    · split
      · split
        · simp_all [cellsAbove]
        · simp_all [cellsAbove]
      · simp only [cellsAbove, Bool.and_eq_true, decide_eq_true_eq]
        exact ⟨⟨hk, hc⟩, cellsAbove_cellSet (by omega) hr⟩

/-- A byte written keeps the canonical form. -/
theorem Memory.wf_cellSet {l : List Host.Cell} (a : Nat) (b : Byte) (h : Memory.wf l = true) :
    Memory.wf (cellSet l a b) = true := by
  cases l with
  | nil => simp only [cellSet]; split <;> simp_all [Memory.wf, cellsAbove]
  | cons p r =>
    obtain ⟨k, c⟩ := p
    simp only [Memory.wf, cellsAbove, Bool.and_eq_true, true_and] at h
    simp only [cellSet]
    split
    · subst_vars
      split
      · exact cellsAbove_none h.2
      · simp_all [Memory.wf, cellsAbove]
    · split
      · split <;> simp_all [Memory.wf, cellsAbove]
      · simp only [Memory.wf, cellsAbove, Bool.and_eq_true, true_and]
        exact ⟨h.1, cellsAbove_cellSet (by omega) h.2⟩

theorem cellGet_cellSet_above {lo : Nat} (a x : Nat) (b : Byte) :
    ∀ {l : List Host.Cell}, cellsAbove (some lo) l = true →
      cellGet (cellSet l a b) x = if x = a then b else cellGet l x
  | [], _ => by
    simp only [cellSet]
    split
    · subst_vars; simp [cellGet]
    · simp only [cellGet]; split <;> simp
  | (k, c) :: r, hl => by
    simp only [cellsAbove, Bool.and_eq_true, decide_eq_true_eq] at hl
    obtain ⟨⟨-, -⟩, hr⟩ := hl
    simp only [cellSet]
    split
    · subst_vars
      split
      · subst_vars
        by_cases hx : x = k
        · rw [if_pos hx, hx, cellGet_below (Nat.le_refl k) hr]
        · rw [if_neg hx]
          simp only [cellGet, if_neg hx]
          split
          · exact cellGet_below (by omega) hr
          · rfl
      · simp only [cellGet]
        split <;> rfl
    · split
      · split
        · subst_vars
          by_cases hx : x = a
          · rw [if_pos hx, hx]
            simp only [cellGet]
            rw [if_neg (by omega), if_pos (by omega)]
          · rw [if_neg hx]
        · simp only [cellGet]
          split
          · rfl
          · split
            · rw [if_neg (by omega), if_pos (by omega)]
            · rfl
      · simp only [cellGet]
        rw [cellGet_cellSet_above a x b hr]
        by_cases hx : x = a
        · subst hx
          rw [if_neg (by omega), if_neg (by omega)]
          simp
        · simp only [if_neg hx]

/-- A read after a write: the byte written at its address, every other byte as before. -/
theorem cellGet_cellSet {l : List Host.Cell} (h : Memory.wf l = true) (a x : Nat) (b : Byte) :
    cellGet (cellSet l a b) x = if x = a then b else cellGet l x := by
  cases l with
  | nil => exact cellGet_cellSet_above (lo := 0) a x b rfl
  | cons p r =>
    obtain ⟨k, c⟩ := p
    simp only [Memory.wf, cellsAbove, Bool.and_eq_true, true_and] at h
    by_cases hk : k = 0
    · subst hk
      simp only [cellSet]
      split
      · subst_vars
        split
        · subst_vars
          by_cases hx : x = 0
          · rw [if_pos hx, hx, cellGet_below (Nat.le_refl 0) h.2]
          · rw [if_neg hx]
            simp only [cellGet, if_neg hx]
            rw [if_neg (by omega)]
        · simp only [cellGet]
          split <;> rfl
      · rw [if_neg (by omega)]
        simp only [cellGet]
        rw [cellGet_cellSet_above a x b h.2]
        by_cases hx : x = a
        · subst hx
          rw [if_neg (by omega), if_neg (by omega)]
          simp
        · simp only [if_neg hx]
    · exact cellGet_cellSet_above (lo := k - 1) a x b (by
        simp only [cellsAbove, Bool.and_eq_true, decide_eq_true_eq]
        exact ⟨⟨by omega, h.1⟩, h.2⟩)

/-- What a canonical list lists, it reads. -/
theorem cellGet_head {k : Nat} {b : Byte} {r : List Host.Cell} : cellGet ((k, b) :: r) k = b := by simp [cellGet]

theorem cells_ext_above : ∀ {lo : Nat} {l m : List Host.Cell}, cellsAbove (some lo) l = true → cellsAbove (some lo) m = true →
    (∀ a, cellGet l a = cellGet m a) → l = m
  | _, [], [], _, _, _ => rfl
  | _, [], (k, b) :: r, _, hm, h => by
    simp only [cellsAbove, Bool.and_eq_true, bne_iff_ne, ne_eq] at hm
    exact absurd (by simpa [cellGet] using (h k).symm) hm.1.2
  | _, (k, b) :: r, [], hl, _, h => by
    simp only [cellsAbove, Bool.and_eq_true, bne_iff_ne, ne_eq] at hl
    exact absurd (by simpa [cellGet] using h k) hl.1.2
  | _, (k, b) :: r, (k', b') :: r', hl, hm, h => by
    simp only [cellsAbove, Bool.and_eq_true, bne_iff_ne, ne_eq, decide_eq_true_eq] at hl hm
    have hk : k = k' := by
      rcases Nat.lt_trichotomy k k' with hlt | heq | hgt
      · have := h k
        simp only [cellGet, if_true, if_neg (Nat.ne_of_lt hlt), if_pos hlt] at this
        exact absurd this hl.1.2
      · exact heq
      · have := h k'
        simp only [cellGet, if_true, if_neg (Nat.ne_of_lt hgt), if_pos hgt] at this
        exact absurd this.symm hm.1.2
    subst hk
    have hb : b = b' := by simpa [cellGet] using h k
    subst hb
    have hr : r = r' := cells_ext_above hl.2 hm.2 fun a => by
      by_cases ha : a ≤ k
      · rw [cellGet_below ha hl.2, cellGet_below ha hm.2]
      · have := h a
        simp only [cellGet] at this
        rwa [if_neg (by omega), if_neg (by omega), if_neg (by omega), if_neg (by omega)] at this
    rw [hr]

/-- Two canonical memories that read alike at every address are the same data. -/
theorem Memory.ext {l m : List Host.Cell} (hl : Memory.wf l = true) (hm : Memory.wf m = true)
    (h : ∀ a, cellGet l a = cellGet m a) : l = m := by
  cases l with
  | nil =>
    cases m with
    | nil => rfl
    | cons p r =>
      simp only [Memory.wf, cellsAbove, Bool.and_eq_true, bne_iff_ne, ne_eq, true_and] at hm
      exact absurd (by simpa [cellGet] using (h p.1).symm) hm.1
  | cons p r =>
    cases m with
    | nil =>
      simp only [Memory.wf, cellsAbove, Bool.and_eq_true, bne_iff_ne, ne_eq, true_and] at hl
      exact absurd (by simpa [cellGet] using h p.1) hl.1
    | cons q r' =>
      obtain ⟨k, b⟩ := p
      obtain ⟨k', b'⟩ := q
      simp only [Memory.wf, cellsAbove, Bool.and_eq_true, bne_iff_ne, ne_eq, true_and] at hl hm
      have hk : k = k' := by
        rcases Nat.lt_trichotomy k k' with hlt | heq | hgt
        · have := h k
          simp only [cellGet, if_true, if_neg (Nat.ne_of_lt hlt), if_pos hlt] at this
          exact absurd this hl.1
        · exact heq
        · have := h k'
          simp only [cellGet, if_true, if_neg (Nat.ne_of_lt hgt), if_pos hgt] at this
          exact absurd this.symm hm.1
      subst hk
      have hb : b = b' := by simpa [cellGet] using h k
      subst hb
      rw [cells_ext_above hl.2 hm.2 fun a => by
        by_cases ha : a ≤ k
        · rw [cellGet_below ha hl.2, cellGet_below ha hm.2]
        · have := h a
          simp only [cellGet] at this
          rwa [if_neg (by omega), if_neg (by omega), if_neg (by omega), if_neg (by omega)] at this]

/-! ### Writes of many bytes -/

/-- Optional bytes written from an address up keep the canonical form. -/
theorem Memory.wf_cellsPut : ∀ {l : List Host.Cell} (a : Nat) (bs : List (Option Byte)), Memory.wf l = true →
    Memory.wf (cellsPut l a bs) = true
  | _, _, [], h => h
  | _, a, none :: bs, h => Memory.wf_cellsPut (a + 1) bs h
  | _, a, some b :: bs, h => Memory.wf_cellsPut (a + 1) bs (Memory.wf_cellSet a b h)

/-- Bytes written from an address up keep the canonical form. -/
theorem Memory.wf_cellsWrite {l : List Host.Cell} (a : Nat) (bs : List Byte) (h : Memory.wf l = true) :
    Memory.wf (cellsWrite l a bs) = true := Memory.wf_cellsPut a _ h

/-- A read after a write of optional bytes: the byte put there, where one was. -/
theorem cellGet_cellsPut : ∀ {l : List Host.Cell} (a : Nat) (bs : List (Option Byte)) (x : Nat), Memory.wf l = true →
    cellGet (cellsPut l a bs) x = if a ≤ x then (bs.getD (x - a) none).getD (cellGet l x) else cellGet l x
  | _, _, [], _, _ => by simp [cellsPut]
  | l, a, none :: bs, x, h => by
    rw [cellsPut, cellGet_cellsPut (a + 1) bs x h]
    by_cases hx : a = x
    · subst hx; simp [show ¬ a + 1 ≤ a by omega]
    · by_cases ha : a ≤ x
      · rw [if_pos (by omega), if_pos ha, show x - a = (x - (a + 1)) + 1 by omega]; simp
      · rw [if_neg (by omega), if_neg ha]
  | l, a, some b :: bs, x, h => by
    rw [cellsPut, cellGet_cellsPut (a + 1) bs x (Memory.wf_cellSet a b h), cellGet_cellSet h]
    by_cases hx : x = a
    · subst hx; simp [show ¬ x + 1 ≤ x by omega]
    · simp only [if_neg hx]
      by_cases ha : a ≤ x
      · rw [if_pos (by omega), if_pos ha, show x - a = (x - (a + 1)) + 1 by omega]; simp
      · rw [if_neg (by omega), if_neg ha]

/-- A read after a write of bytes: the byte written, or the byte before where none was. -/
theorem cellGet_cellsWrite {l : List Host.Cell} (a : Nat) (bs : List Byte) (x : Nat) (h : Memory.wf l = true) :
    cellGet (cellsWrite l a bs) x = if a ≤ x ∧ x < a + bs.length then bs.getD (x - a) 0 else cellGet l x := by
  rw [cellsWrite, cellGet_cellsPut a _ x h]
  by_cases ha : a ≤ x
  · rw [if_pos ha]
    by_cases hb : x < a + bs.length
    · rw [if_pos ⟨ha, hb⟩]
      have : x - a < bs.length := by omega
      simp [List.getD_eq_getElem?_getD, List.getElem?_map, List.getElem?_eq_getElem this]
    · rw [if_neg (by omega)]
      have : bs.length ≤ x - a := by omega
      simp [List.getD_eq_getElem?_getD, List.getElem?_map, List.getElem?_eq_none this]
  · rw [if_neg ha, if_neg (by omega)]

/-- A list with cells taken out is above every bound it was above. -/
theorem cellsAbove_filter (p : Host.Cell → Bool) : ∀ {lo : Nat} {l : List Host.Cell}, cellsAbove (some lo) l = true →
    cellsAbove (some lo) (l.filter p) = true
  | _, [], _ => rfl
  | lo, (k, b) :: r, hl => by
    simp only [cellsAbove, Bool.and_eq_true, decide_eq_true_eq] at hl
    have hr := cellsAbove_filter p hl.2
    by_cases hp : p (k, b) = true
    · rw [List.filter_cons_of_pos hp]
      simp only [cellsAbove, Bool.and_eq_true, decide_eq_true_eq]
      exact ⟨hl.1, hr⟩
    · rw [List.filter_cons_of_neg hp]
      exact cellsAbove_weaken (by omega) hr

/-- Erasing a range keeps the canonical form. -/
theorem Memory.wf_cellsErase {l : List Host.Cell} (a n : Nat) (h : Memory.wf l = true) :
    Memory.wf (cellsErase l a n) = true := by
  cases l with
  | nil => rfl
  | cons p r =>
    obtain ⟨k, b⟩ := p
    simp only [Memory.wf, cellsAbove, Bool.and_eq_true, true_and] at h
    have hr := cellsAbove_filter (fun c => decide (c.1 < a) || decide (a + n ≤ c.1)) h.2
    simp only [cellsErase]
    by_cases hp : (decide (k < a) || decide (a + n ≤ k)) = true
    · rw [List.filter_cons_of_pos (p := fun c : Host.Cell => decide (c.1 < a) || decide (a + n ≤ c.1)) hp]
      simp only [Memory.wf, cellsAbove, Bool.and_eq_true, true_and]
      exact ⟨h.1, hr⟩
    · rw [List.filter_cons_of_neg (p := fun c : Host.Cell => decide (c.1 < a) || decide (a + n ≤ c.1)) hp]
      exact cellsAbove_none hr

/-- A memory with nothing listed is canonical. -/
theorem Memory.wf_nil : Memory.wf [] = true := rfl

/-! ### Byte strings -/

@[simp] theorem leBytes_length : ∀ n x, (leBytes n x).length = n
  | 0, _ => rfl
  | n + 1, x => by simp [leBytes, leBytes_length n]

@[simp] theorem cellsRead_length (l : List Host.Cell) : ∀ a n, (cellsRead l a n).length = n
  | _, 0 => rfl
  | a, n + 1 => by simp [cellsRead, cellsRead_length l (a + 1) n]

/-- The number of the bytes of a number is the number, modulo their size. -/
theorem leNat_leBytes : ∀ n x, leNat (leBytes n x) = x % 256 ^ n
  | 0, x => by simp [leBytes, leNat, Nat.mod_one]
  | n + 1, x => by
    rw [leBytes, leNat, leNat_leBytes n, BitVec.toNat_ofNat, show 256 ^ (n + 1) = 256 * 256 ^ n from by
      rw [Nat.pow_succ, Nat.mul_comm], Nat.mod_mul]

/-- The bytes read from an address up, one by one. -/
theorem cellsRead_getD (l : List Host.Cell) : ∀ a n k, k < n → (cellsRead l a n).getD k 0 = cellGet l (a + k)
  | _, 0, _, h => absurd h (by omega)
  | a, n + 1, 0, _ => by simp [cellsRead]
  | a, n + 1, k + 1, h => by
    rw [cellsRead, List.getD_cons_succ, cellsRead_getD l (a + 1) n k (by omega), show a + 1 + k = a + (k + 1) by omega]

end Sys2Proof.Machine
end

