-- ==== Sys2Proof/Laws/Codes.lean ====
section
/-! SUPPORT. Encoded fields: a field of a word put together from its fields, and the code of a named value read back. -/

set_option Elab.async false

namespace Sys2Proof

/-- A field above the last part of a word is a field of what stands before it. -/
theorem bitsHi {v w s l : Nat} {x : BitVec v} {y : BitVec w} {z : BitVec l}
    (e : x.extractLsb' (s - w) l = z) (h : w ≤ s := by decide) : (x ++ y).extractLsb' s l = z := by
  rw [BitVec.extractLsb'_append_eq_of_le h, e]

/-- The last part of a word is its lowest field. -/
theorem bitsLo {v w : Nat} {x : BitVec v} {y : BitVec w} : (x ++ y).extractLsb' 0 w = y := by
  rw [BitVec.extractLsb'_append_eq_of_add_le (by omega), BitVec.extractLsb'_eq_self]

/-- The whole of a word is its one field. -/
theorem bitsAll {w : Nat} {x : BitVec w} : x.extractLsb' 0 w = x := BitVec.extractLsb'_eq_self

/-- A one-bit field that holds a truth value. -/
theorem ofBool_beq_one (b : Bool) : (BitVec.ofBool b == (1 : BitVec 1)) = b := by cases b <;> rfl

/-- An instruction without a word. -/
theorem noWord {p : Lane × BitVec 32} {q : Prop} (h : (none : Option (Lane × BitVec 32)) = some p) : q := nomatch h

/-- The code of a condition, in the two fields of a compare (R201). -/
theorem condJoin (c : Cond) : c.code.extractLsb' 3 1 ++ c.code.extractLsb' 0 3 = c.code := by cases c <;> rfl

/-- An element index, in the two fields of `VEXTR` and `VINS` (R204). -/
theorem indexJoin (k : BitVec 10) : k.extractLsb' 5 5 ++ k.extractLsb' 0 5 = k := by
  rw [BitVec.extractLsb'_append_extractLsb'_eq_extractLsb' (by rfl)]
  exact BitVec.extractLsb'_eq_self

/-- A condition that holds lets a decoding go on. -/
theorem gateOk {β : Type} {ok : Bool} {k : Except Reject β} (h : ok = true) : gate ok k = k := if_pos h

/-- Reserved bits that are zero let a decoding go on. -/
theorem rsvOk {β : Type} {ok : Bool} {k : Except Reject β} (h : ok = true) : rsv ok k = k := if_pos h

@[simp] theorem AmoOp.ofCode_code (x : AmoOp) : AmoOp.ofCode x.code = some x := by cases x <;> rfl

@[simp] theorem ClrVal.ofCode_code (x : ClrVal) : ClrVal.ofCode x.code = some x := by cases x <;> rfl

@[simp] theorem CollOp.ofCode_code (x : CollOp) : CollOp.ofCode x.code = some x := by cases x <;> rfl

@[simp] theorem Cond.ofCode_code (x : Cond) : Cond.ofCode x.code = some x := by cases x <;> rfl

@[simp] theorem ETy.ofCode_code (x : ETy) : ETy.ofCode x.code = some x := by cases x <;> rfl

@[simp] theorem FAmo.ofCode_code (x : FAmo) : FAmo.ofCode x.code = some x := by
  cases x <;> first | rfl | (rename_i a; cases a <;> rfl) | (rename_i a b; cases a <;> cases b <;> rfl)

@[simp] theorem Grp.ofCode_code (x : Grp) : Grp.ofCode x.code = some x := by cases x <;> rfl

@[simp] theorem MFmt.ofCode_code (x : MFmt) : MFmt.ofCode x.code = some x := by cases x <;> rfl

@[simp] theorem Order.ofCode_code (x : Order) : Order.ofCode x.code = some x := by cases x <;> rfl

@[simp] theorem QueueId.ofCode_code (x : QueueId) : QueueId.ofCode x.code = some x := by cases x <;> rfl

@[simp] theorem RM.ofCode_code (x : RM) : RM.ofCode x.code = some x := by cases x <;> rfl

@[simp] theorem Scope.ofCode_code (x : Scope) : Scope.ofCode x.code = some x := by cases x <;> rfl

@[simp] theorem SgnOp.ofCode_code (x : SgnOp) : SgnOp.ofCode x.code = some x := by cases x <;> rfl

@[simp] theorem Size.ofCode_code (x : Size) : Size.ofCode x.code = some x := by cases x <;> rfl

@[simp] theorem Space.ofCode_code (x : Space) : Space.ofCode x.code = some x := by cases x <;> rfl

@[simp] theorem SxFmt.ofCode_code (x : SxFmt) : SxFmt.ofCode x.code = some x := by cases x <;> rfl

@[simp] theorem VamoOp.ofCode_code (x : VamoOp) : VamoOp.ofCode x.code = some x := by
  cases x <;> first | rfl | (rename_i a; cases a <;> rfl) | (rename_i a b; cases a <;> cases b <;> rfl)

@[simp] theorem XFac.ofCode_code (x : XFac) : XFac.ofCode x.code = some x := by cases x <;> rfl

/-- The scalar space dispatches on its opcode. -/
theorem scalarAt {w : BitVec 32} {op : BitVec 7} (h : fld w 25 7 = op) : decodeSlot .s1 w = scalarWord true w op.toNat :=
  congrArg (fun x : BitVec 7 => scalarWord true w x.toNat) h

/-- The control space dispatches on its opcode. -/
theorem controlAt {w : BitVec 32} {op : BitVec 7} (h : fld w 25 7 = op) : decodeSlot .c w = controlWord w op.toNat :=
  congrArg (fun x : BitVec 7 => controlWord w x.toNat) h

/-- The memory space dispatches on its opcode. -/
theorem memoryAt {w : BitVec 32} {op : BitVec 7} (h : fld w 25 7 = op) : decodeSlot .m w = memoryWord w op.toNat :=
  congrArg (fun x : BitVec 7 => memoryWord w x.toNat) h

/-- The vector space dispatches on its opcode. -/
theorem vectorAt {w : BitVec 32} {op : BitVec 7} (h : fld w 25 7 = op) : decodeSlot .v1 w = vectorWord true w op.toNat :=
  congrArg (fun x : BitVec 7 => vectorWord true w x.toNat) h

/-- The matrix space dispatches on its opcode. -/
theorem matrixAt {w : BitVec 32} {op : BitVec 7} (h : fld w 25 7 = op) : decodeSlot .x w = matrixWord w op.toNat :=
  congrArg (fun x : BitVec 7 => matrixWord w x.toNat) h

/-- The engine space dispatches on its opcode. -/
theorem engineAt {w : BitVec 32} {op : BitVec 7} (h : fld w 25 7 = op) : decodeSlot .e w = engineWord w op.toNat :=
  congrArg (fun x : BitVec 7 => engineWord w x.toNat) h

end Sys2Proof
end

