-- ==== Sys2Proof/Laws/State.lean ====
section
/-! SUPPORT. One lemma for each field of the state under each named update, so that no proof unfolds a record update. -/

set_option Elab.async false

namespace Sys2Proof.Machine

/-! ### The fields of the module -/

/-! #### `State.setTile` -/

@[simp] theorem State.setTile_cur (s : State) (t : TileIx) (x : Tile) : (s.setTile t x).cur = s.cur := rfl
@[simp] theorem State.setTile_clusters (s : State) (t : TileIx) (x : Tile) : (s.setTile t x).clusters = s.clusters := rfl
@[simp] theorem State.setTile_dies (s : State) (t : TileIx) (x : Tile) : (s.setTile t x).dies = s.dies := rfl
@[simp] theorem State.setTile_ctxs (s : State) (t : TileIx) (x : Tile) : (s.setTile t x).ctxs = s.ctxs := rfl
@[simp] theorem State.setTile_gm (s : State) (t : TileIx) (x : Tile) : (s.setTile t x).gm = s.gm := rfl
@[simp] theorem State.setTile_gmPoison (s : State) (t : TileIx) (x : Tile) : (s.setTile t x).gmPoison = s.gmPoison := rfl
@[simp] theorem State.setTile_reports (s : State) (t : TileIx) (x : Tile) : (s.setTile t x).reports = s.reports := rfl
@[simp] theorem State.setTile_copies (s : State) (t : TileIx) (x : Tile) : (s.setTile t x).copies = s.copies := rfl
@[simp] theorem State.setTile_host (s : State) (t : TileIx) (x : Tile) : (s.setTile t x).host = s.host := rfl
@[simp] theorem State.setTile_time (s : State) (t : TileIx) (x : Tile) : (s.setTile t x).time = s.time := rfl
@[simp] theorem State.setTile_spawns (s : State) (t : TileIx) (x : Tile) : (s.setTile t x).spawns = s.spawns := rfl
@[simp] theorem State.setTile_ends (s : State) (t : TileIx) (x : Tile) : (s.setTile t x).ends = s.ends := rfl
@[simp] theorem State.setTile_kills (s : State) (t : TileIx) (x : Tile) : (s.setTile t x).kills = s.kills := rfl
@[simp] theorem State.setTile_nextMsg (s : State) (t : TileIx) (x : Tile) : (s.setTile t x).nextMsg = s.nextMsg := rfl
@[simp] theorem State.setTile_nextTask (s : State) (t : TileIx) (x : Tile) : (s.setTile t x).nextTask = s.nextTask := rfl
@[simp] theorem State.setTile_nextOrder (s : State) (t : TileIx) (x : Tile) : (s.setTile t x).nextOrder = s.nextOrder := rfl
@[simp] theorem State.setTile_port (s : State) (t : TileIx) (x : Tile) : (s.setTile t x).port = s.port := rfl
@[simp] theorem State.setTile_settings (s : State) (t : TileIx) (x : Tile) : (s.setTile t x).settings = s.settings := rfl
@[simp] theorem State.setTile_phase (s : State) (t : TileIx) (x : Tile) : (s.setTile t x).phase = s.phase := rfl
@[simp] theorem State.setTile_freeCount (s : State) (t : TileIx) (x : Tile) : (s.setTile t x).freeCount = s.freeCount := rfl
@[simp] theorem State.setTile_frames (s : State) (t : TileIx) (x : Tile) : (s.setTile t x).frames = s.frames := rfl
@[simp] theorem State.setTile_ctlDue (s : State) (t : TileIx) (x : Tile) : (s.setTile t x).ctlDue = s.ctlDue := rfl
@[simp] theorem State.setTile_schedule (s : State) (t : TileIx) (x : Tile) : (s.setTile t x).schedule = s.schedule := rfl

/-! #### `State.modTile` -/

@[simp] theorem State.modTile_cur (s : State) (t : TileIx) (f : Tile → Tile) : (s.modTile t f).cur = s.cur := rfl
@[simp] theorem State.modTile_clusters (s : State) (t : TileIx) (f : Tile → Tile) : (s.modTile t f).clusters = s.clusters := rfl
@[simp] theorem State.modTile_dies (s : State) (t : TileIx) (f : Tile → Tile) : (s.modTile t f).dies = s.dies := rfl
@[simp] theorem State.modTile_ctxs (s : State) (t : TileIx) (f : Tile → Tile) : (s.modTile t f).ctxs = s.ctxs := rfl
@[simp] theorem State.modTile_gm (s : State) (t : TileIx) (f : Tile → Tile) : (s.modTile t f).gm = s.gm := rfl
@[simp] theorem State.modTile_gmPoison (s : State) (t : TileIx) (f : Tile → Tile) : (s.modTile t f).gmPoison = s.gmPoison := rfl
@[simp] theorem State.modTile_reports (s : State) (t : TileIx) (f : Tile → Tile) : (s.modTile t f).reports = s.reports := rfl
@[simp] theorem State.modTile_copies (s : State) (t : TileIx) (f : Tile → Tile) : (s.modTile t f).copies = s.copies := rfl
@[simp] theorem State.modTile_host (s : State) (t : TileIx) (f : Tile → Tile) : (s.modTile t f).host = s.host := rfl
@[simp] theorem State.modTile_time (s : State) (t : TileIx) (f : Tile → Tile) : (s.modTile t f).time = s.time := rfl
@[simp] theorem State.modTile_spawns (s : State) (t : TileIx) (f : Tile → Tile) : (s.modTile t f).spawns = s.spawns := rfl
@[simp] theorem State.modTile_ends (s : State) (t : TileIx) (f : Tile → Tile) : (s.modTile t f).ends = s.ends := rfl
@[simp] theorem State.modTile_kills (s : State) (t : TileIx) (f : Tile → Tile) : (s.modTile t f).kills = s.kills := rfl
@[simp] theorem State.modTile_nextMsg (s : State) (t : TileIx) (f : Tile → Tile) : (s.modTile t f).nextMsg = s.nextMsg := rfl
@[simp] theorem State.modTile_nextTask (s : State) (t : TileIx) (f : Tile → Tile) : (s.modTile t f).nextTask = s.nextTask := rfl
@[simp] theorem State.modTile_nextOrder (s : State) (t : TileIx) (f : Tile → Tile) : (s.modTile t f).nextOrder = s.nextOrder := rfl
@[simp] theorem State.modTile_port (s : State) (t : TileIx) (f : Tile → Tile) : (s.modTile t f).port = s.port := rfl
@[simp] theorem State.modTile_settings (s : State) (t : TileIx) (f : Tile → Tile) : (s.modTile t f).settings = s.settings := rfl
@[simp] theorem State.modTile_phase (s : State) (t : TileIx) (f : Tile → Tile) : (s.modTile t f).phase = s.phase := rfl
@[simp] theorem State.modTile_freeCount (s : State) (t : TileIx) (f : Tile → Tile) : (s.modTile t f).freeCount = s.freeCount := rfl
@[simp] theorem State.modTile_frames (s : State) (t : TileIx) (f : Tile → Tile) : (s.modTile t f).frames = s.frames := rfl
@[simp] theorem State.modTile_ctlDue (s : State) (t : TileIx) (f : Tile → Tile) : (s.modTile t f).ctlDue = s.ctlDue := rfl
@[simp] theorem State.modTile_schedule (s : State) (t : TileIx) (f : Tile → Tile) : (s.modTile t f).schedule = s.schedule := rfl

/-! #### `State.modT` -/

@[simp] theorem State.modT_cur (s : State) (f : Tile → Tile) : (s.modT f).cur = s.cur := rfl
@[simp] theorem State.modT_clusters (s : State) (f : Tile → Tile) : (s.modT f).clusters = s.clusters := rfl
@[simp] theorem State.modT_dies (s : State) (f : Tile → Tile) : (s.modT f).dies = s.dies := rfl
@[simp] theorem State.modT_ctxs (s : State) (f : Tile → Tile) : (s.modT f).ctxs = s.ctxs := rfl
@[simp] theorem State.modT_gm (s : State) (f : Tile → Tile) : (s.modT f).gm = s.gm := rfl
@[simp] theorem State.modT_gmPoison (s : State) (f : Tile → Tile) : (s.modT f).gmPoison = s.gmPoison := rfl
@[simp] theorem State.modT_reports (s : State) (f : Tile → Tile) : (s.modT f).reports = s.reports := rfl
@[simp] theorem State.modT_copies (s : State) (f : Tile → Tile) : (s.modT f).copies = s.copies := rfl
@[simp] theorem State.modT_host (s : State) (f : Tile → Tile) : (s.modT f).host = s.host := rfl
@[simp] theorem State.modT_time (s : State) (f : Tile → Tile) : (s.modT f).time = s.time := rfl
@[simp] theorem State.modT_spawns (s : State) (f : Tile → Tile) : (s.modT f).spawns = s.spawns := rfl
@[simp] theorem State.modT_ends (s : State) (f : Tile → Tile) : (s.modT f).ends = s.ends := rfl
@[simp] theorem State.modT_kills (s : State) (f : Tile → Tile) : (s.modT f).kills = s.kills := rfl
@[simp] theorem State.modT_nextMsg (s : State) (f : Tile → Tile) : (s.modT f).nextMsg = s.nextMsg := rfl
@[simp] theorem State.modT_nextTask (s : State) (f : Tile → Tile) : (s.modT f).nextTask = s.nextTask := rfl
@[simp] theorem State.modT_nextOrder (s : State) (f : Tile → Tile) : (s.modT f).nextOrder = s.nextOrder := rfl
@[simp] theorem State.modT_port (s : State) (f : Tile → Tile) : (s.modT f).port = s.port := rfl
@[simp] theorem State.modT_settings (s : State) (f : Tile → Tile) : (s.modT f).settings = s.settings := rfl
@[simp] theorem State.modT_phase (s : State) (f : Tile → Tile) : (s.modT f).phase = s.phase := rfl
@[simp] theorem State.modT_freeCount (s : State) (f : Tile → Tile) : (s.modT f).freeCount = s.freeCount := rfl
@[simp] theorem State.modT_frames (s : State) (f : Tile → Tile) : (s.modT f).frames = s.frames := rfl
@[simp] theorem State.modT_ctlDue (s : State) (f : Tile → Tile) : (s.modT f).ctlDue = s.ctlDue := rfl
@[simp] theorem State.modT_schedule (s : State) (f : Tile → Tile) : (s.modT f).schedule = s.schedule := rfl

/-! #### `State.modRegs` -/

@[simp] theorem State.modRegs_cur (s : State) (f : Regs → Regs) : (s.modRegs f).cur = s.cur := rfl
@[simp] theorem State.modRegs_clusters (s : State) (f : Regs → Regs) : (s.modRegs f).clusters = s.clusters := rfl
@[simp] theorem State.modRegs_dies (s : State) (f : Regs → Regs) : (s.modRegs f).dies = s.dies := rfl
@[simp] theorem State.modRegs_ctxs (s : State) (f : Regs → Regs) : (s.modRegs f).ctxs = s.ctxs := rfl
@[simp] theorem State.modRegs_gm (s : State) (f : Regs → Regs) : (s.modRegs f).gm = s.gm := rfl
@[simp] theorem State.modRegs_gmPoison (s : State) (f : Regs → Regs) : (s.modRegs f).gmPoison = s.gmPoison := rfl
@[simp] theorem State.modRegs_reports (s : State) (f : Regs → Regs) : (s.modRegs f).reports = s.reports := rfl
@[simp] theorem State.modRegs_copies (s : State) (f : Regs → Regs) : (s.modRegs f).copies = s.copies := rfl
@[simp] theorem State.modRegs_host (s : State) (f : Regs → Regs) : (s.modRegs f).host = s.host := rfl
@[simp] theorem State.modRegs_time (s : State) (f : Regs → Regs) : (s.modRegs f).time = s.time := rfl
@[simp] theorem State.modRegs_spawns (s : State) (f : Regs → Regs) : (s.modRegs f).spawns = s.spawns := rfl
@[simp] theorem State.modRegs_ends (s : State) (f : Regs → Regs) : (s.modRegs f).ends = s.ends := rfl
@[simp] theorem State.modRegs_kills (s : State) (f : Regs → Regs) : (s.modRegs f).kills = s.kills := rfl
@[simp] theorem State.modRegs_nextMsg (s : State) (f : Regs → Regs) : (s.modRegs f).nextMsg = s.nextMsg := rfl
@[simp] theorem State.modRegs_nextTask (s : State) (f : Regs → Regs) : (s.modRegs f).nextTask = s.nextTask := rfl
@[simp] theorem State.modRegs_nextOrder (s : State) (f : Regs → Regs) : (s.modRegs f).nextOrder = s.nextOrder := rfl
@[simp] theorem State.modRegs_port (s : State) (f : Regs → Regs) : (s.modRegs f).port = s.port := rfl
@[simp] theorem State.modRegs_settings (s : State) (f : Regs → Regs) : (s.modRegs f).settings = s.settings := rfl
@[simp] theorem State.modRegs_phase (s : State) (f : Regs → Regs) : (s.modRegs f).phase = s.phase := rfl
@[simp] theorem State.modRegs_freeCount (s : State) (f : Regs → Regs) : (s.modRegs f).freeCount = s.freeCount := rfl
@[simp] theorem State.modRegs_frames (s : State) (f : Regs → Regs) : (s.modRegs f).frames = s.frames := rfl
@[simp] theorem State.modRegs_ctlDue (s : State) (f : Regs → Regs) : (s.modRegs f).ctlDue = s.ctlDue := rfl
@[simp] theorem State.modRegs_schedule (s : State) (f : Regs → Regs) : (s.modRegs f).schedule = s.schedule := rfl

/-! #### `State.modCtl` -/

@[simp] theorem State.modCtl_cur (s : State) (f : Ctl → Ctl) : (s.modCtl f).cur = s.cur := rfl
@[simp] theorem State.modCtl_clusters (s : State) (f : Ctl → Ctl) : (s.modCtl f).clusters = s.clusters := rfl
@[simp] theorem State.modCtl_dies (s : State) (f : Ctl → Ctl) : (s.modCtl f).dies = s.dies := rfl
@[simp] theorem State.modCtl_ctxs (s : State) (f : Ctl → Ctl) : (s.modCtl f).ctxs = s.ctxs := rfl
@[simp] theorem State.modCtl_gm (s : State) (f : Ctl → Ctl) : (s.modCtl f).gm = s.gm := rfl
@[simp] theorem State.modCtl_gmPoison (s : State) (f : Ctl → Ctl) : (s.modCtl f).gmPoison = s.gmPoison := rfl
@[simp] theorem State.modCtl_reports (s : State) (f : Ctl → Ctl) : (s.modCtl f).reports = s.reports := rfl
@[simp] theorem State.modCtl_copies (s : State) (f : Ctl → Ctl) : (s.modCtl f).copies = s.copies := rfl
@[simp] theorem State.modCtl_host (s : State) (f : Ctl → Ctl) : (s.modCtl f).host = s.host := rfl
@[simp] theorem State.modCtl_time (s : State) (f : Ctl → Ctl) : (s.modCtl f).time = s.time := rfl
@[simp] theorem State.modCtl_spawns (s : State) (f : Ctl → Ctl) : (s.modCtl f).spawns = s.spawns := rfl
@[simp] theorem State.modCtl_ends (s : State) (f : Ctl → Ctl) : (s.modCtl f).ends = s.ends := rfl
@[simp] theorem State.modCtl_kills (s : State) (f : Ctl → Ctl) : (s.modCtl f).kills = s.kills := rfl
@[simp] theorem State.modCtl_nextMsg (s : State) (f : Ctl → Ctl) : (s.modCtl f).nextMsg = s.nextMsg := rfl
@[simp] theorem State.modCtl_nextTask (s : State) (f : Ctl → Ctl) : (s.modCtl f).nextTask = s.nextTask := rfl
@[simp] theorem State.modCtl_nextOrder (s : State) (f : Ctl → Ctl) : (s.modCtl f).nextOrder = s.nextOrder := rfl
@[simp] theorem State.modCtl_port (s : State) (f : Ctl → Ctl) : (s.modCtl f).port = s.port := rfl
@[simp] theorem State.modCtl_settings (s : State) (f : Ctl → Ctl) : (s.modCtl f).settings = s.settings := rfl
@[simp] theorem State.modCtl_phase (s : State) (f : Ctl → Ctl) : (s.modCtl f).phase = s.phase := rfl
@[simp] theorem State.modCtl_freeCount (s : State) (f : Ctl → Ctl) : (s.modCtl f).freeCount = s.freeCount := rfl
@[simp] theorem State.modCtl_frames (s : State) (f : Ctl → Ctl) : (s.modCtl f).frames = s.frames := rfl
@[simp] theorem State.modCtl_ctlDue (s : State) (f : Ctl → Ctl) : (s.modCtl f).ctlDue = s.ctlDue := rfl
@[simp] theorem State.modCtl_schedule (s : State) (f : Ctl → Ctl) : (s.modCtl f).schedule = s.schedule := rfl

/-! #### `State.modIssue` -/

@[simp] theorem State.modIssue_cur (s : State) (f : Issue → Issue) : (s.modIssue f).cur = s.cur := rfl
@[simp] theorem State.modIssue_clusters (s : State) (f : Issue → Issue) : (s.modIssue f).clusters = s.clusters := rfl
@[simp] theorem State.modIssue_dies (s : State) (f : Issue → Issue) : (s.modIssue f).dies = s.dies := rfl
@[simp] theorem State.modIssue_ctxs (s : State) (f : Issue → Issue) : (s.modIssue f).ctxs = s.ctxs := rfl
@[simp] theorem State.modIssue_gm (s : State) (f : Issue → Issue) : (s.modIssue f).gm = s.gm := rfl
@[simp] theorem State.modIssue_gmPoison (s : State) (f : Issue → Issue) : (s.modIssue f).gmPoison = s.gmPoison := rfl
@[simp] theorem State.modIssue_reports (s : State) (f : Issue → Issue) : (s.modIssue f).reports = s.reports := rfl
@[simp] theorem State.modIssue_copies (s : State) (f : Issue → Issue) : (s.modIssue f).copies = s.copies := rfl
@[simp] theorem State.modIssue_host (s : State) (f : Issue → Issue) : (s.modIssue f).host = s.host := rfl
@[simp] theorem State.modIssue_time (s : State) (f : Issue → Issue) : (s.modIssue f).time = s.time := rfl
@[simp] theorem State.modIssue_spawns (s : State) (f : Issue → Issue) : (s.modIssue f).spawns = s.spawns := rfl
@[simp] theorem State.modIssue_ends (s : State) (f : Issue → Issue) : (s.modIssue f).ends = s.ends := rfl
@[simp] theorem State.modIssue_kills (s : State) (f : Issue → Issue) : (s.modIssue f).kills = s.kills := rfl
@[simp] theorem State.modIssue_nextMsg (s : State) (f : Issue → Issue) : (s.modIssue f).nextMsg = s.nextMsg := rfl
@[simp] theorem State.modIssue_nextTask (s : State) (f : Issue → Issue) : (s.modIssue f).nextTask = s.nextTask := rfl
@[simp] theorem State.modIssue_nextOrder (s : State) (f : Issue → Issue) : (s.modIssue f).nextOrder = s.nextOrder := rfl
@[simp] theorem State.modIssue_port (s : State) (f : Issue → Issue) : (s.modIssue f).port = s.port := rfl
@[simp] theorem State.modIssue_settings (s : State) (f : Issue → Issue) : (s.modIssue f).settings = s.settings := rfl
@[simp] theorem State.modIssue_phase (s : State) (f : Issue → Issue) : (s.modIssue f).phase = s.phase := rfl
@[simp] theorem State.modIssue_freeCount (s : State) (f : Issue → Issue) : (s.modIssue f).freeCount = s.freeCount := rfl
@[simp] theorem State.modIssue_frames (s : State) (f : Issue → Issue) : (s.modIssue f).frames = s.frames := rfl
@[simp] theorem State.modIssue_ctlDue (s : State) (f : Issue → Issue) : (s.modIssue f).ctlDue = s.ctlDue := rfl
@[simp] theorem State.modIssue_schedule (s : State) (f : Issue → Issue) : (s.modIssue f).schedule = s.schedule := rfl

/-! #### `State.modRun` -/

@[simp] theorem State.modRun_cur (s : State) (t : TileIx) (f : Running → Running) : (s.modRun t f).cur = s.cur := rfl
@[simp] theorem State.modRun_clusters (s : State) (t : TileIx) (f : Running → Running) : (s.modRun t f).clusters = s.clusters := rfl
@[simp] theorem State.modRun_dies (s : State) (t : TileIx) (f : Running → Running) : (s.modRun t f).dies = s.dies := rfl
@[simp] theorem State.modRun_ctxs (s : State) (t : TileIx) (f : Running → Running) : (s.modRun t f).ctxs = s.ctxs := rfl
@[simp] theorem State.modRun_gm (s : State) (t : TileIx) (f : Running → Running) : (s.modRun t f).gm = s.gm := rfl
@[simp] theorem State.modRun_gmPoison (s : State) (t : TileIx) (f : Running → Running) : (s.modRun t f).gmPoison = s.gmPoison := rfl
@[simp] theorem State.modRun_reports (s : State) (t : TileIx) (f : Running → Running) : (s.modRun t f).reports = s.reports := rfl
@[simp] theorem State.modRun_copies (s : State) (t : TileIx) (f : Running → Running) : (s.modRun t f).copies = s.copies := rfl
@[simp] theorem State.modRun_host (s : State) (t : TileIx) (f : Running → Running) : (s.modRun t f).host = s.host := rfl
@[simp] theorem State.modRun_time (s : State) (t : TileIx) (f : Running → Running) : (s.modRun t f).time = s.time := rfl
@[simp] theorem State.modRun_spawns (s : State) (t : TileIx) (f : Running → Running) : (s.modRun t f).spawns = s.spawns := rfl
@[simp] theorem State.modRun_ends (s : State) (t : TileIx) (f : Running → Running) : (s.modRun t f).ends = s.ends := rfl
@[simp] theorem State.modRun_kills (s : State) (t : TileIx) (f : Running → Running) : (s.modRun t f).kills = s.kills := rfl
@[simp] theorem State.modRun_nextMsg (s : State) (t : TileIx) (f : Running → Running) : (s.modRun t f).nextMsg = s.nextMsg := rfl
@[simp] theorem State.modRun_nextTask (s : State) (t : TileIx) (f : Running → Running) : (s.modRun t f).nextTask = s.nextTask := rfl
@[simp] theorem State.modRun_nextOrder (s : State) (t : TileIx) (f : Running → Running) : (s.modRun t f).nextOrder = s.nextOrder := rfl
@[simp] theorem State.modRun_port (s : State) (t : TileIx) (f : Running → Running) : (s.modRun t f).port = s.port := rfl
@[simp] theorem State.modRun_settings (s : State) (t : TileIx) (f : Running → Running) : (s.modRun t f).settings = s.settings := rfl
@[simp] theorem State.modRun_phase (s : State) (t : TileIx) (f : Running → Running) : (s.modRun t f).phase = s.phase := rfl
@[simp] theorem State.modRun_freeCount (s : State) (t : TileIx) (f : Running → Running) : (s.modRun t f).freeCount = s.freeCount := rfl
@[simp] theorem State.modRun_frames (s : State) (t : TileIx) (f : Running → Running) : (s.modRun t f).frames = s.frames := rfl
@[simp] theorem State.modRun_ctlDue (s : State) (t : TileIx) (f : Running → Running) : (s.modRun t f).ctlDue = s.ctlDue := rfl
@[simp] theorem State.modRun_schedule (s : State) (t : TileIx) (f : Running → Running) : (s.modRun t f).schedule = s.schedule := rfl

/-! #### `State.modCtlOf` -/

@[simp] theorem State.modCtlOf_cur (s : State) (t : TileIx) (f : Ctl → Ctl) : (s.modCtlOf t f).cur = s.cur := rfl
@[simp] theorem State.modCtlOf_clusters (s : State) (t : TileIx) (f : Ctl → Ctl) : (s.modCtlOf t f).clusters = s.clusters := rfl
@[simp] theorem State.modCtlOf_dies (s : State) (t : TileIx) (f : Ctl → Ctl) : (s.modCtlOf t f).dies = s.dies := rfl
@[simp] theorem State.modCtlOf_ctxs (s : State) (t : TileIx) (f : Ctl → Ctl) : (s.modCtlOf t f).ctxs = s.ctxs := rfl
@[simp] theorem State.modCtlOf_gm (s : State) (t : TileIx) (f : Ctl → Ctl) : (s.modCtlOf t f).gm = s.gm := rfl
@[simp] theorem State.modCtlOf_gmPoison (s : State) (t : TileIx) (f : Ctl → Ctl) : (s.modCtlOf t f).gmPoison = s.gmPoison := rfl
@[simp] theorem State.modCtlOf_reports (s : State) (t : TileIx) (f : Ctl → Ctl) : (s.modCtlOf t f).reports = s.reports := rfl
@[simp] theorem State.modCtlOf_copies (s : State) (t : TileIx) (f : Ctl → Ctl) : (s.modCtlOf t f).copies = s.copies := rfl
@[simp] theorem State.modCtlOf_host (s : State) (t : TileIx) (f : Ctl → Ctl) : (s.modCtlOf t f).host = s.host := rfl
@[simp] theorem State.modCtlOf_time (s : State) (t : TileIx) (f : Ctl → Ctl) : (s.modCtlOf t f).time = s.time := rfl
@[simp] theorem State.modCtlOf_spawns (s : State) (t : TileIx) (f : Ctl → Ctl) : (s.modCtlOf t f).spawns = s.spawns := rfl
@[simp] theorem State.modCtlOf_ends (s : State) (t : TileIx) (f : Ctl → Ctl) : (s.modCtlOf t f).ends = s.ends := rfl
@[simp] theorem State.modCtlOf_kills (s : State) (t : TileIx) (f : Ctl → Ctl) : (s.modCtlOf t f).kills = s.kills := rfl
@[simp] theorem State.modCtlOf_nextMsg (s : State) (t : TileIx) (f : Ctl → Ctl) : (s.modCtlOf t f).nextMsg = s.nextMsg := rfl
@[simp] theorem State.modCtlOf_nextTask (s : State) (t : TileIx) (f : Ctl → Ctl) : (s.modCtlOf t f).nextTask = s.nextTask := rfl
@[simp] theorem State.modCtlOf_nextOrder (s : State) (t : TileIx) (f : Ctl → Ctl) : (s.modCtlOf t f).nextOrder = s.nextOrder := rfl
@[simp] theorem State.modCtlOf_port (s : State) (t : TileIx) (f : Ctl → Ctl) : (s.modCtlOf t f).port = s.port := rfl
@[simp] theorem State.modCtlOf_settings (s : State) (t : TileIx) (f : Ctl → Ctl) : (s.modCtlOf t f).settings = s.settings := rfl
@[simp] theorem State.modCtlOf_phase (s : State) (t : TileIx) (f : Ctl → Ctl) : (s.modCtlOf t f).phase = s.phase := rfl
@[simp] theorem State.modCtlOf_freeCount (s : State) (t : TileIx) (f : Ctl → Ctl) : (s.modCtlOf t f).freeCount = s.freeCount := rfl
@[simp] theorem State.modCtlOf_frames (s : State) (t : TileIx) (f : Ctl → Ctl) : (s.modCtlOf t f).frames = s.frames := rfl
@[simp] theorem State.modCtlOf_ctlDue (s : State) (t : TileIx) (f : Ctl → Ctl) : (s.modCtlOf t f).ctlDue = s.ctlDue := rfl
@[simp] theorem State.modCtlOf_schedule (s : State) (t : TileIx) (f : Ctl → Ctl) : (s.modCtlOf t f).schedule = s.schedule := rfl

/-! #### `State.wrS` -/

@[simp] theorem State.wrS_cur (s : State) (d : SReg) (x : Word) : (s.wrS d x).cur = s.cur := rfl
@[simp] theorem State.wrS_clusters (s : State) (d : SReg) (x : Word) : (s.wrS d x).clusters = s.clusters := rfl
@[simp] theorem State.wrS_dies (s : State) (d : SReg) (x : Word) : (s.wrS d x).dies = s.dies := rfl
@[simp] theorem State.wrS_ctxs (s : State) (d : SReg) (x : Word) : (s.wrS d x).ctxs = s.ctxs := rfl
@[simp] theorem State.wrS_gm (s : State) (d : SReg) (x : Word) : (s.wrS d x).gm = s.gm := rfl
@[simp] theorem State.wrS_gmPoison (s : State) (d : SReg) (x : Word) : (s.wrS d x).gmPoison = s.gmPoison := rfl
@[simp] theorem State.wrS_reports (s : State) (d : SReg) (x : Word) : (s.wrS d x).reports = s.reports := rfl
@[simp] theorem State.wrS_copies (s : State) (d : SReg) (x : Word) : (s.wrS d x).copies = s.copies := rfl
@[simp] theorem State.wrS_host (s : State) (d : SReg) (x : Word) : (s.wrS d x).host = s.host := rfl
@[simp] theorem State.wrS_time (s : State) (d : SReg) (x : Word) : (s.wrS d x).time = s.time := rfl
@[simp] theorem State.wrS_spawns (s : State) (d : SReg) (x : Word) : (s.wrS d x).spawns = s.spawns := rfl
@[simp] theorem State.wrS_ends (s : State) (d : SReg) (x : Word) : (s.wrS d x).ends = s.ends := rfl
@[simp] theorem State.wrS_kills (s : State) (d : SReg) (x : Word) : (s.wrS d x).kills = s.kills := rfl
@[simp] theorem State.wrS_nextMsg (s : State) (d : SReg) (x : Word) : (s.wrS d x).nextMsg = s.nextMsg := rfl
@[simp] theorem State.wrS_nextTask (s : State) (d : SReg) (x : Word) : (s.wrS d x).nextTask = s.nextTask := rfl
@[simp] theorem State.wrS_nextOrder (s : State) (d : SReg) (x : Word) : (s.wrS d x).nextOrder = s.nextOrder := rfl
@[simp] theorem State.wrS_port (s : State) (d : SReg) (x : Word) : (s.wrS d x).port = s.port := rfl
@[simp] theorem State.wrS_settings (s : State) (d : SReg) (x : Word) : (s.wrS d x).settings = s.settings := rfl
@[simp] theorem State.wrS_phase (s : State) (d : SReg) (x : Word) : (s.wrS d x).phase = s.phase := rfl
@[simp] theorem State.wrS_freeCount (s : State) (d : SReg) (x : Word) : (s.wrS d x).freeCount = s.freeCount := rfl
@[simp] theorem State.wrS_frames (s : State) (d : SReg) (x : Word) : (s.wrS d x).frames = s.frames := rfl
@[simp] theorem State.wrS_ctlDue (s : State) (d : SReg) (x : Word) : (s.wrS d x).ctlDue = s.ctlDue := rfl
@[simp] theorem State.wrS_schedule (s : State) (d : SReg) (x : Word) : (s.wrS d x).schedule = s.schedule := rfl

/-! #### `State.wrP` -/

@[simp] theorem State.wrP_cur (s : State) (d : PReg) (x : Bool) : (s.wrP d x).cur = s.cur := rfl
@[simp] theorem State.wrP_clusters (s : State) (d : PReg) (x : Bool) : (s.wrP d x).clusters = s.clusters := rfl
@[simp] theorem State.wrP_dies (s : State) (d : PReg) (x : Bool) : (s.wrP d x).dies = s.dies := rfl
@[simp] theorem State.wrP_ctxs (s : State) (d : PReg) (x : Bool) : (s.wrP d x).ctxs = s.ctxs := rfl
@[simp] theorem State.wrP_gm (s : State) (d : PReg) (x : Bool) : (s.wrP d x).gm = s.gm := rfl
@[simp] theorem State.wrP_gmPoison (s : State) (d : PReg) (x : Bool) : (s.wrP d x).gmPoison = s.gmPoison := rfl
@[simp] theorem State.wrP_reports (s : State) (d : PReg) (x : Bool) : (s.wrP d x).reports = s.reports := rfl
@[simp] theorem State.wrP_copies (s : State) (d : PReg) (x : Bool) : (s.wrP d x).copies = s.copies := rfl
@[simp] theorem State.wrP_host (s : State) (d : PReg) (x : Bool) : (s.wrP d x).host = s.host := rfl
@[simp] theorem State.wrP_time (s : State) (d : PReg) (x : Bool) : (s.wrP d x).time = s.time := rfl
@[simp] theorem State.wrP_spawns (s : State) (d : PReg) (x : Bool) : (s.wrP d x).spawns = s.spawns := rfl
@[simp] theorem State.wrP_ends (s : State) (d : PReg) (x : Bool) : (s.wrP d x).ends = s.ends := rfl
@[simp] theorem State.wrP_kills (s : State) (d : PReg) (x : Bool) : (s.wrP d x).kills = s.kills := rfl
@[simp] theorem State.wrP_nextMsg (s : State) (d : PReg) (x : Bool) : (s.wrP d x).nextMsg = s.nextMsg := rfl
@[simp] theorem State.wrP_nextTask (s : State) (d : PReg) (x : Bool) : (s.wrP d x).nextTask = s.nextTask := rfl
@[simp] theorem State.wrP_nextOrder (s : State) (d : PReg) (x : Bool) : (s.wrP d x).nextOrder = s.nextOrder := rfl
@[simp] theorem State.wrP_port (s : State) (d : PReg) (x : Bool) : (s.wrP d x).port = s.port := rfl
@[simp] theorem State.wrP_settings (s : State) (d : PReg) (x : Bool) : (s.wrP d x).settings = s.settings := rfl
@[simp] theorem State.wrP_phase (s : State) (d : PReg) (x : Bool) : (s.wrP d x).phase = s.phase := rfl
@[simp] theorem State.wrP_freeCount (s : State) (d : PReg) (x : Bool) : (s.wrP d x).freeCount = s.freeCount := rfl
@[simp] theorem State.wrP_frames (s : State) (d : PReg) (x : Bool) : (s.wrP d x).frames = s.frames := rfl
@[simp] theorem State.wrP_ctlDue (s : State) (d : PReg) (x : Bool) : (s.wrP d x).ctlDue = s.ctlDue := rfl
@[simp] theorem State.wrP_schedule (s : State) (d : PReg) (x : Bool) : (s.wrP d x).schedule = s.schedule := rfl

/-! #### `State.wrV` -/

@[simp] theorem State.wrV_cur (s : State) (d : VReg) (x : VWord) : (s.wrV d x).cur = s.cur := rfl
@[simp] theorem State.wrV_clusters (s : State) (d : VReg) (x : VWord) : (s.wrV d x).clusters = s.clusters := rfl
@[simp] theorem State.wrV_dies (s : State) (d : VReg) (x : VWord) : (s.wrV d x).dies = s.dies := rfl
@[simp] theorem State.wrV_ctxs (s : State) (d : VReg) (x : VWord) : (s.wrV d x).ctxs = s.ctxs := rfl
@[simp] theorem State.wrV_gm (s : State) (d : VReg) (x : VWord) : (s.wrV d x).gm = s.gm := rfl
@[simp] theorem State.wrV_gmPoison (s : State) (d : VReg) (x : VWord) : (s.wrV d x).gmPoison = s.gmPoison := rfl
@[simp] theorem State.wrV_reports (s : State) (d : VReg) (x : VWord) : (s.wrV d x).reports = s.reports := rfl
@[simp] theorem State.wrV_copies (s : State) (d : VReg) (x : VWord) : (s.wrV d x).copies = s.copies := rfl
@[simp] theorem State.wrV_host (s : State) (d : VReg) (x : VWord) : (s.wrV d x).host = s.host := rfl
@[simp] theorem State.wrV_time (s : State) (d : VReg) (x : VWord) : (s.wrV d x).time = s.time := rfl
@[simp] theorem State.wrV_spawns (s : State) (d : VReg) (x : VWord) : (s.wrV d x).spawns = s.spawns := rfl
@[simp] theorem State.wrV_ends (s : State) (d : VReg) (x : VWord) : (s.wrV d x).ends = s.ends := rfl
@[simp] theorem State.wrV_kills (s : State) (d : VReg) (x : VWord) : (s.wrV d x).kills = s.kills := rfl
@[simp] theorem State.wrV_nextMsg (s : State) (d : VReg) (x : VWord) : (s.wrV d x).nextMsg = s.nextMsg := rfl
@[simp] theorem State.wrV_nextTask (s : State) (d : VReg) (x : VWord) : (s.wrV d x).nextTask = s.nextTask := rfl
@[simp] theorem State.wrV_nextOrder (s : State) (d : VReg) (x : VWord) : (s.wrV d x).nextOrder = s.nextOrder := rfl
@[simp] theorem State.wrV_port (s : State) (d : VReg) (x : VWord) : (s.wrV d x).port = s.port := rfl
@[simp] theorem State.wrV_settings (s : State) (d : VReg) (x : VWord) : (s.wrV d x).settings = s.settings := rfl
@[simp] theorem State.wrV_phase (s : State) (d : VReg) (x : VWord) : (s.wrV d x).phase = s.phase := rfl
@[simp] theorem State.wrV_freeCount (s : State) (d : VReg) (x : VWord) : (s.wrV d x).freeCount = s.freeCount := rfl
@[simp] theorem State.wrV_frames (s : State) (d : VReg) (x : VWord) : (s.wrV d x).frames = s.frames := rfl
@[simp] theorem State.wrV_ctlDue (s : State) (d : VReg) (x : VWord) : (s.wrV d x).ctlDue = s.ctlDue := rfl
@[simp] theorem State.wrV_schedule (s : State) (d : VReg) (x : VWord) : (s.wrV d x).schedule = s.schedule := rfl

/-! #### `State.wrM` -/

@[simp] theorem State.wrM_cur (s : State) (d : MReg) (x : MWord) : (s.wrM d x).cur = s.cur := rfl
@[simp] theorem State.wrM_clusters (s : State) (d : MReg) (x : MWord) : (s.wrM d x).clusters = s.clusters := rfl
@[simp] theorem State.wrM_dies (s : State) (d : MReg) (x : MWord) : (s.wrM d x).dies = s.dies := rfl
@[simp] theorem State.wrM_ctxs (s : State) (d : MReg) (x : MWord) : (s.wrM d x).ctxs = s.ctxs := rfl
@[simp] theorem State.wrM_gm (s : State) (d : MReg) (x : MWord) : (s.wrM d x).gm = s.gm := rfl
@[simp] theorem State.wrM_gmPoison (s : State) (d : MReg) (x : MWord) : (s.wrM d x).gmPoison = s.gmPoison := rfl
@[simp] theorem State.wrM_reports (s : State) (d : MReg) (x : MWord) : (s.wrM d x).reports = s.reports := rfl
@[simp] theorem State.wrM_copies (s : State) (d : MReg) (x : MWord) : (s.wrM d x).copies = s.copies := rfl
@[simp] theorem State.wrM_host (s : State) (d : MReg) (x : MWord) : (s.wrM d x).host = s.host := rfl
@[simp] theorem State.wrM_time (s : State) (d : MReg) (x : MWord) : (s.wrM d x).time = s.time := rfl
@[simp] theorem State.wrM_spawns (s : State) (d : MReg) (x : MWord) : (s.wrM d x).spawns = s.spawns := rfl
@[simp] theorem State.wrM_ends (s : State) (d : MReg) (x : MWord) : (s.wrM d x).ends = s.ends := rfl
@[simp] theorem State.wrM_kills (s : State) (d : MReg) (x : MWord) : (s.wrM d x).kills = s.kills := rfl
@[simp] theorem State.wrM_nextMsg (s : State) (d : MReg) (x : MWord) : (s.wrM d x).nextMsg = s.nextMsg := rfl
@[simp] theorem State.wrM_nextTask (s : State) (d : MReg) (x : MWord) : (s.wrM d x).nextTask = s.nextTask := rfl
@[simp] theorem State.wrM_nextOrder (s : State) (d : MReg) (x : MWord) : (s.wrM d x).nextOrder = s.nextOrder := rfl
@[simp] theorem State.wrM_port (s : State) (d : MReg) (x : MWord) : (s.wrM d x).port = s.port := rfl
@[simp] theorem State.wrM_settings (s : State) (d : MReg) (x : MWord) : (s.wrM d x).settings = s.settings := rfl
@[simp] theorem State.wrM_phase (s : State) (d : MReg) (x : MWord) : (s.wrM d x).phase = s.phase := rfl
@[simp] theorem State.wrM_freeCount (s : State) (d : MReg) (x : MWord) : (s.wrM d x).freeCount = s.freeCount := rfl
@[simp] theorem State.wrM_frames (s : State) (d : MReg) (x : MWord) : (s.wrM d x).frames = s.frames := rfl
@[simp] theorem State.wrM_ctlDue (s : State) (d : MReg) (x : MWord) : (s.wrM d x).ctlDue = s.ctlDue := rfl
@[simp] theorem State.wrM_schedule (s : State) (d : MReg) (x : MWord) : (s.wrM d x).schedule = s.schedule := rfl

/-! #### `State.wrQ` -/

@[simp] theorem State.wrQ_cur (s : State) (d : QReg) (x : RedLatch) : (s.wrQ d x).cur = s.cur := rfl
@[simp] theorem State.wrQ_clusters (s : State) (d : QReg) (x : RedLatch) : (s.wrQ d x).clusters = s.clusters := rfl
@[simp] theorem State.wrQ_dies (s : State) (d : QReg) (x : RedLatch) : (s.wrQ d x).dies = s.dies := rfl
@[simp] theorem State.wrQ_ctxs (s : State) (d : QReg) (x : RedLatch) : (s.wrQ d x).ctxs = s.ctxs := rfl
@[simp] theorem State.wrQ_gm (s : State) (d : QReg) (x : RedLatch) : (s.wrQ d x).gm = s.gm := rfl
@[simp] theorem State.wrQ_gmPoison (s : State) (d : QReg) (x : RedLatch) : (s.wrQ d x).gmPoison = s.gmPoison := rfl
@[simp] theorem State.wrQ_reports (s : State) (d : QReg) (x : RedLatch) : (s.wrQ d x).reports = s.reports := rfl
@[simp] theorem State.wrQ_copies (s : State) (d : QReg) (x : RedLatch) : (s.wrQ d x).copies = s.copies := rfl
@[simp] theorem State.wrQ_host (s : State) (d : QReg) (x : RedLatch) : (s.wrQ d x).host = s.host := rfl
@[simp] theorem State.wrQ_time (s : State) (d : QReg) (x : RedLatch) : (s.wrQ d x).time = s.time := rfl
@[simp] theorem State.wrQ_spawns (s : State) (d : QReg) (x : RedLatch) : (s.wrQ d x).spawns = s.spawns := rfl
@[simp] theorem State.wrQ_ends (s : State) (d : QReg) (x : RedLatch) : (s.wrQ d x).ends = s.ends := rfl
@[simp] theorem State.wrQ_kills (s : State) (d : QReg) (x : RedLatch) : (s.wrQ d x).kills = s.kills := rfl
@[simp] theorem State.wrQ_nextMsg (s : State) (d : QReg) (x : RedLatch) : (s.wrQ d x).nextMsg = s.nextMsg := rfl
@[simp] theorem State.wrQ_nextTask (s : State) (d : QReg) (x : RedLatch) : (s.wrQ d x).nextTask = s.nextTask := rfl
@[simp] theorem State.wrQ_nextOrder (s : State) (d : QReg) (x : RedLatch) : (s.wrQ d x).nextOrder = s.nextOrder := rfl
@[simp] theorem State.wrQ_port (s : State) (d : QReg) (x : RedLatch) : (s.wrQ d x).port = s.port := rfl
@[simp] theorem State.wrQ_settings (s : State) (d : QReg) (x : RedLatch) : (s.wrQ d x).settings = s.settings := rfl
@[simp] theorem State.wrQ_phase (s : State) (d : QReg) (x : RedLatch) : (s.wrQ d x).phase = s.phase := rfl
@[simp] theorem State.wrQ_freeCount (s : State) (d : QReg) (x : RedLatch) : (s.wrQ d x).freeCount = s.freeCount := rfl
@[simp] theorem State.wrQ_frames (s : State) (d : QReg) (x : RedLatch) : (s.wrQ d x).frames = s.frames := rfl
@[simp] theorem State.wrQ_ctlDue (s : State) (d : QReg) (x : RedLatch) : (s.wrQ d x).ctlDue = s.ctlDue := rfl
@[simp] theorem State.wrQ_schedule (s : State) (d : QReg) (x : RedLatch) : (s.wrQ d x).schedule = s.schedule := rfl

/-! #### `State.wrD` -/

@[simp] theorem State.wrD_cur (s : State) (d : DReg) (x : Desc) : (s.wrD d x).cur = s.cur := rfl
@[simp] theorem State.wrD_clusters (s : State) (d : DReg) (x : Desc) : (s.wrD d x).clusters = s.clusters := rfl
@[simp] theorem State.wrD_dies (s : State) (d : DReg) (x : Desc) : (s.wrD d x).dies = s.dies := rfl
@[simp] theorem State.wrD_ctxs (s : State) (d : DReg) (x : Desc) : (s.wrD d x).ctxs = s.ctxs := rfl
@[simp] theorem State.wrD_gm (s : State) (d : DReg) (x : Desc) : (s.wrD d x).gm = s.gm := rfl
@[simp] theorem State.wrD_gmPoison (s : State) (d : DReg) (x : Desc) : (s.wrD d x).gmPoison = s.gmPoison := rfl
@[simp] theorem State.wrD_reports (s : State) (d : DReg) (x : Desc) : (s.wrD d x).reports = s.reports := rfl
@[simp] theorem State.wrD_copies (s : State) (d : DReg) (x : Desc) : (s.wrD d x).copies = s.copies := rfl
@[simp] theorem State.wrD_host (s : State) (d : DReg) (x : Desc) : (s.wrD d x).host = s.host := rfl
@[simp] theorem State.wrD_time (s : State) (d : DReg) (x : Desc) : (s.wrD d x).time = s.time := rfl
@[simp] theorem State.wrD_spawns (s : State) (d : DReg) (x : Desc) : (s.wrD d x).spawns = s.spawns := rfl
@[simp] theorem State.wrD_ends (s : State) (d : DReg) (x : Desc) : (s.wrD d x).ends = s.ends := rfl
@[simp] theorem State.wrD_kills (s : State) (d : DReg) (x : Desc) : (s.wrD d x).kills = s.kills := rfl
@[simp] theorem State.wrD_nextMsg (s : State) (d : DReg) (x : Desc) : (s.wrD d x).nextMsg = s.nextMsg := rfl
@[simp] theorem State.wrD_nextTask (s : State) (d : DReg) (x : Desc) : (s.wrD d x).nextTask = s.nextTask := rfl
@[simp] theorem State.wrD_nextOrder (s : State) (d : DReg) (x : Desc) : (s.wrD d x).nextOrder = s.nextOrder := rfl
@[simp] theorem State.wrD_port (s : State) (d : DReg) (x : Desc) : (s.wrD d x).port = s.port := rfl
@[simp] theorem State.wrD_settings (s : State) (d : DReg) (x : Desc) : (s.wrD d x).settings = s.settings := rfl
@[simp] theorem State.wrD_phase (s : State) (d : DReg) (x : Desc) : (s.wrD d x).phase = s.phase := rfl
@[simp] theorem State.wrD_freeCount (s : State) (d : DReg) (x : Desc) : (s.wrD d x).freeCount = s.freeCount := rfl
@[simp] theorem State.wrD_frames (s : State) (d : DReg) (x : Desc) : (s.wrD d x).frames = s.frames := rfl
@[simp] theorem State.wrD_ctlDue (s : State) (d : DReg) (x : Desc) : (s.wrD d x).ctlDue = s.ctlDue := rfl
@[simp] theorem State.wrD_schedule (s : State) (d : DReg) (x : Desc) : (s.wrD d x).schedule = s.schedule := rfl

/-! #### `State.raise` -/

@[simp] theorem State.raise_cur (s : State) (f : Flags) : (s.raise f).cur = s.cur := rfl
@[simp] theorem State.raise_clusters (s : State) (f : Flags) : (s.raise f).clusters = s.clusters := rfl
@[simp] theorem State.raise_dies (s : State) (f : Flags) : (s.raise f).dies = s.dies := rfl
@[simp] theorem State.raise_ctxs (s : State) (f : Flags) : (s.raise f).ctxs = s.ctxs := rfl
@[simp] theorem State.raise_gm (s : State) (f : Flags) : (s.raise f).gm = s.gm := rfl
@[simp] theorem State.raise_gmPoison (s : State) (f : Flags) : (s.raise f).gmPoison = s.gmPoison := rfl
@[simp] theorem State.raise_reports (s : State) (f : Flags) : (s.raise f).reports = s.reports := rfl
@[simp] theorem State.raise_copies (s : State) (f : Flags) : (s.raise f).copies = s.copies := rfl
@[simp] theorem State.raise_host (s : State) (f : Flags) : (s.raise f).host = s.host := rfl
@[simp] theorem State.raise_time (s : State) (f : Flags) : (s.raise f).time = s.time := rfl
@[simp] theorem State.raise_spawns (s : State) (f : Flags) : (s.raise f).spawns = s.spawns := rfl
@[simp] theorem State.raise_ends (s : State) (f : Flags) : (s.raise f).ends = s.ends := rfl
@[simp] theorem State.raise_kills (s : State) (f : Flags) : (s.raise f).kills = s.kills := rfl
@[simp] theorem State.raise_nextMsg (s : State) (f : Flags) : (s.raise f).nextMsg = s.nextMsg := rfl
@[simp] theorem State.raise_nextTask (s : State) (f : Flags) : (s.raise f).nextTask = s.nextTask := rfl
@[simp] theorem State.raise_nextOrder (s : State) (f : Flags) : (s.raise f).nextOrder = s.nextOrder := rfl
@[simp] theorem State.raise_port (s : State) (f : Flags) : (s.raise f).port = s.port := rfl
@[simp] theorem State.raise_settings (s : State) (f : Flags) : (s.raise f).settings = s.settings := rfl
@[simp] theorem State.raise_phase (s : State) (f : Flags) : (s.raise f).phase = s.phase := rfl
@[simp] theorem State.raise_freeCount (s : State) (f : Flags) : (s.raise f).freeCount = s.freeCount := rfl
@[simp] theorem State.raise_frames (s : State) (f : Flags) : (s.raise f).frames = s.frames := rfl
@[simp] theorem State.raise_ctlDue (s : State) (f : Flags) : (s.raise f).ctlDue = s.ctlDue := rfl
@[simp] theorem State.raise_schedule (s : State) (f : Flags) : (s.raise f).schedule = s.schedule := rfl

/-! #### `State.modCluster` -/

@[simp] theorem State.modCluster_cur (s : State) (c : ClusterIx) (f : Cluster → Cluster) : (s.modCluster c f).cur = s.cur := rfl
@[simp] theorem State.modCluster_tiles (s : State) (c : ClusterIx) (f : Cluster → Cluster) : (s.modCluster c f).tiles = s.tiles := rfl
@[simp] theorem State.modCluster_dies (s : State) (c : ClusterIx) (f : Cluster → Cluster) : (s.modCluster c f).dies = s.dies := rfl
@[simp] theorem State.modCluster_ctxs (s : State) (c : ClusterIx) (f : Cluster → Cluster) : (s.modCluster c f).ctxs = s.ctxs := rfl
@[simp] theorem State.modCluster_gm (s : State) (c : ClusterIx) (f : Cluster → Cluster) : (s.modCluster c f).gm = s.gm := rfl
@[simp] theorem State.modCluster_gmPoison (s : State) (c : ClusterIx) (f : Cluster → Cluster) : (s.modCluster c f).gmPoison = s.gmPoison := rfl
@[simp] theorem State.modCluster_reports (s : State) (c : ClusterIx) (f : Cluster → Cluster) : (s.modCluster c f).reports = s.reports := rfl
@[simp] theorem State.modCluster_copies (s : State) (c : ClusterIx) (f : Cluster → Cluster) : (s.modCluster c f).copies = s.copies := rfl
@[simp] theorem State.modCluster_host (s : State) (c : ClusterIx) (f : Cluster → Cluster) : (s.modCluster c f).host = s.host := rfl
@[simp] theorem State.modCluster_time (s : State) (c : ClusterIx) (f : Cluster → Cluster) : (s.modCluster c f).time = s.time := rfl
@[simp] theorem State.modCluster_spawns (s : State) (c : ClusterIx) (f : Cluster → Cluster) : (s.modCluster c f).spawns = s.spawns := rfl
@[simp] theorem State.modCluster_ends (s : State) (c : ClusterIx) (f : Cluster → Cluster) : (s.modCluster c f).ends = s.ends := rfl
@[simp] theorem State.modCluster_kills (s : State) (c : ClusterIx) (f : Cluster → Cluster) : (s.modCluster c f).kills = s.kills := rfl
@[simp] theorem State.modCluster_nextMsg (s : State) (c : ClusterIx) (f : Cluster → Cluster) : (s.modCluster c f).nextMsg = s.nextMsg := rfl
@[simp] theorem State.modCluster_nextTask (s : State) (c : ClusterIx) (f : Cluster → Cluster) : (s.modCluster c f).nextTask = s.nextTask := rfl
@[simp] theorem State.modCluster_nextOrder (s : State) (c : ClusterIx) (f : Cluster → Cluster) : (s.modCluster c f).nextOrder = s.nextOrder := rfl
@[simp] theorem State.modCluster_port (s : State) (c : ClusterIx) (f : Cluster → Cluster) : (s.modCluster c f).port = s.port := rfl
@[simp] theorem State.modCluster_settings (s : State) (c : ClusterIx) (f : Cluster → Cluster) : (s.modCluster c f).settings = s.settings := rfl
@[simp] theorem State.modCluster_phase (s : State) (c : ClusterIx) (f : Cluster → Cluster) : (s.modCluster c f).phase = s.phase := rfl
@[simp] theorem State.modCluster_freeCount (s : State) (c : ClusterIx) (f : Cluster → Cluster) : (s.modCluster c f).freeCount = s.freeCount := rfl
@[simp] theorem State.modCluster_frames (s : State) (c : ClusterIx) (f : Cluster → Cluster) : (s.modCluster c f).frames = s.frames := rfl
@[simp] theorem State.modCluster_ctlDue (s : State) (c : ClusterIx) (f : Cluster → Cluster) : (s.modCluster c f).ctlDue = s.ctlDue := rfl
@[simp] theorem State.modCluster_schedule (s : State) (c : ClusterIx) (f : Cluster → Cluster) : (s.modCluster c f).schedule = s.schedule := rfl

/-! #### `State.modDie` -/

@[simp] theorem State.modDie_cur (s : State) (d : DieIx) (f : Die → Die) : (s.modDie d f).cur = s.cur := rfl
@[simp] theorem State.modDie_tiles (s : State) (d : DieIx) (f : Die → Die) : (s.modDie d f).tiles = s.tiles := rfl
@[simp] theorem State.modDie_clusters (s : State) (d : DieIx) (f : Die → Die) : (s.modDie d f).clusters = s.clusters := rfl
@[simp] theorem State.modDie_ctxs (s : State) (d : DieIx) (f : Die → Die) : (s.modDie d f).ctxs = s.ctxs := rfl
@[simp] theorem State.modDie_gm (s : State) (d : DieIx) (f : Die → Die) : (s.modDie d f).gm = s.gm := rfl
@[simp] theorem State.modDie_gmPoison (s : State) (d : DieIx) (f : Die → Die) : (s.modDie d f).gmPoison = s.gmPoison := rfl
@[simp] theorem State.modDie_reports (s : State) (d : DieIx) (f : Die → Die) : (s.modDie d f).reports = s.reports := rfl
@[simp] theorem State.modDie_copies (s : State) (d : DieIx) (f : Die → Die) : (s.modDie d f).copies = s.copies := rfl
@[simp] theorem State.modDie_host (s : State) (d : DieIx) (f : Die → Die) : (s.modDie d f).host = s.host := rfl
@[simp] theorem State.modDie_time (s : State) (d : DieIx) (f : Die → Die) : (s.modDie d f).time = s.time := rfl
@[simp] theorem State.modDie_spawns (s : State) (d : DieIx) (f : Die → Die) : (s.modDie d f).spawns = s.spawns := rfl
@[simp] theorem State.modDie_ends (s : State) (d : DieIx) (f : Die → Die) : (s.modDie d f).ends = s.ends := rfl
@[simp] theorem State.modDie_kills (s : State) (d : DieIx) (f : Die → Die) : (s.modDie d f).kills = s.kills := rfl
@[simp] theorem State.modDie_nextMsg (s : State) (d : DieIx) (f : Die → Die) : (s.modDie d f).nextMsg = s.nextMsg := rfl
@[simp] theorem State.modDie_nextTask (s : State) (d : DieIx) (f : Die → Die) : (s.modDie d f).nextTask = s.nextTask := rfl
@[simp] theorem State.modDie_nextOrder (s : State) (d : DieIx) (f : Die → Die) : (s.modDie d f).nextOrder = s.nextOrder := rfl
@[simp] theorem State.modDie_port (s : State) (d : DieIx) (f : Die → Die) : (s.modDie d f).port = s.port := rfl
@[simp] theorem State.modDie_settings (s : State) (d : DieIx) (f : Die → Die) : (s.modDie d f).settings = s.settings := rfl
@[simp] theorem State.modDie_phase (s : State) (d : DieIx) (f : Die → Die) : (s.modDie d f).phase = s.phase := rfl
@[simp] theorem State.modDie_freeCount (s : State) (d : DieIx) (f : Die → Die) : (s.modDie d f).freeCount = s.freeCount := rfl
@[simp] theorem State.modDie_frames (s : State) (d : DieIx) (f : Die → Die) : (s.modDie d f).frames = s.frames := rfl
@[simp] theorem State.modDie_ctlDue (s : State) (d : DieIx) (f : Die → Die) : (s.modDie d f).ctlDue = s.ctlDue := rfl
@[simp] theorem State.modDie_schedule (s : State) (d : DieIx) (f : Die → Die) : (s.modDie d f).schedule = s.schedule := rfl

/-! #### `State.modCtx` -/

@[simp] theorem State.modCtx_cur (s : State) (c : CtxNo) (f : Context → Context) : (s.modCtx c f).cur = s.cur := rfl
@[simp] theorem State.modCtx_tiles (s : State) (c : CtxNo) (f : Context → Context) : (s.modCtx c f).tiles = s.tiles := rfl
@[simp] theorem State.modCtx_clusters (s : State) (c : CtxNo) (f : Context → Context) : (s.modCtx c f).clusters = s.clusters := rfl
@[simp] theorem State.modCtx_dies (s : State) (c : CtxNo) (f : Context → Context) : (s.modCtx c f).dies = s.dies := rfl
@[simp] theorem State.modCtx_gm (s : State) (c : CtxNo) (f : Context → Context) : (s.modCtx c f).gm = s.gm := rfl
@[simp] theorem State.modCtx_gmPoison (s : State) (c : CtxNo) (f : Context → Context) : (s.modCtx c f).gmPoison = s.gmPoison := rfl
@[simp] theorem State.modCtx_reports (s : State) (c : CtxNo) (f : Context → Context) : (s.modCtx c f).reports = s.reports := rfl
@[simp] theorem State.modCtx_copies (s : State) (c : CtxNo) (f : Context → Context) : (s.modCtx c f).copies = s.copies := rfl
@[simp] theorem State.modCtx_host (s : State) (c : CtxNo) (f : Context → Context) : (s.modCtx c f).host = s.host := rfl
@[simp] theorem State.modCtx_time (s : State) (c : CtxNo) (f : Context → Context) : (s.modCtx c f).time = s.time := rfl
@[simp] theorem State.modCtx_spawns (s : State) (c : CtxNo) (f : Context → Context) : (s.modCtx c f).spawns = s.spawns := rfl
@[simp] theorem State.modCtx_ends (s : State) (c : CtxNo) (f : Context → Context) : (s.modCtx c f).ends = s.ends := rfl
@[simp] theorem State.modCtx_kills (s : State) (c : CtxNo) (f : Context → Context) : (s.modCtx c f).kills = s.kills := rfl
@[simp] theorem State.modCtx_nextMsg (s : State) (c : CtxNo) (f : Context → Context) : (s.modCtx c f).nextMsg = s.nextMsg := rfl
@[simp] theorem State.modCtx_nextTask (s : State) (c : CtxNo) (f : Context → Context) : (s.modCtx c f).nextTask = s.nextTask := rfl
@[simp] theorem State.modCtx_nextOrder (s : State) (c : CtxNo) (f : Context → Context) : (s.modCtx c f).nextOrder = s.nextOrder := rfl
@[simp] theorem State.modCtx_port (s : State) (c : CtxNo) (f : Context → Context) : (s.modCtx c f).port = s.port := rfl
@[simp] theorem State.modCtx_settings (s : State) (c : CtxNo) (f : Context → Context) : (s.modCtx c f).settings = s.settings := rfl
@[simp] theorem State.modCtx_phase (s : State) (c : CtxNo) (f : Context → Context) : (s.modCtx c f).phase = s.phase := rfl
@[simp] theorem State.modCtx_freeCount (s : State) (c : CtxNo) (f : Context → Context) : (s.modCtx c f).freeCount = s.freeCount := rfl
@[simp] theorem State.modCtx_frames (s : State) (c : CtxNo) (f : Context → Context) : (s.modCtx c f).frames = s.frames := rfl
@[simp] theorem State.modCtx_ctlDue (s : State) (c : CtxNo) (f : Context → Context) : (s.modCtx c f).ctlDue = s.ctlDue := rfl
@[simp] theorem State.modCtx_schedule (s : State) (c : CtxNo) (f : Context → Context) : (s.modCtx c f).schedule = s.schedule := rfl

/-! ### A tile after an update of a tile -/

theorem vector_get_set {α : Type} {n : Nat} (v : Vector α n) (i j : Nat) (hi : i < n) (hj : j < n) (x : α) :
    (v.set i x hi)[j] = if i = j then x else v[j] := by
  simp [Vector.getElem_set]

theorem bv_toNat_ne {w : Nat} {a b : BitVec w} (h : a ≠ b) : ¬ a.toNat = b.toNat := fun e => h (BitVec.eq_of_toNat_eq e)

@[simp] theorem State.tile_setTile_self (s : State) (t : TileIx) (x : Tile) : (s.setTile t x).tile t = x := by
  simp [State.tile, State.setTile]

theorem State.tile_setTile_ne (s : State) {t u : TileIx} (x : Tile) (h : u ≠ t) : (s.setTile t x).tile u = s.tile u := by
  simp [State.tile, State.setTile, bv_toNat_ne h.symm]

theorem State.tile_setTile (s : State) (t u : TileIx) (x : Tile) :
    (s.setTile t x).tile u = if u = t then x else s.tile u := by
  by_cases h : u = t
  · subst h; simp
  · simp [State.tile_setTile_ne s x h, h]

theorem State.tile_modTile (s : State) (t u : TileIx) (f : Tile → Tile) :
    (s.modTile t f).tile u = if u = t then f (s.tile t) else s.tile u := State.tile_setTile ..

@[simp] theorem State.tile_modTile_self (s : State) (t : TileIx) (f : Tile → Tile) :
    (s.modTile t f).tile t = f (s.tile t) := by simp [State.tile_modTile]

@[simp] theorem State.t_modT (s : State) (f : Tile → Tile) : (s.modT f).t = f s.t := by
  simp [State.t, State.modT]

@[simp] theorem State.t_modRegs (s : State) (f : Regs → Regs) : (s.modRegs f).t = { s.t with regs := f s.regs } := by
  simp [State.modRegs, State.regs]

@[simp] theorem State.regs_modRegs (s : State) (f : Regs → Regs) : (s.modRegs f).regs = f s.regs := by simp [State.regs]

@[simp] theorem State.regs_modCtl (s : State) (f : Ctl → Ctl) :
    (s.modCtl f).regs = { s.regs with ctl := f s.regs.ctl } := by simp [State.modCtl]

@[simp] theorem State.t_modIssue (s : State) (f : Issue → Issue) :
    (s.modIssue f).t = { s.t with issue := f s.t.issue } := by simp [State.modIssue]

@[simp] theorem State.regs_modIssue (s : State) (f : Issue → Issue) : (s.modIssue f).regs = s.regs := by simp [State.regs]

theorem State.setTile_setTile (s : State) (t : TileIx) (x y : Tile) : (s.setTile t x).setTile t y = s.setTile t y := by
  simp [State.setTile]

theorem State.modT_modT (s : State) (f g : Tile → Tile) : (s.modT f).modT g = s.modT fun x => g (f x) := by
  simp [State.modT, State.modTile, State.setTile_setTile]

theorem State.modT_congr (s : State) {f g : Tile → Tile} (h : f s.t = g s.t) : s.modT f = s.modT g := by
  simp only [State.modT, State.modTile]
  rw [show s.tile s.cur = s.t from rfl, h]

theorem State.setTile_self (s : State) (t : TileIx) : s.setTile t (s.tile t) = s := by
  simp [State.setTile, State.tile]

theorem State.modT_id (s : State) {f : Tile → Tile} (h : f s.t = s.t) : s.modT f = s := by
  simp only [State.modT, State.modTile]
  rw [show s.tile s.cur = s.t from rfl, h]
  exact State.setTile_self s s.cur

/-! ### The other parts -/

theorem State.cluster_modCluster (s : State) (c d : ClusterIx) (f : Cluster → Cluster) :
    (s.modCluster c f).cluster d = if d = c then f (s.cluster c) else s.cluster d := by
  by_cases h : d = c
  · subst h; simp [State.cluster, State.modCluster]
  · simp [State.cluster, State.modCluster, bv_toNat_ne (Ne.symm h), h]

theorem State.die_modDie (s : State) (c d : DieIx) (f : Die → Die) :
    (s.modDie c f).die d = if d = c then f (s.die c) else s.die d := by
  by_cases h : d = c
  · subst h; simp [State.die, State.modDie]
  · simp [State.die, State.modDie, bv_toNat_ne (Ne.symm h), h]

theorem State.ctx_modCtx (s : State) (c d : CtxNo) (f : Context → Context) :
    (s.modCtx c f).ctx d = if d = c then f (s.ctx c) else s.ctx d := by
  by_cases h : d = c
  · subst h; simp [State.ctx, State.modCtx]
  · simp [State.ctx, State.modCtx, bv_toNat_ne (Ne.symm h), h]

@[simp] theorem State.tile_modCluster (s : State) (c : ClusterIx) (f : Cluster → Cluster) (t : TileIx) :
    (s.modCluster c f).tile t = s.tile t := rfl
@[simp] theorem State.tile_modDie (s : State) (c : DieIx) (f : Die → Die) (t : TileIx) :
    (s.modDie c f).tile t = s.tile t := rfl
@[simp] theorem State.tile_modCtx (s : State) (c : CtxNo) (f : Context → Context) (t : TileIx) :
    (s.modCtx c f).tile t = s.tile t := rfl
@[simp] theorem State.cluster_modTile (s : State) (t : TileIx) (f : Tile → Tile) (c : ClusterIx) :
    (s.modTile t f).cluster c = s.cluster c := rfl
@[simp] theorem State.die_modTile (s : State) (t : TileIx) (f : Tile → Tile) (d : DieIx) :
    (s.modTile t f).die d = s.die d := rfl
@[simp] theorem State.ctx_modTile (s : State) (t : TileIx) (f : Tile → Tile) (c : CtxNo) :
    (s.modTile t f).ctx c = s.ctx c := rfl

/-! ### The register files -/

@[simp] theorem Regs.setS_p (r : Regs) (d : SReg) (x : Word) : (r.setS d x).p = r.p := by
  simp only [Regs.setS]; split <;> rfl
@[simp] theorem Regs.setS_v (r : Regs) (d : SReg) (x : Word) : (r.setS d x).v = r.v := by
  simp only [Regs.setS]; split <;> rfl
@[simp] theorem Regs.setS_m (r : Regs) (d : SReg) (x : Word) : (r.setS d x).m = r.m := by
  simp only [Regs.setS]; split <;> rfl
@[simp] theorem Regs.setS_q (r : Regs) (d : SReg) (x : Word) : (r.setS d x).q = r.q := by
  simp only [Regs.setS]; split <;> rfl
@[simp] theorem Regs.setS_c (r : Regs) (d : SReg) (x : Word) : (r.setS d x).c = r.c := by
  simp only [Regs.setS]; split <;> rfl
@[simp] theorem Regs.setS_d (r : Regs) (d : SReg) (x : Word) : (r.setS d x).d = r.d := by
  simp only [Regs.setS]; split <;> rfl
@[simp] theorem Regs.setS_pc (r : Regs) (d : SReg) (x : Word) : (r.setS d x).pc = r.pc := by
  simp only [Regs.setS]; split <;> rfl
@[simp] theorem Regs.setS_ctl (r : Regs) (d : SReg) (x : Word) : (r.setS d x).ctl = r.ctl := by
  simp only [Regs.setS]; split <;> rfl

@[simp] theorem Regs.setP_s (r : Regs) (d : PReg) (x : Bool) : (r.setP d x).s = r.s := by
  simp only [Regs.setP]; split <;> rfl
@[simp] theorem Regs.setP_v (r : Regs) (d : PReg) (x : Bool) : (r.setP d x).v = r.v := by
  simp only [Regs.setP]; split <;> rfl
@[simp] theorem Regs.setP_m (r : Regs) (d : PReg) (x : Bool) : (r.setP d x).m = r.m := by
  simp only [Regs.setP]; split <;> rfl
@[simp] theorem Regs.setP_q (r : Regs) (d : PReg) (x : Bool) : (r.setP d x).q = r.q := by
  simp only [Regs.setP]; split <;> rfl
@[simp] theorem Regs.setP_c (r : Regs) (d : PReg) (x : Bool) : (r.setP d x).c = r.c := by
  simp only [Regs.setP]; split <;> rfl
@[simp] theorem Regs.setP_d (r : Regs) (d : PReg) (x : Bool) : (r.setP d x).d = r.d := by
  simp only [Regs.setP]; split <;> rfl
@[simp] theorem Regs.setP_pc (r : Regs) (d : PReg) (x : Bool) : (r.setP d x).pc = r.pc := by
  simp only [Regs.setP]; split <;> rfl
@[simp] theorem Regs.setP_ctl (r : Regs) (d : PReg) (x : Bool) : (r.setP d x).ctl = r.ctl := by
  simp only [Regs.setP]; split <;> rfl

@[simp] theorem Regs.setM_s (r : Regs) (d : MReg) (x : MWord) : (r.setM d x).s = r.s := by
  simp only [Regs.setM]; split <;> rfl
@[simp] theorem Regs.setM_p (r : Regs) (d : MReg) (x : MWord) : (r.setM d x).p = r.p := by
  simp only [Regs.setM]; split <;> rfl
@[simp] theorem Regs.setM_v (r : Regs) (d : MReg) (x : MWord) : (r.setM d x).v = r.v := by
  simp only [Regs.setM]; split <;> rfl
@[simp] theorem Regs.setM_q (r : Regs) (d : MReg) (x : MWord) : (r.setM d x).q = r.q := by
  simp only [Regs.setM]; split <;> rfl
@[simp] theorem Regs.setM_c (r : Regs) (d : MReg) (x : MWord) : (r.setM d x).c = r.c := by
  simp only [Regs.setM]; split <;> rfl
@[simp] theorem Regs.setM_d (r : Regs) (d : MReg) (x : MWord) : (r.setM d x).d = r.d := by
  simp only [Regs.setM]; split <;> rfl
@[simp] theorem Regs.setM_pc (r : Regs) (d : MReg) (x : MWord) : (r.setM d x).pc = r.pc := by
  simp only [Regs.setM]; split <;> rfl
@[simp] theorem Regs.setM_ctl (r : Regs) (d : MReg) (x : MWord) : (r.setM d x).ctl = r.ctl := by
  simp only [Regs.setM]; split <;> rfl

@[simp] theorem Regs.setV_s (r : Regs) (d : VReg) (x : VWord) : (r.setV d x).s = r.s := rfl
@[simp] theorem Regs.setV_p (r : Regs) (d : VReg) (x : VWord) : (r.setV d x).p = r.p := rfl
@[simp] theorem Regs.setV_m (r : Regs) (d : VReg) (x : VWord) : (r.setV d x).m = r.m := rfl
@[simp] theorem Regs.setV_q (r : Regs) (d : VReg) (x : VWord) : (r.setV d x).q = r.q := rfl
@[simp] theorem Regs.setV_c (r : Regs) (d : VReg) (x : VWord) : (r.setV d x).c = r.c := rfl
@[simp] theorem Regs.setV_d (r : Regs) (d : VReg) (x : VWord) : (r.setV d x).d = r.d := rfl
@[simp] theorem Regs.setV_pc (r : Regs) (d : VReg) (x : VWord) : (r.setV d x).pc = r.pc := rfl
@[simp] theorem Regs.setV_ctl (r : Regs) (d : VReg) (x : VWord) : (r.setV d x).ctl = r.ctl := rfl

@[simp] theorem Regs.setQ_s (r : Regs) (d : QReg) (x : RedLatch) : (r.setQ d x).s = r.s := rfl
@[simp] theorem Regs.setQ_p (r : Regs) (d : QReg) (x : RedLatch) : (r.setQ d x).p = r.p := rfl
@[simp] theorem Regs.setQ_v (r : Regs) (d : QReg) (x : RedLatch) : (r.setQ d x).v = r.v := rfl
@[simp] theorem Regs.setQ_m (r : Regs) (d : QReg) (x : RedLatch) : (r.setQ d x).m = r.m := rfl
@[simp] theorem Regs.setQ_c (r : Regs) (d : QReg) (x : RedLatch) : (r.setQ d x).c = r.c := rfl
@[simp] theorem Regs.setQ_d (r : Regs) (d : QReg) (x : RedLatch) : (r.setQ d x).d = r.d := rfl
@[simp] theorem Regs.setQ_pc (r : Regs) (d : QReg) (x : RedLatch) : (r.setQ d x).pc = r.pc := rfl
@[simp] theorem Regs.setQ_ctl (r : Regs) (d : QReg) (x : RedLatch) : (r.setQ d x).ctl = r.ctl := rfl

@[simp] theorem Regs.setD_s (r : Regs) (d : DReg) (x : Desc) : (r.setD d x).s = r.s := rfl
@[simp] theorem Regs.setD_p (r : Regs) (d : DReg) (x : Desc) : (r.setD d x).p = r.p := rfl
@[simp] theorem Regs.setD_v (r : Regs) (d : DReg) (x : Desc) : (r.setD d x).v = r.v := rfl
@[simp] theorem Regs.setD_m (r : Regs) (d : DReg) (x : Desc) : (r.setD d x).m = r.m := rfl
@[simp] theorem Regs.setD_q (r : Regs) (d : DReg) (x : Desc) : (r.setD d x).q = r.q := rfl
@[simp] theorem Regs.setD_c (r : Regs) (d : DReg) (x : Desc) : (r.setD d x).c = r.c := rfl
@[simp] theorem Regs.setD_pc (r : Regs) (d : DReg) (x : Desc) : (r.setD d x).pc = r.pc := rfl
@[simp] theorem Regs.setD_ctl (r : Regs) (d : DReg) (x : Desc) : (r.setD d x).ctl = r.ctl := rfl

@[simp] theorem Regs.setC_s (r : Regs) (d : AccReg) (x : AccWord) : (r.setC d x).s = r.s := rfl
@[simp] theorem Regs.setC_p (r : Regs) (d : AccReg) (x : AccWord) : (r.setC d x).p = r.p := rfl
@[simp] theorem Regs.setC_v (r : Regs) (d : AccReg) (x : AccWord) : (r.setC d x).v = r.v := rfl
@[simp] theorem Regs.setC_m (r : Regs) (d : AccReg) (x : AccWord) : (r.setC d x).m = r.m := rfl
@[simp] theorem Regs.setC_q (r : Regs) (d : AccReg) (x : AccWord) : (r.setC d x).q = r.q := rfl
@[simp] theorem Regs.setC_d (r : Regs) (d : AccReg) (x : AccWord) : (r.setC d x).d = r.d := rfl
@[simp] theorem Regs.setC_pc (r : Regs) (d : AccReg) (x : AccWord) : (r.setC d x).pc = r.pc := rfl
@[simp] theorem Regs.setC_ctl (r : Regs) (d : AccReg) (x : AccWord) : (r.setC d x).ctl = r.ctl := rfl

/-- A read after a write of a scalar register: `s0` reads zero whatever is written (R19). -/
theorem Regs.getS_setS (r : Regs) (d a : SReg) (x : Word) :
    (r.setS d x).getS a = if a = 0 then 0 else if a = d then x else r.getS a := by
  by_cases h0 : a = 0#6
  · simp [Regs.getS, h0]
  · by_cases hd : d = 0#6
    · have : a ≠ d := by rw [hd]; exact h0
      simp [Regs.getS, Regs.setS, h0, hd]
    · by_cases h : a = d
      · subst h; simp [Regs.getS, Regs.setS, h0]
      · simp [Regs.getS, Regs.setS, h0, hd, h, bv_toNat_ne (Ne.symm h)]

/-- A read after a write of a predicate: `p0` reads true (R19). -/
theorem Regs.getP_setP (r : Regs) (d a : PReg) (x : Bool) :
    (r.setP d x).getP a = if a = 0 then true else if a = d then x else r.getP a := by
  have key : ∀ p : BitVec 8, ∀ d a : PReg, ∀ x : Bool, d ≠ 0 → a ≠ 0 →
      (if x = true then p ||| 1#8 <<< d.toNat else p &&& ~~~(1#8 <<< d.toNat)).getLsbD a.toNat =
        if a = d then x else p.getLsbD a.toNat := by
    intro p d a x _ _
    have ha : a.toNat < 8 := a.isLt
    by_cases h : a = d
    · subst h; cases x <;> simp [ha]
    · have : ¬ d.toNat = a.toNat := bv_toNat_ne (Ne.symm h)
      cases x <;> simp [h, ha, Nat.sub_eq_zero_iff_le] <;> omega
  by_cases h0 : a = 0#3
  · simp [Regs.getP, h0]
  · by_cases hd : d = 0#3
    · have : a ≠ d := by rw [hd]; exact h0
      simp [Regs.getP, Regs.setP, h0, hd]
    · have h0' : (a == 0) = false := by simp [h0]
      have hd' : ¬ d = (0 : PReg) := hd
      have h0n : ¬ a = (0 : PReg) := h0
      rw [Regs.getP, Regs.setP, if_neg hd', if_neg h0n, Regs.getP, h0', Bool.false_or, Bool.false_or]
      exact key r.p d a x hd h0

/-- A read after a write of a mask register: `m0` reads all ones (R18, R19). -/
theorem Regs.getM_setM (r : Regs) (d a : MReg) (x : MWord) :
    (r.setM d x).getM a = if a = 0 then BitVec.allOnes 1024 else if a = d then x else r.getM a := by
  by_cases h0 : a = 0#3
  · simp [Regs.getM, h0]
  · by_cases hd : d = 0#3
    · have : a ≠ d := by rw [hd]; exact h0
      simp [Regs.getM, Regs.setM, h0, hd]
    · by_cases h : a = d
      · subst h; simp [Regs.getM, Regs.setM, h0]
      · simp [Regs.getM, Regs.setM, h0, hd, h, bv_toNat_ne (Ne.symm h)]

/-- A read after a write. -/
theorem Regs.getV_setV (r : Regs) (d a : VReg) (x : VWord) :
    (r.setV d x).getV a = if a = d then x else r.getV a := by
  by_cases h : a = d
  · subst h; simp [Regs.getV, Regs.setV]
  · simp [Regs.getV, Regs.setV, h, bv_toNat_ne (Ne.symm h)]

/-- A read after a write. -/
theorem Regs.getQ_setQ (r : Regs) (d a : QReg) (x : RedLatch) :
    (r.setQ d x).getQ a = if a = d then x else r.getQ a := by
  by_cases h : a = d
  · subst h; simp [Regs.getQ, Regs.setQ]
  · simp [Regs.getQ, Regs.setQ, h, bv_toNat_ne (Ne.symm h)]

/-- A read after a write. -/
theorem Regs.getD_setD (r : Regs) (d a : DReg) (x : Desc) :
    (r.setD d x).getD a = if a = d then x else r.getD a := by
  by_cases h : a = d
  · subst h; simp [Regs.getD, Regs.setD]
  · simp [Regs.getD, Regs.setD, h, bv_toNat_ne (Ne.symm h)]

/-- A read after a write. -/
theorem Regs.getC_setC (r : Regs) (d a : AccReg) (x : AccWord) :
    (r.setC d x).getC a = if a = d then x else r.getC a := by
  by_cases h : a = d
  · subst h; simp [Regs.getC, Regs.setC]
  · simp [Regs.getC, Regs.setC, h, bv_toNat_ne (Ne.symm h)]

end Sys2Proof.Machine
end

