-- ==== Sys2Proof/Laws/Ops.lean ====
section
/-! SUPPORT. What each shared operation of the meanings can do, said once: guards, traps, waits, and loads and stores over
the spaces. -/

set_option Elab.async false

namespace Sys2Proof.Machine

/-! ### Guards -/

/-- A well-formed instruction passes its guard (R46). -/
theorem checked_of_wf {i : Instr} {s : State} {k : Out} (h : i.wf = true) : checked i s k = k := if_pos h

/-- An ill-formed instruction raises ILLEGAL_OP (R46). -/
theorem checked_of_not_wf {i : Instr} {s : State} {k : Out} (h : i.wf = false) : checked i s k = s.illegal := by
  simp [checked, h]

/-- System mode passes the guard on the mode (R351). -/
theorem systemOnly_of_sys {s : State} {k : Out} (h : s.src.ctl.sys = true) : systemOnly s k = k := if_pos h

/-- Any other mode raises PRIV (R351). -/
theorem systemOnly_of_user {s : State} {k : Out} (h : s.src.ctl.sys = false) :
    systemOnly s k = s.issueTrap causePriv s.whereWord := by
  simp [systemOnly, State.system, h]

/-- A multiple of the size passes the guard on the address (R127). -/
theorem aligned_of_eq {n : Nat} {a : Word} {s : State} {k : Out} (h : a.toNat % n = 0) : aligned n a s k = k := if_pos h

/-- Any other address raises MISALIGN (R127). -/
theorem aligned_of_ne {n : Nat} {a : Word} {s : State} {k : Out} (h : a.toNat % n ≠ 0) :
    aligned n a s k = s.issueTrap causeMisalign a := if_neg h

/-- A task that is no member of a quorum may write everywhere (R129). -/
theorem State.unsafeAt_of_not_member {s : State} (h : s.member = false) (spc : Space) (els : List (Word × Nat)) :
    s.unsafeAt spc els = none := by simp [State.unsafeAt, h]

/-- A write inside the frame passes the guard of R129. -/
theorem State.frameGuard_of_safe {s : State} {spc : Space} {els : List (Word × Nat)} {k : Out}
    (h : s.unsafeAt spc els = none) : s.frameGuard spc els k = k := by simp [State.frameGuard, h]

/-- A write that leaves the frame raises QUORUM_UNSAFE with its first address outside (R129). -/
theorem State.frameGuard_of_unsafe {s : State} {spc : Space} {els : List (Word × Nat)} {k : Out} {a : Word}
    (h : s.unsafeAt spc els = some a) : s.frameGuard spc els k = s.issueTrap causeQuorumUnsafe a := by
  simp [State.frameGuard, h]

/-! ### Traps and waits -/

/-- A cause raised at issue inside a bundle is marked, and nothing else changes (R373). -/
theorem State.issueTrap_inBundle {s : State} (h : s.inBundle = true) (cause : BitVec 8) (a : Word) :
    s.issueTrap cause a =
      .next (s.modIssue fun i => { i with mark := .issueTrap, pend := some (s.fault cause a 0 false) }) := by
  simp [State.issueTrap, h]

/-- Outside a bundle it is taken at once (R373). -/
theorem State.issueTrap_alone {s : State} (h : s.inBundle = false) (cause : BitVec 8) (a : Word) :
    s.issueTrap cause a = .next (s.takeTrap s.cur (s.fault cause a 0 false)) := by
  simp [State.issueTrap, h]

/-- A cause raised in execution inside a bundle is kept until its slots have executed: the first one stays (R373). -/
theorem State.execTrap_inBundle {s : State} (h : s.inBundle = true) (cause : BitVec 8) (a : Word) (sub : BitVec 8) :
    s.execTrap cause a sub =
      s.modIssue fun i => { i with pend := i.pend.orElse fun _ => some (s.fault cause a sub true) } := by
  simp [State.execTrap, h]

/-- Without a task there is nothing to trap. -/
theorem State.takeTrap_empty {s : State} {t : TileIx} (h : (s.tile t).run = none) (f : TrapRec) : s.takeTrap t f = s := by
  have hm : ∀ g, s.modRun t g = s := by
    intro g
    simp only [State.modRun, State.modTile, h, Option.map_none]
    rw [show ({ s.tile t with run := none } : Tile) = s.tile t by rw [← h]]
    exact State.setTile_self s t
  simp only [State.takeTrap, State.keepCauses, hm, h]

/-- Taking an exception has one of three ends, from the state that keeps the asynchronous causes still pending for `RETT` and
lets a deep pre-emption that is due lapse: the second fault of an unarmed handler halts the slot and ends the task; a task
with a handler and a segment for its stack enters the handler; any other task ends, counted failed, with its banks posted
(R375 to R380, R383). -/
theorem State.takeTrap_cases (s0 : State) (t : TileIx) (f : TrapRec) {r : Running} (h : (s0.tile t).run = some r) :
    let s := s0.keepCauses t
    (∃ b1 b2, s0.takeTrap t f = (((s.post t b1 b2).modTile t fun x =>
        { x with halted := some (s.tile t).regs.ctl.ctxn }).endTask t .failed false)) ∨
    (∃ b1 b2 g, (s.tile t).view.trapv ≠ 0 ∧ f.cause ≠ causeResumeLost ∧
      (s.tile t).lowestSeg (s.tile t).regs.ctl.ctxn = some g ∧
      s0.takeTrap t f = ((s.dropSaving t).dropAccess t).modTile t (·.enterHandler b1 b2 g)) ∨
    ∃ b1 b2, s0.takeTrap t f =
      ((s.modCtlOf t fun c => { c with bank1 := b1, bank2 := b2 }).post t b1 b2).endTask t .failed false := by
  have hr : ((s0.keepCauses t).tile t).run =
      some { r with asyncHeld := r.async.length, deepDue := r.deepDue && s0.gangStopping t, fresh := none } := by
    simp [State.keepCauses, State.modRun, State.tile_modTile, h]
  simp only [State.takeTrap, hr]
  split
  · exact .inl ⟨_, _, rfl⟩
  · split
    · rename_i g hg
      refine .inr (.inl ?_)
      split at hg
      · cases hg
      · rename_i hc
        simp only [Bool.or_eq_true, beq_iff_eq, not_or] at hc
        exact ⟨_, _, g, hc.1, hc.2, hg, rfl⟩
    · exact .inr (.inr ⟨_, _, rfl⟩)

/-! ### Accesses behind others (R108, R118) -/

/-- An access that waits for none before it goes on. -/
theorem State.orderGuard_of_free {s : State} {m : MemAcc} (h : s.mustWait m = false) (i : Instr) (k : Out) :
    s.orderGuard i m k = k := by simp [State.orderGuard, h]

/-- With no access of the task still to be performed, no access waits. -/
theorem State.mustWait_of_none {s : State} (ha : s.t.accs = []) (hw : s.t.wait = none) (ho : s.t.mx.ops = []) (m : MemAcc) :
    s.mustWait m = false := by
  simp only [State.t] at ha hw ho
  simp [State.mustWait, State.orderHolds, Tile.before, ha, hw, ho]

/-- An access stands aside while its bundle goes on, or, when it is tried again, goes on waiting. -/
theorem State.aside_cases (s : State) (i : Instr) (m : MemAcc) : s.aside i m = .next (s.standAside i m) ∨ s.aside i m = s.hold := by
  simp only [State.aside]
  split
  · exact .inr rfl
  · exact .inl rfl

/-- An access behind others goes on, stands aside while its bundle goes on, or holds the bundle. -/
theorem State.orderGuard_cases (s : State) (i : Instr) (m : MemAcc) (k : Out) :
    s.orderGuard i m k = k ∨ s.orderGuard i m k = .next (s.standAside i m) ∨ s.orderGuard i m k = s.hold := by
  simp only [State.orderGuard]
  split
  · exact .inl rfl
  · split
    · exact .inr (.inr rfl)
    · exact .inr (s.aside_cases i m)

/-! ### Loads and stores -/

/-- A load of elements waits, stands aside, traps at issue, traps in execution, parks, or hands the bytes read to what
follows. -/
theorem State.loadAll_cases (s : State) (i : Instr) (spc : Space) (els : List (Word × Nat))
    (k : State → List (List Byte) → Out) :
    s.loadAll i spc els k = s.hold ∨ s.loadAll i spc els k = .next (s.standAside i (readsOf spc els)) ∨
    (∃ c a, s.loadAll i spc els k = s.issueTrap c a) ∨
    (∃ s1 c a, s.loadAll i spc els k = .next (State.execTrap s1 c a 0)) ∨
    (∃ va m, s.loadAll i spc els k = s.parkAccess i (readsOf spc els) va .read m) ∨
    ∃ s1 bss, s.loadAll i spc els k = k s1 bss := by
  cases spc with
  | sp =>
    simp only [State.loadAll]
    split
    · exact .inl rfl
    · rcases s.orderGuard_cases i (readsOf .sp els) _ with h | h | h <;> rw [h]
      · split
        · exact .inr (.inr (.inr (.inl ⟨_, _, _, rfl⟩)))
        · exact .inr (.inr (.inr (.inr (.inr ⟨_, _, rfl⟩))))
      · exact .inr (.inl rfl)
      · exact .inl rfl
  | cd =>
    simp only [State.loadAll]
    split
    · exact .inr (.inr (.inl ⟨_, _, rfl⟩))
    · exact .inr (.inr (.inr (.inr (.inr ⟨_, _, rfl⟩))))
  | g =>
    simp only [State.loadAll]
    split
    · exact .inr (.inr (.inl ⟨_, _, rfl⟩))
    · rcases s.orderGuard_cases i (readsOf .g els) _ with h | h | h <;> rw [h]
      · split
        · rcases s.aside_cases i (readsOf .g els) with h | h <;> rw [h]
          · exact .inr (.inl rfl)
          · exact .inl rfl
        · split
          · exact .inr (.inr (.inr (.inr (.inl ⟨_, _, rfl⟩))))
          · exact .inr (.inr (.inr (.inl ⟨_, _, _, rfl⟩)))
          · split
            · exact .inr (.inr (.inr (.inl ⟨_, _, _, rfl⟩)))
            · exact .inr (.inr (.inr (.inr (.inr ⟨_, _, rfl⟩))))
      · exact .inr (.inl rfl)
      · exact .inl rfl

/-- A load from the scratchpad that neither waits nor meets a poisoned word reads its bytes; offending ones read zero
(R88). -/
theorem State.loadAll_sp {s : State} (i : Instr) {els : List (Word × Nat)} (k : State → List (List Byte) → Out)
    (hm : s.mustWait (readsOf .sp els) = false) (hw : ∀ e ∈ els, s.spWaits s.cur s.ctxn e.1.toNat e.2 = false)
    (hp : firstOf (fun e : Word × Nat => s.spPoisoned s.cur s.ctxn e.1.toNat e.2) els = none) :
    s.loadAll i .sp els k =
      k (s.offendIf s.cur false (s.lowestBad s.ctxn els)) (els.map fun e => s.spRead s.cur s.ctxn true e.1.toNat e.2) := by
  have : (els.any fun e => s.spWaits s.cur s.ctxn e.1.toNat e.2) = false := by
    rw [List.any_eq_false]; intro e he; simp [hw e he]
  simp only [State.loadAll, this, hp, State.orderGuard_of_free hm]
  rfl

/-- A load of Caddy bytes that passes R93 reads them and changes nothing. -/
theorem State.loadAll_cd {s : State} (i : Instr) {els : List (Word × Nat)} (k : State → List (List Byte) → Out)
    (h : s.cdStop els = none) : s.loadAll i .cd els k = k s (els.map fun e => s.cdRead s.cur e.1.toNat e.2) := by
  simp [State.loadAll, h]

/-- A load from global memory that passes R94, whose control writes are done and whose pages translate, reads the planned
pieces, after the memory manager has refilled what it can (R393). -/
theorem State.loadAll_g {s s1 : State} (i : Instr) {els : List (Word × Nat)} (k : State → List (List Byte) → Out)
    {ls : List (List (BitVec 48 × Nat × GSrc))} (hc : ∀ e ∈ els, canonicalRange e.1 e.2 = true)
    (hp : s.t.ctlPending = false) (hm : s.mustWait (readsOf .g els) = false) (ht : State.planAll s.cur s.ctxn .read true s els = .ok (s1, ls))
    (he : firstOf (s1.refill ls).gPoisoned ls = none) :
    s.loadAll i .g els k = k (State.fetchAll (s1.refill ls).cur (s1.refill ls).ctxn (s1.refill ls) ls).1
      (State.fetchAll (s1.refill ls).cur (s1.refill ls).ctxn (s1.refill ls) ls).2 := by
  have : (els.find? fun e => !canonicalRange e.1 e.2) = none := by
    rw [List.find?_eq_none]; intro e h; simp [hc e h]
  simp only [State.loadAll, this, hp, ht, he, State.orderGuard_of_free hm]
  rfl

/-- What the memory manager refills for a read changes no memory, no tile, no cluster, no die and no context (R393). -/
theorem State.refill_frame (s : State) (ls : List (List (BitVec 48 × Nat × GSrc))) :
    (s.refill ls).gm = s.gm ∧ (s.refill ls).host = s.host ∧ (s.refill ls).clusters = s.clusters ∧
    (s.refill ls).dies = s.dies ∧ (s.refill ls).ctxs = s.ctxs := by
  let P (x : State) : Prop := x.gm = s.gm ∧ x.host = s.host ∧ x.clusters = s.clusters ∧ x.dies = s.dies ∧ x.ctxs = s.ctxs
  suffices P (s.refill ls) from this
  simp only [State.refill]
  split
  · exact ⟨rfl, rfl, rfl, rfl, rfl⟩
  · refine List.foldlRecOn (motive := P) ls _ ⟨rfl, rfl, rfl, rfl, rfl⟩ fun x hx l _ => ?_
    refine List.foldlRecOn (motive := P) l _ hx fun y hy p _ => ?_
    split
    · split
      · exact hy
      · exact hy
    · exact hy

/-- With no poisoned line of device memory nothing is refilled. -/
@[simp] theorem State.refill_of_clean {s : State} (h : s.gmPoison = []) (ls : List (List (BitVec 48 × Nat × GSrc))) :
    s.refill ls = s := by simp [State.refill, h]

/-- A store of elements waits, stands aside, traps at issue, traps in execution, parks, or goes on with its bytes written or
sent. -/
theorem State.storeAll_cases (s : State) (i : Instr) (spc : Space) (els : List (Word × List Byte)) (k : State → Out) :
    s.storeAll i spc els k = s.hold ∨ (∃ m, s.storeAll i spc els k = .next (s.standAside i m)) ∨
    (∃ c a, s.storeAll i spc els k = s.issueTrap c a) ∨
    (∃ s1 c a, s.storeAll i spc els k = .next (State.execTrap s1 c a 0)) ∨
    (∃ m va mal, s.storeAll i spc els k = s.parkAccess i m va .write mal) ∨
    ∃ s1, s.storeAll i spc els k = k s1 := by
  simp only [State.storeAll, State.frameGuard]
  split
  · exact .inr (.inr (.inl ⟨_, _, rfl⟩))
  · split
    · split
      · exact .inl rfl
      · rcases s.orderGuard_cases i (writesOf .sp _) _ with h | h | h <;> rw [h]
        · exact .inr (.inr (.inr (.inr (.inr ⟨_, rfl⟩))))
        · exact .inr (.inl ⟨_, rfl⟩)
        · exact .inl rfl
    · split
      · exact .inr (.inr (.inl ⟨_, _, rfl⟩))
      · rcases s.orderGuard_cases i (writesOf .g _) _ with h | h | h <;> rw [h]
        · split
          · exact .inr (.inr (.inr (.inr (.inl ⟨_, _, _, rfl⟩))))
          · exact .inr (.inr (.inr (.inl ⟨_, _, _, rfl⟩)))
          · exact .inr (.inr (.inr (.inr (.inr ⟨_, rfl⟩))))
        · exact .inr (.inl ⟨_, rfl⟩)
        · exact .inl rfl

/-- A store to the scratchpad inside the frame that does not wait writes its bytes that do not offend (R88, R129). -/
theorem State.storeAll_sp {s : State} (i : Instr) {els : List (Word × List Byte)} (k : State → Out)
    (hm : s.mustWait (writesOf .sp (els.map fun e => (e.1, e.2.length))) = false) (hu : s.unsafeAt .sp (els.map fun e => (e.1, e.2.length)) = none)
    (hw : ∀ e ∈ els, s.spWaits s.cur s.ctxn e.1.toNat e.2.length = false) :
    s.storeAll i .sp els k =
      k ((s.offendIf s.cur true (s.lowestBad s.ctxn (els.map fun e => (e.1, e.2.length)))).spStoreAll els) := by
  have : ((els.map fun e => (e.1, e.2.length)).any fun e => s.spWaits s.cur s.ctxn e.1.toNat e.2) = false := by
    rw [List.any_eq_false]; intro e he
    obtain ⟨x, hx, rfl⟩ := List.mem_map.mp he
    simp [hw x hx]
  simp only [State.storeAll, State.frameGuard_of_safe hu, this, State.orderGuard_of_free hm]
  rfl

/-- What clears the poison of words written whole changes nothing else of a tile (R392). -/
theorem State.tile_clearPoison (s : State) (t : TileIx) (c : CtxNo) (els : List (Word × Nat)) (x : TileIx) :
    (s.clearPoison t c els).tile x = { s.tile x with poison := ((s.clearPoison t c els).tile x).poison } := by
  let P (y : State) : Prop := y.tile x = { s.tile x with poison := (y.tile x).poison }
  suffices P (s.clearPoison t c els) from this
  simp only [State.clearPoison]
  refine List.foldlRecOn (motive := P) _ _ rfl fun y hy p _ => ?_
  split
  · simp only [P, State.tile_modTile] at hy ⊢
    split
    · rename_i e
      subst e
      rw [hy]
    · exact hy
  · exact hy

/-- Nor anything outside the tiles. -/
theorem State.clearPoison_frame (s : State) (t : TileIx) (c : CtxNo) (els : List (Word × Nat)) :
    (s.clearPoison t c els).gm = s.gm ∧ (s.clearPoison t c els).host = s.host ∧ (s.clearPoison t c els).clusters = s.clusters ∧
    (s.clearPoison t c els).dies = s.dies ∧ (s.clearPoison t c els).ctxs = s.ctxs := by
  let P (y : State) : Prop := y.gm = s.gm ∧ y.host = s.host ∧ y.clusters = s.clusters ∧ y.dies = s.dies ∧ y.ctxs = s.ctxs
  suffices P (s.clearPoison t c els) from this
  simp only [State.clearPoison]
  refine List.foldlRecOn (motive := P) _ _ ⟨rfl, rfl, rfl, rfl, rfl⟩ fun y hy p _ => ?_
  split
  · exact hy
  · exact hy

/-! ### The memories keep their canonical form -/

theorem Memory.wf_foldl_cellSet (ps : List (Nat × Byte)) : ∀ {l : List Host.Cell}, Memory.wf l = true →
    Memory.wf (ps.foldl (fun m p => cellSet m p.1 p.2) l) = true := by
  induction ps with
  | nil => exact fun h => h
  | cons p ps ih => exact fun h => ih (Memory.wf_cellSet p.1 p.2 h)

/-- Bytes put into a scratchpad keep its canonical form. -/
theorem Tile.wf_spPut (x : Tile) (locs : List (Option Nat)) (bs : List Byte) (h : Memory.wf x.sp = true) :
    Memory.wf (x.spPut locs bs).sp = true := Memory.wf_foldl_cellSet _ h

/-- Bytes put into a scratchpad change no Caddy, no register and no task. -/
theorem Tile.spPut_frame (x : Tile) (locs : List (Option Nat)) (bs : List Byte) :
    (x.spPut locs bs).caddy = x.caddy ∧ (x.spPut locs bs).regs = x.regs ∧ (x.spPut locs bs).run = x.run ∧
    (x.spPut locs bs).segs = x.segs ∧ (x.spPut locs bs).wbuf = x.wbuf ∧ (x.spPut locs bs).mx = x.mx := ⟨rfl, rfl, rfl, rfl, rfl, rfl⟩

/-- Bytes performed at their home keep the canonical form of device and host memory. -/
theorem State.wf_memPut (s : State) (host : Bool) (pa : Nat) (ps : List Patch) (hg : Memory.wf s.gm = true)
    (hh : Memory.wf s.host = true) : Memory.wf (s.memPut host pa ps).gm = true ∧ Memory.wf (s.memPut host pa ps).host = true := by
  cases host <;> simp [State.memPut, Memory.wf_cellsWrite, hg, hh]

/-- Bytes performed at their home change no tile. -/
@[simp] theorem State.tile_memPut (s : State) (host : Bool) (pa : Nat) (ps : List Patch) (t : TileIx) :
    (s.memPut host pa ps).tile t = s.tile t := by
  cases host <;> rfl

/-- A write performed at its home keeps the canonical form of device and host memory. -/
theorem State.wf_atHome (s : State) (d : DieIx) (w : PendingWrite) (hg : Memory.wf s.gm = true)
    (hh : Memory.wf s.host = true) : Memory.wf (s.atHome d w).gm = true ∧ Memory.wf (s.atHome d w).host = true := by
  simp only [State.atHome]
  split
  · exact State.wf_memPut s _ _ _ hg hh
  · exact State.wf_memPut s _ _ _ hg hh

/-- A write performed at its home changes no tile. -/
@[simp] theorem State.tile_atHome (s : State) (d : DieIx) (w : PendingWrite) (t : TileIx) :
    (s.atHome d w).tile t = s.tile t := by
  simp only [State.atHome]
  split <;> simp

theorem State.wf_foldl_atHome (d : DieIx) (ws : List PendingWrite) : ∀ {s : State}, Memory.wf s.gm = true →
    Memory.wf s.host = true → Memory.wf (ws.foldl (fun s w => s.atHome d w) s).gm = true ∧
    Memory.wf (ws.foldl (fun s w => s.atHome d w) s).host = true := by
  induction ws with
  | nil => exact fun hg hh => ⟨hg, hh⟩
  | cons w ws ih => exact fun hg hh => ih (State.wf_atHome _ d w hg hh).1 (State.wf_atHome _ d w hg hh).2

/-- A release at any scope keeps the canonical form of device and host memory. -/
theorem State.wf_releaseAt (s : State) (t : TileIx) (sc : Scope) (hg : Memory.wf s.gm = true)
    (hh : Memory.wf s.host = true) : Memory.wf (s.releaseAt t sc).gm = true ∧ Memory.wf (s.releaseAt t sc).host = true := by
  cases sc
  · exact ⟨hg, hh⟩
  all_goals exact State.wf_foldl_atHome _ _ hg hh

/-- An acquire at any scope keeps the canonical form of device and host memory. -/
theorem State.wf_acquireAt (s : State) (t : TileIx) (asid : BitVec 7) (sc : Scope) (hg : Memory.wf s.gm = true)
    (hh : Memory.wf s.host = true) :
    Memory.wf (s.acquireAt t asid sc).gm = true ∧ Memory.wf (s.acquireAt t asid sc).host = true := by
  cases sc
  · exact ⟨hg, hh⟩
  · exact ⟨hg, hh⟩
  · exact ⟨hg, hh⟩
  all_goals exact State.wf_foldl_atHome _ _ hg hh

/-- What a tile sends on its way changes no memory. -/
theorem State.gSend_frame (s : State) (t : TileIx) (c : CtxNo) (access : Option (Bool × Nat))
    (els : List (List (BitVec 48 × Nat × GSrc) × List Patch)) :
    (s.gSend t c access els).gm = s.gm ∧ (s.gSend t c access els).host = s.host ∧
    (s.gSend t c access els).clusters = s.clusters ∧ (s.gSend t c access els).dies = s.dies := ⟨rfl, rfl, rfl, rfl⟩

/-- Bytes written to a scratchpad by a task or an engine keep the canonical form of every scratchpad. -/
theorem State.wf_spStore (s : State) (t : TileIx) (c : CtxNo) (a : Nat) (bs : List Byte)
    (h : ∀ x, Memory.wf (s.tile x).sp = true) (x : TileIx) : Memory.wf ((s.spStore t c a bs).tile x).sp = true := by
  simp only [State.spStore, State.spWrite, State.tile_modTile]
  split
  · subst_vars
    exact Tile.wf_spPut _ _ _ (h _)
  · exact h x

end Sys2Proof.Machine
end

