-- ==== Sys2Proof/Laws/PerInstr.lean ====
section
/-! SUPPORT. The encoding of every instruction, one lemma for each constructor: the slot that holds a well-formed instruction's
word decodes it to that instruction. -/

set_option Elab.async false

namespace Sys2Proof.Laws.Roundtrip

/-- The word of a well-formed instruction, in the slot that takes every opcode of its space, decodes to the instruction. -/
def Statement (i : Instr) : Prop :=
  i.wf = true → ∀ ln w, encodeWord i = some (ln, w) → decodeSlot ln.slot w = .ok i

theorem noOpBundle (stall : BitVec 5) : Statement (.noOpBundle stall) := fun _ _ _ e => noWord e

theorem paddingHeader (stall : BitVec 5) : Statement (.paddingHeader stall) := fun _ _ _ e => noWord e

theorem add (d a b : SReg) : Statement (.add d a b) := by
  intro hwf lane word henc
  obtain ⟨rfl, he⟩ := Prod.mk.inj (Option.some.inj henc)
  have op : fld word 25 7 = 1#7 := he ▸ bitsHi (bitsHi (bitsHi (bitsHi bitsAll)))
  have f19_6 : fld word 19 6 = d := he ▸ bitsHi (bitsHi (bitsHi bitsLo))
  have f13_6 : fld word 13 6 = a := he ▸ bitsHi (bitsHi bitsLo)
  have f7_6 : fld word 7 6 = b := he ▸ bitsHi bitsLo
  have f0_7 : fld word 0 7 = 0#7 := he ▸ bitsLo
  refine (scalarAt op).trans ?_
  change ((
      let d : SReg := fld word 19 6
      let a : SReg := fld word 13 6
      let b : SReg := fld word 7 6
      rsv (fld word 0 7 == 0) <|
      .ok (.add d a b) : Except Reject Instr)) = _
  rw [f19_6, f13_6, f7_6, f0_7]
  exact (rsvOk (by rfl)).trans rfl

theorem addi (d a : SReg) (i : BitVec 13) : Statement (.addi d a i) := by
  intro hwf lane word henc
  obtain ⟨rfl, he⟩ := Prod.mk.inj (Option.some.inj henc)
  have op : fld word 25 7 = 2#7 := he ▸ bitsHi (bitsHi (bitsHi bitsAll))
  have f19_6 : fld word 19 6 = d := he ▸ bitsHi (bitsHi bitsLo)
  have f13_6 : fld word 13 6 = a := he ▸ bitsHi bitsLo
  have f0_13 : fld word 0 13 = i := he ▸ bitsLo
  refine (scalarAt op).trans ?_
  change ((
      let d : SReg := fld word 19 6
      let a : SReg := fld word 13 6
      let i : BitVec 13 := fld word 0 13
      .ok (.addi d a i) : Except Reject Instr)) = _
  rw [f19_6, f13_6, f0_13]
  all_goals rfl

theorem sub (d a b : SReg) : Statement (.sub d a b) := by
  intro hwf lane word henc
  obtain ⟨rfl, he⟩ := Prod.mk.inj (Option.some.inj henc)
  have op : fld word 25 7 = 3#7 := he ▸ bitsHi (bitsHi (bitsHi (bitsHi bitsAll)))
  have f19_6 : fld word 19 6 = d := he ▸ bitsHi (bitsHi (bitsHi bitsLo))
  have f13_6 : fld word 13 6 = a := he ▸ bitsHi (bitsHi bitsLo)
  have f7_6 : fld word 7 6 = b := he ▸ bitsHi bitsLo
  have f0_7 : fld word 0 7 = 0#7 := he ▸ bitsLo
  refine (scalarAt op).trans ?_
  change ((
      let d : SReg := fld word 19 6
      let a : SReg := fld word 13 6
      let b : SReg := fld word 7 6
      rsv (fld word 0 7 == 0) <|
      .ok (.sub d a b) : Except Reject Instr)) = _
  rw [f19_6, f13_6, f7_6, f0_7]
  exact (rsvOk (by rfl)).trans rfl

theorem and (d a b : SReg) : Statement (.and d a b) := by
  intro hwf lane word henc
  obtain ⟨rfl, he⟩ := Prod.mk.inj (Option.some.inj henc)
  have op : fld word 25 7 = 4#7 := he ▸ bitsHi (bitsHi (bitsHi (bitsHi bitsAll)))
  have f19_6 : fld word 19 6 = d := he ▸ bitsHi (bitsHi (bitsHi bitsLo))
  have f13_6 : fld word 13 6 = a := he ▸ bitsHi (bitsHi bitsLo)
  have f7_6 : fld word 7 6 = b := he ▸ bitsHi bitsLo
  have f0_7 : fld word 0 7 = 0#7 := he ▸ bitsLo
  refine (scalarAt op).trans ?_
  change ((
      let d : SReg := fld word 19 6
      let a : SReg := fld word 13 6
      let b : SReg := fld word 7 6
      rsv (fld word 0 7 == 0) <|
      .ok (.and d a b) : Except Reject Instr)) = _
  rw [f19_6, f13_6, f7_6, f0_7]
  exact (rsvOk (by rfl)).trans rfl

theorem andi (d a : SReg) (i : BitVec 13) : Statement (.andi d a i) := by
  intro hwf lane word henc
  obtain ⟨rfl, he⟩ := Prod.mk.inj (Option.some.inj henc)
  have op : fld word 25 7 = 5#7 := he ▸ bitsHi (bitsHi (bitsHi bitsAll))
  have f19_6 : fld word 19 6 = d := he ▸ bitsHi (bitsHi bitsLo)
  have f13_6 : fld word 13 6 = a := he ▸ bitsHi bitsLo
  have f0_13 : fld word 0 13 = i := he ▸ bitsLo
  refine (scalarAt op).trans ?_
  change ((
      let d : SReg := fld word 19 6
      let a : SReg := fld word 13 6
      let i : BitVec 13 := fld word 0 13
      .ok (.andi d a i) : Except Reject Instr)) = _
  rw [f19_6, f13_6, f0_13]
  all_goals rfl

theorem or (d a b : SReg) : Statement (.or d a b) := by
  intro hwf lane word henc
  obtain ⟨rfl, he⟩ := Prod.mk.inj (Option.some.inj henc)
  have op : fld word 25 7 = 6#7 := he ▸ bitsHi (bitsHi (bitsHi (bitsHi bitsAll)))
  have f19_6 : fld word 19 6 = d := he ▸ bitsHi (bitsHi (bitsHi bitsLo))
  have f13_6 : fld word 13 6 = a := he ▸ bitsHi (bitsHi bitsLo)
  have f7_6 : fld word 7 6 = b := he ▸ bitsHi bitsLo
  have f0_7 : fld word 0 7 = 0#7 := he ▸ bitsLo
  refine (scalarAt op).trans ?_
  change ((
      let d : SReg := fld word 19 6
      let a : SReg := fld word 13 6
      let b : SReg := fld word 7 6
      rsv (fld word 0 7 == 0) <|
      .ok (.or d a b) : Except Reject Instr)) = _
  rw [f19_6, f13_6, f7_6, f0_7]
  exact (rsvOk (by rfl)).trans rfl

theorem ori (d a : SReg) (i : BitVec 13) : Statement (.ori d a i) := by
  intro hwf lane word henc
  obtain ⟨rfl, he⟩ := Prod.mk.inj (Option.some.inj henc)
  have op : fld word 25 7 = 7#7 := he ▸ bitsHi (bitsHi (bitsHi bitsAll))
  have f19_6 : fld word 19 6 = d := he ▸ bitsHi (bitsHi bitsLo)
  have f13_6 : fld word 13 6 = a := he ▸ bitsHi bitsLo
  have f0_13 : fld word 0 13 = i := he ▸ bitsLo
  refine (scalarAt op).trans ?_
  change ((
      let d : SReg := fld word 19 6
      let a : SReg := fld word 13 6
      let i : BitVec 13 := fld word 0 13
      .ok (.ori d a i) : Except Reject Instr)) = _
  rw [f19_6, f13_6, f0_13]
  all_goals rfl

theorem xor (d a b : SReg) : Statement (.xor d a b) := by
  intro hwf lane word henc
  obtain ⟨rfl, he⟩ := Prod.mk.inj (Option.some.inj henc)
  have op : fld word 25 7 = 8#7 := he ▸ bitsHi (bitsHi (bitsHi (bitsHi bitsAll)))
  have f19_6 : fld word 19 6 = d := he ▸ bitsHi (bitsHi (bitsHi bitsLo))
  have f13_6 : fld word 13 6 = a := he ▸ bitsHi (bitsHi bitsLo)
  have f7_6 : fld word 7 6 = b := he ▸ bitsHi bitsLo
  have f0_7 : fld word 0 7 = 0#7 := he ▸ bitsLo
  refine (scalarAt op).trans ?_
  change ((
      let d : SReg := fld word 19 6
      let a : SReg := fld word 13 6
      let b : SReg := fld word 7 6
      rsv (fld word 0 7 == 0) <|
      .ok (.xor d a b) : Except Reject Instr)) = _
  rw [f19_6, f13_6, f7_6, f0_7]
  exact (rsvOk (by rfl)).trans rfl

theorem xori (d a : SReg) (i : BitVec 13) : Statement (.xori d a i) := by
  intro hwf lane word henc
  obtain ⟨rfl, he⟩ := Prod.mk.inj (Option.some.inj henc)
  have op : fld word 25 7 = 9#7 := he ▸ bitsHi (bitsHi (bitsHi bitsAll))
  have f19_6 : fld word 19 6 = d := he ▸ bitsHi (bitsHi bitsLo)
  have f13_6 : fld word 13 6 = a := he ▸ bitsHi bitsLo
  have f0_13 : fld word 0 13 = i := he ▸ bitsLo
  refine (scalarAt op).trans ?_
  change ((
      let d : SReg := fld word 19 6
      let a : SReg := fld word 13 6
      let i : BitVec 13 := fld word 0 13
      .ok (.xori d a i) : Except Reject Instr)) = _
  rw [f19_6, f13_6, f0_13]
  all_goals rfl

theorem shl (d a b : SReg) : Statement (.shl d a b) := by
  intro hwf lane word henc
  obtain ⟨rfl, he⟩ := Prod.mk.inj (Option.some.inj henc)
  have op : fld word 25 7 = 10#7 := he ▸ bitsHi (bitsHi (bitsHi (bitsHi bitsAll)))
  have f19_6 : fld word 19 6 = d := he ▸ bitsHi (bitsHi (bitsHi bitsLo))
  have f13_6 : fld word 13 6 = a := he ▸ bitsHi (bitsHi bitsLo)
  have f7_6 : fld word 7 6 = b := he ▸ bitsHi bitsLo
  have f0_7 : fld word 0 7 = 0#7 := he ▸ bitsLo
  refine (scalarAt op).trans ?_
  change ((
      let d : SReg := fld word 19 6
      let a : SReg := fld word 13 6
      let b : SReg := fld word 7 6
      rsv (fld word 0 7 == 0) <|
      .ok (.shl d a b) : Except Reject Instr)) = _
  rw [f19_6, f13_6, f7_6, f0_7]
  exact (rsvOk (by rfl)).trans rfl

theorem shli (d a : SReg) (n : BitVec 6) : Statement (.shli d a n) := by
  intro hwf lane word henc
  obtain ⟨rfl, he⟩ := Prod.mk.inj (Option.some.inj henc)
  have op : fld word 25 7 = 11#7 := he ▸ bitsHi (bitsHi (bitsHi (bitsHi bitsAll)))
  have f19_6 : fld word 19 6 = d := he ▸ bitsHi (bitsHi (bitsHi bitsLo))
  have f13_6 : fld word 13 6 = a := he ▸ bitsHi (bitsHi bitsLo)
  have f6_7 : fld word 6 7 = 0#7 := he ▸ bitsHi bitsLo
  have f0_6 : fld word 0 6 = n := he ▸ bitsLo
  refine (scalarAt op).trans ?_
  change ((
      let d : SReg := fld word 19 6
      let a : SReg := fld word 13 6
      let n : BitVec 6 := fld word 0 6
      rsv (fld word 6 7 == 0) <|
      .ok (.shli d a n) : Except Reject Instr)) = _
  rw [f19_6, f13_6, f6_7, f0_6]
  exact (rsvOk (by rfl)).trans rfl

theorem shr (d a b : SReg) : Statement (.shr d a b) := by
  intro hwf lane word henc
  obtain ⟨rfl, he⟩ := Prod.mk.inj (Option.some.inj henc)
  have op : fld word 25 7 = 12#7 := he ▸ bitsHi (bitsHi (bitsHi (bitsHi bitsAll)))
  have f19_6 : fld word 19 6 = d := he ▸ bitsHi (bitsHi (bitsHi bitsLo))
  have f13_6 : fld word 13 6 = a := he ▸ bitsHi (bitsHi bitsLo)
  have f7_6 : fld word 7 6 = b := he ▸ bitsHi bitsLo
  have f0_7 : fld word 0 7 = 0#7 := he ▸ bitsLo
  refine (scalarAt op).trans ?_
  change ((
      let d : SReg := fld word 19 6
      let a : SReg := fld word 13 6
      let b : SReg := fld word 7 6
      rsv (fld word 0 7 == 0) <|
      .ok (.shr d a b) : Except Reject Instr)) = _
  rw [f19_6, f13_6, f7_6, f0_7]
  exact (rsvOk (by rfl)).trans rfl

theorem shri (d a : SReg) (n : BitVec 6) : Statement (.shri d a n) := by
  intro hwf lane word henc
  obtain ⟨rfl, he⟩ := Prod.mk.inj (Option.some.inj henc)
  have op : fld word 25 7 = 13#7 := he ▸ bitsHi (bitsHi (bitsHi (bitsHi bitsAll)))
  have f19_6 : fld word 19 6 = d := he ▸ bitsHi (bitsHi (bitsHi bitsLo))
  have f13_6 : fld word 13 6 = a := he ▸ bitsHi (bitsHi bitsLo)
  have f6_7 : fld word 6 7 = 0#7 := he ▸ bitsHi bitsLo
  have f0_6 : fld word 0 6 = n := he ▸ bitsLo
  refine (scalarAt op).trans ?_
  change ((
      let d : SReg := fld word 19 6
      let a : SReg := fld word 13 6
      let n : BitVec 6 := fld word 0 6
      rsv (fld word 6 7 == 0) <|
      .ok (.shri d a n) : Except Reject Instr)) = _
  rw [f19_6, f13_6, f6_7, f0_6]
  exact (rsvOk (by rfl)).trans rfl

theorem sra (d a b : SReg) : Statement (.sra d a b) := by
  intro hwf lane word henc
  obtain ⟨rfl, he⟩ := Prod.mk.inj (Option.some.inj henc)
  have op : fld word 25 7 = 14#7 := he ▸ bitsHi (bitsHi (bitsHi (bitsHi bitsAll)))
  have f19_6 : fld word 19 6 = d := he ▸ bitsHi (bitsHi (bitsHi bitsLo))
  have f13_6 : fld word 13 6 = a := he ▸ bitsHi (bitsHi bitsLo)
  have f7_6 : fld word 7 6 = b := he ▸ bitsHi bitsLo
  have f0_7 : fld word 0 7 = 0#7 := he ▸ bitsLo
  refine (scalarAt op).trans ?_
  change ((
      let d : SReg := fld word 19 6
      let a : SReg := fld word 13 6
      let b : SReg := fld word 7 6
      rsv (fld word 0 7 == 0) <|
      .ok (.sra d a b) : Except Reject Instr)) = _
  rw [f19_6, f13_6, f7_6, f0_7]
  exact (rsvOk (by rfl)).trans rfl

theorem srai (d a : SReg) (n : BitVec 6) : Statement (.srai d a n) := by
  intro hwf lane word henc
  obtain ⟨rfl, he⟩ := Prod.mk.inj (Option.some.inj henc)
  have op : fld word 25 7 = 15#7 := he ▸ bitsHi (bitsHi (bitsHi (bitsHi bitsAll)))
  have f19_6 : fld word 19 6 = d := he ▸ bitsHi (bitsHi (bitsHi bitsLo))
  have f13_6 : fld word 13 6 = a := he ▸ bitsHi (bitsHi bitsLo)
  have f6_7 : fld word 6 7 = 0#7 := he ▸ bitsHi bitsLo
  have f0_6 : fld word 0 6 = n := he ▸ bitsLo
  refine (scalarAt op).trans ?_
  change ((
      let d : SReg := fld word 19 6
      let a : SReg := fld word 13 6
      let n : BitVec 6 := fld word 0 6
      rsv (fld word 6 7 == 0) <|
      .ok (.srai d a n) : Except Reject Instr)) = _
  rw [f19_6, f13_6, f6_7, f0_6]
  exact (rsvOk (by rfl)).trans rfl

theorem min (d a b : SReg) : Statement (.min d a b) := by
  intro hwf lane word henc
  obtain ⟨rfl, he⟩ := Prod.mk.inj (Option.some.inj henc)
  have op : fld word 25 7 = 16#7 := he ▸ bitsHi (bitsHi (bitsHi (bitsHi bitsAll)))
  have f19_6 : fld word 19 6 = d := he ▸ bitsHi (bitsHi (bitsHi bitsLo))
  have f13_6 : fld word 13 6 = a := he ▸ bitsHi (bitsHi bitsLo)
  have f7_6 : fld word 7 6 = b := he ▸ bitsHi bitsLo
  have f0_7 : fld word 0 7 = 0#7 := he ▸ bitsLo
  refine (scalarAt op).trans ?_
  change ((
      let d : SReg := fld word 19 6
      let a : SReg := fld word 13 6
      let b : SReg := fld word 7 6
      rsv (fld word 0 7 == 0) <|
      .ok (.min d a b) : Except Reject Instr)) = _
  rw [f19_6, f13_6, f7_6, f0_7]
  exact (rsvOk (by rfl)).trans rfl

theorem max (d a b : SReg) : Statement (.max d a b) := by
  intro hwf lane word henc
  obtain ⟨rfl, he⟩ := Prod.mk.inj (Option.some.inj henc)
  have op : fld word 25 7 = 17#7 := he ▸ bitsHi (bitsHi (bitsHi (bitsHi bitsAll)))
  have f19_6 : fld word 19 6 = d := he ▸ bitsHi (bitsHi (bitsHi bitsLo))
  have f13_6 : fld word 13 6 = a := he ▸ bitsHi (bitsHi bitsLo)
  have f7_6 : fld word 7 6 = b := he ▸ bitsHi bitsLo
  have f0_7 : fld word 0 7 = 0#7 := he ▸ bitsLo
  refine (scalarAt op).trans ?_
  change ((
      let d : SReg := fld word 19 6
      let a : SReg := fld word 13 6
      let b : SReg := fld word 7 6
      rsv (fld word 0 7 == 0) <|
      .ok (.max d a b) : Except Reject Instr)) = _
  rw [f19_6, f13_6, f7_6, f0_7]
  exact (rsvOk (by rfl)).trans rfl

theorem minn (d a b : SReg) : Statement (.minn d a b) := by
  intro hwf lane word henc
  obtain ⟨rfl, he⟩ := Prod.mk.inj (Option.some.inj henc)
  have op : fld word 25 7 = 18#7 := he ▸ bitsHi (bitsHi (bitsHi (bitsHi bitsAll)))
  have f19_6 : fld word 19 6 = d := he ▸ bitsHi (bitsHi (bitsHi bitsLo))
  have f13_6 : fld word 13 6 = a := he ▸ bitsHi (bitsHi bitsLo)
  have f7_6 : fld word 7 6 = b := he ▸ bitsHi bitsLo
  have f0_7 : fld word 0 7 = 0#7 := he ▸ bitsLo
  refine (scalarAt op).trans ?_
  change ((
      let d : SReg := fld word 19 6
      let a : SReg := fld word 13 6
      let b : SReg := fld word 7 6
      rsv (fld word 0 7 == 0) <|
      .ok (.minn d a b) : Except Reject Instr)) = _
  rw [f19_6, f13_6, f7_6, f0_7]
  exact (rsvOk (by rfl)).trans rfl

theorem maxn (d a b : SReg) : Statement (.maxn d a b) := by
  intro hwf lane word henc
  obtain ⟨rfl, he⟩ := Prod.mk.inj (Option.some.inj henc)
  have op : fld word 25 7 = 19#7 := he ▸ bitsHi (bitsHi (bitsHi (bitsHi bitsAll)))
  have f19_6 : fld word 19 6 = d := he ▸ bitsHi (bitsHi (bitsHi bitsLo))
  have f13_6 : fld word 13 6 = a := he ▸ bitsHi (bitsHi bitsLo)
  have f7_6 : fld word 7 6 = b := he ▸ bitsHi bitsLo
  have f0_7 : fld word 0 7 = 0#7 := he ▸ bitsLo
  refine (scalarAt op).trans ?_
  change ((
      let d : SReg := fld word 19 6
      let a : SReg := fld word 13 6
      let b : SReg := fld word 7 6
      rsv (fld word 0 7 == 0) <|
      .ok (.maxn d a b) : Except Reject Instr)) = _
  rw [f19_6, f13_6, f7_6, f0_7]
  exact (rsvOk (by rfl)).trans rfl

theorem addx (d a b : SReg) (h : BitVec 3) : Statement (.addx d a b h) := by
  intro hwf lane word henc
  obtain ⟨rfl, he⟩ := Prod.mk.inj (Option.some.inj henc)
  have op : fld word 25 7 = 20#7 := he ▸ bitsHi (bitsHi (bitsHi (bitsHi (bitsHi bitsAll))))
  have f19_6 : fld word 19 6 = d := he ▸ bitsHi (bitsHi (bitsHi (bitsHi bitsLo)))
  have f13_6 : fld word 13 6 = a := he ▸ bitsHi (bitsHi (bitsHi bitsLo))
  have f7_6 : fld word 7 6 = b := he ▸ bitsHi (bitsHi bitsLo)
  have f3_4 : fld word 3 4 = 0#4 := he ▸ bitsHi bitsLo
  have f0_3 : fld word 0 3 = h := he ▸ bitsLo
  refine (scalarAt op).trans ?_
  change ((
      let d : SReg := fld word 19 6
      let a : SReg := fld word 13 6
      let b : SReg := fld word 7 6
      let h : BitVec 3 := fld word 0 3
      rsv (fld word 3 4 == 0) <|
      .ok (.addx d a b h) : Except Reject Instr)) = _
  rw [f19_6, f13_6, f7_6, f3_4, f0_3]
  exact (rsvOk (by rfl)).trans rfl

theorem movi (d : SReg) (i : BitVec 19) : Statement (.movi d i) := by
  intro hwf lane word henc
  obtain ⟨rfl, he⟩ := Prod.mk.inj (Option.some.inj henc)
  have op : fld word 25 7 = 21#7 := he ▸ bitsHi (bitsHi bitsAll)
  have f19_6 : fld word 19 6 = d := he ▸ bitsHi bitsLo
  have f0_19 : fld word 0 19 = i := he ▸ bitsLo
  refine (scalarAt op).trans ?_
  change ((
      let d : SReg := fld word 19 6
      let i : BitVec 19 := fld word 0 19
      .ok (.movi d i) : Except Reject Instr)) = _
  rw [f19_6, f0_19]
  all_goals rfl

theorem movhi (d : SReg) (i : BitVec 16) : Statement (.movhi d i) := by
  intro hwf lane word henc
  obtain ⟨rfl, he⟩ := Prod.mk.inj (Option.some.inj henc)
  have op : fld word 25 7 = 22#7 := he ▸ bitsHi (bitsHi (bitsHi bitsAll))
  have f19_6 : fld word 19 6 = d := he ▸ bitsHi (bitsHi bitsLo)
  have f16_3 : fld word 16 3 = 0#3 := he ▸ bitsHi bitsLo
  have f0_16 : fld word 0 16 = i := he ▸ bitsLo
  refine (scalarAt op).trans ?_
  change ((
      let d : SReg := fld word 19 6
      let i : BitVec 16 := fld word 0 16
      rsv (fld word 16 3 == 0) <|
      .ok (.movhi d i) : Except Reject Instr)) = _
  rw [f19_6, f16_3, f0_16]
  exact (rsvOk (by rfl)).trans rfl

theorem bfx (d a : SReg) (pos len1 : BitVec 6) : Statement (.bfx d a pos len1) := by
  intro hwf lane word henc
  obtain ⟨rfl, he⟩ := Prod.mk.inj (Option.some.inj henc)
  have op : fld word 25 7 = 23#7 := he ▸ bitsHi (bitsHi (bitsHi (bitsHi (bitsHi bitsAll))))
  have f19_6 : fld word 19 6 = d := he ▸ bitsHi (bitsHi (bitsHi (bitsHi bitsLo)))
  have f13_6 : fld word 13 6 = a := he ▸ bitsHi (bitsHi (bitsHi bitsLo))
  have f7_6 : fld word 7 6 = pos := he ▸ bitsHi (bitsHi bitsLo)
  have f1_6 : fld word 1 6 = len1 := he ▸ bitsHi bitsLo
  have f0_1 : fld word 0 1 = 0#1 := he ▸ bitsLo
  have g0 : (decide (pos.toNat + len1.toNat < 64)) = true := hwf
  refine (scalarAt op).trans ?_
  change ((
      let d : SReg := fld word 19 6
      let a : SReg := fld word 13 6
      let pos : BitVec 6 := fld word 7 6
      let len1 : BitVec 6 := fld word 1 6
      gate (decide (pos.toNat + len1.toNat < 64)) <|
      rsv (fld word 0 1 == 0) <|
      .ok (.bfx d a pos len1) : Except Reject Instr)) = _
  rw [f19_6, f13_6, f7_6, f1_6, f0_1]
  exact (gateOk g0).trans ((rsvOk (by rfl)).trans rfl)

theorem bfxs (d a : SReg) (pos len1 : BitVec 6) : Statement (.bfxs d a pos len1) := by
  intro hwf lane word henc
  obtain ⟨rfl, he⟩ := Prod.mk.inj (Option.some.inj henc)
  have op : fld word 25 7 = 24#7 := he ▸ bitsHi (bitsHi (bitsHi (bitsHi (bitsHi bitsAll))))
  have f19_6 : fld word 19 6 = d := he ▸ bitsHi (bitsHi (bitsHi (bitsHi bitsLo)))
  have f13_6 : fld word 13 6 = a := he ▸ bitsHi (bitsHi (bitsHi bitsLo))
  have f7_6 : fld word 7 6 = pos := he ▸ bitsHi (bitsHi bitsLo)
  have f1_6 : fld word 1 6 = len1 := he ▸ bitsHi bitsLo
  have f0_1 : fld word 0 1 = 0#1 := he ▸ bitsLo
  have g0 : (decide (pos.toNat + len1.toNat < 64)) = true := hwf
  refine (scalarAt op).trans ?_
  change ((
      let d : SReg := fld word 19 6
      let a : SReg := fld word 13 6
      let pos : BitVec 6 := fld word 7 6
      let len1 : BitVec 6 := fld word 1 6
      gate (decide (pos.toNat + len1.toNat < 64)) <|
      rsv (fld word 0 1 == 0) <|
      .ok (.bfxs d a pos len1) : Except Reject Instr)) = _
  rw [f19_6, f13_6, f7_6, f1_6, f0_1]
  exact (gateOk g0).trans ((rsvOk (by rfl)).trans rfl)

theorem bfi (d a : SReg) (pos len1 : BitVec 6) : Statement (.bfi d a pos len1) := by
  intro hwf lane word henc
  obtain ⟨rfl, he⟩ := Prod.mk.inj (Option.some.inj henc)
  have op : fld word 25 7 = 25#7 := he ▸ bitsHi (bitsHi (bitsHi (bitsHi (bitsHi bitsAll))))
  have f19_6 : fld word 19 6 = d := he ▸ bitsHi (bitsHi (bitsHi (bitsHi bitsLo)))
  have f13_6 : fld word 13 6 = a := he ▸ bitsHi (bitsHi (bitsHi bitsLo))
  have f7_6 : fld word 7 6 = pos := he ▸ bitsHi (bitsHi bitsLo)
  have f1_6 : fld word 1 6 = len1 := he ▸ bitsHi bitsLo
  have f0_1 : fld word 0 1 = 0#1 := he ▸ bitsLo
  have g0 : (decide (pos.toNat + len1.toNat < 64)) = true := hwf
  refine (scalarAt op).trans ?_
  change ((
      let d : SReg := fld word 19 6
      let a : SReg := fld word 13 6
      let pos : BitVec 6 := fld word 7 6
      let len1 : BitVec 6 := fld word 1 6
      gate (decide (pos.toNat + len1.toNat < 64)) <|
      rsv (fld word 0 1 == 0) <|
      .ok (.bfi d a pos len1) : Except Reject Instr)) = _
  rw [f19_6, f13_6, f7_6, f1_6, f0_1]
  exact (gateOk g0).trans ((rsvOk (by rfl)).trans rfl)

theorem clz (d a : SReg) : Statement (.clz d a) := by
  intro hwf lane word henc
  obtain ⟨rfl, he⟩ := Prod.mk.inj (Option.some.inj henc)
  have op : fld word 25 7 = 26#7 := he ▸ bitsHi (bitsHi (bitsHi bitsAll))
  have f19_6 : fld word 19 6 = d := he ▸ bitsHi (bitsHi bitsLo)
  have f13_6 : fld word 13 6 = a := he ▸ bitsHi bitsLo
  have f0_13 : fld word 0 13 = 0#13 := he ▸ bitsLo
  refine (scalarAt op).trans ?_
  change ((
      let d : SReg := fld word 19 6
      let a : SReg := fld word 13 6
      rsv (fld word 0 13 == 0) <|
      .ok (.clz d a) : Except Reject Instr)) = _
  rw [f19_6, f13_6, f0_13]
  exact (rsvOk (by rfl)).trans rfl

theorem ctz (d a : SReg) : Statement (.ctz d a) := by
  intro hwf lane word henc
  obtain ⟨rfl, he⟩ := Prod.mk.inj (Option.some.inj henc)
  have op : fld word 25 7 = 27#7 := he ▸ bitsHi (bitsHi (bitsHi bitsAll))
  have f19_6 : fld word 19 6 = d := he ▸ bitsHi (bitsHi bitsLo)
  have f13_6 : fld word 13 6 = a := he ▸ bitsHi bitsLo
  have f0_13 : fld word 0 13 = 0#13 := he ▸ bitsLo
  refine (scalarAt op).trans ?_
  change ((
      let d : SReg := fld word 19 6
      let a : SReg := fld word 13 6
      rsv (fld word 0 13 == 0) <|
      .ok (.ctz d a) : Except Reject Instr)) = _
  rw [f19_6, f13_6, f0_13]
  exact (rsvOk (by rfl)).trans rfl

theorem popc (d a : SReg) : Statement (.popc d a) := by
  intro hwf lane word henc
  obtain ⟨rfl, he⟩ := Prod.mk.inj (Option.some.inj henc)
  have op : fld word 25 7 = 28#7 := he ▸ bitsHi (bitsHi (bitsHi bitsAll))
  have f19_6 : fld word 19 6 = d := he ▸ bitsHi (bitsHi bitsLo)
  have f13_6 : fld word 13 6 = a := he ▸ bitsHi bitsLo
  have f0_13 : fld word 0 13 = 0#13 := he ▸ bitsLo
  refine (scalarAt op).trans ?_
  change ((
      let d : SReg := fld word 19 6
      let a : SReg := fld word 13 6
      rsv (fld word 0 13 == 0) <|
      .ok (.popc d a) : Except Reject Instr)) = _
  rw [f19_6, f13_6, f0_13]
  exact (rsvOk (by rfl)).trans rfl

theorem cmp (pd : PReg) (c : Cond) (a b : SReg) : Statement (.cmp pd c a b) := by
  intro hwf lane word henc
  obtain ⟨rfl, he⟩ := Prod.mk.inj (Option.some.inj henc)
  have op : fld word 25 7 = 29#7 := he ▸ bitsHi (bitsHi (bitsHi (bitsHi (bitsHi bitsAll))))
  have f22_3 : fld word 22 3 = pd := he ▸ bitsHi (bitsHi (bitsHi (bitsHi bitsLo)))
  have f18_4 : fld word 18 4 = c.code := he ▸ bitsHi (bitsHi (bitsHi bitsLo))
  have f12_6 : fld word 12 6 = a := he ▸ bitsHi (bitsHi bitsLo)
  have f6_6 : fld word 6 6 = b := he ▸ bitsHi bitsLo
  have f0_6 : fld word 0 6 = 0#6 := he ▸ bitsLo
  have g0 : (c.isInt) = true := hwf
  refine (scalarAt op).trans ?_
  change ((
      let pd : PReg := fld word 22 3
      let a : SReg := fld word 12 6
      let b : SReg := fld word 6 6
      withCode (Cond.ofCode (fld word 18 4)) fun c =>
      gate (c.isInt) <|
      rsv (fld word 0 6 == 0) <|
      .ok (.cmp pd c a b) : Except Reject Instr)) = _
  rw [f22_3, f18_4, f12_6, f6_6, f0_6, Cond.ofCode_code]
  exact (gateOk g0).trans ((rsvOk (by rfl)).trans rfl)

theorem cmpi (pd : PReg) (c : Cond) (a : SReg) (i : BitVec 12) : Statement (.cmpi pd c a i) := by
  intro hwf lane word henc
  obtain ⟨rfl, he⟩ := Prod.mk.inj (Option.some.inj henc)
  have op : fld word 25 7 = 30#7 := he ▸ bitsHi (bitsHi (bitsHi (bitsHi bitsAll)))
  have f22_3 : fld word 22 3 = pd := he ▸ bitsHi (bitsHi (bitsHi bitsLo))
  have f18_4 : fld word 18 4 = c.code := he ▸ bitsHi (bitsHi bitsLo)
  have f12_6 : fld word 12 6 = a := he ▸ bitsHi bitsLo
  have f0_12 : fld word 0 12 = i := he ▸ bitsLo
  have g0 : (c.isInt) = true := hwf
  refine (scalarAt op).trans ?_
  change ((
      let pd : PReg := fld word 22 3
      let a : SReg := fld word 12 6
      let i : BitVec 12 := fld word 0 12
      withCode (Cond.ofCode (fld word 18 4)) fun c =>
      gate (c.isInt) <|
      .ok (.cmpi pd c a i) : Except Reject Instr)) = _
  rw [f22_3, f18_4, f12_6, f0_12, Cond.ofCode_code]
  exact (gateOk g0).trans rfl

theorem sel (d a b : SReg) (neg : Bool) (q : PReg) : Statement (.sel d a b neg q) := by
  intro hwf lane word henc
  obtain ⟨rfl, he⟩ := Prod.mk.inj (Option.some.inj henc)
  have op : fld word 25 7 = 31#7 := he ▸ bitsHi (bitsHi (bitsHi (bitsHi (bitsHi (bitsHi bitsAll)))))
  have f19_6 : fld word 19 6 = d := he ▸ bitsHi (bitsHi (bitsHi (bitsHi (bitsHi bitsLo))))
  have f13_6 : fld word 13 6 = a := he ▸ bitsHi (bitsHi (bitsHi (bitsHi bitsLo)))
  have f7_6 : fld word 7 6 = b := he ▸ bitsHi (bitsHi (bitsHi bitsLo))
  have f4_3 : fld word 4 3 = 0#3 := he ▸ bitsHi (bitsHi bitsLo)
  have f3_1 : fld word 3 1 = BitVec.ofBool neg := he ▸ bitsHi bitsLo
  have f0_3 : fld word 0 3 = q := he ▸ bitsLo
  refine (scalarAt op).trans ?_
  change ((
      let d : SReg := fld word 19 6
      let a : SReg := fld word 13 6
      let b : SReg := fld word 7 6
      let neg : Bool := fld word 3 1 == 1
      let q : PReg := fld word 0 3
      rsv (fld word 4 3 == 0) <|
      .ok (.sel d a b neg q) : Except Reject Instr)) = _
  rw [f19_6, f13_6, f7_6, f4_3, f3_1, f0_3, ofBool_beq_one]
  exact (rsvOk (by rfl)).trans rfl

theorem plog (pd pa pb : PReg) (tb : BitVec 4) : Statement (.plog pd pa pb tb) := by
  intro hwf lane word henc
  obtain ⟨rfl, he⟩ := Prod.mk.inj (Option.some.inj henc)
  have op : fld word 25 7 = 32#7 := he ▸ bitsHi (bitsHi (bitsHi (bitsHi (bitsHi bitsAll))))
  have f22_3 : fld word 22 3 = pd := he ▸ bitsHi (bitsHi (bitsHi (bitsHi bitsLo)))
  have f19_3 : fld word 19 3 = pa := he ▸ bitsHi (bitsHi (bitsHi bitsLo))
  have f16_3 : fld word 16 3 = pb := he ▸ bitsHi (bitsHi bitsLo)
  have f12_4 : fld word 12 4 = tb := he ▸ bitsHi bitsLo
  have f0_12 : fld word 0 12 = 0#12 := he ▸ bitsLo
  refine (scalarAt op).trans ?_
  change ((
      let pd : PReg := fld word 22 3
      let pa : PReg := fld word 19 3
      let pb : PReg := fld word 16 3
      let tb : BitVec 4 := fld word 12 4
      rsv (fld word 0 12 == 0) <|
      .ok (.plog pd pa pb tb) : Except Reject Instr)) = _
  rw [f22_3, f19_3, f16_3, f12_4, f0_12]
  exact (rsvOk (by rfl)).trans rfl

theorem movp (d : SReg) : Statement (.movp d) := by
  intro hwf lane word henc
  obtain ⟨rfl, he⟩ := Prod.mk.inj (Option.some.inj henc)
  have op : fld word 25 7 = 33#7 := he ▸ bitsHi (bitsHi (bitsHi bitsAll))
  have f19_6 : fld word 19 6 = d := he ▸ bitsHi (bitsHi bitsLo)
  have f1_18 : fld word 1 18 = 0#18 := he ▸ bitsHi bitsLo
  have f0_1 : fld word 0 1 = 0#1 := he ▸ bitsLo
  refine (scalarAt op).trans ?_
  change ((
      match (fld word 0 1).toNat with
      | 0 =>
        let d : SReg := fld word 19 6
        rsv (fld word 1 18 == 0) <|
        .ok (.movp d)
      | 1 =>
        let a : SReg := fld word 13 6
        rsv (fld word 1 12 == 0 && fld word 19 6 == 0) <|
        .ok (.movpSet a)
      | _ => .error .illegalOp : Except Reject Instr)) = _
  rw [f19_6, f1_18, f0_1]
  exact (rsvOk (by rfl)).trans rfl

theorem movpSet (a : SReg) : Statement (.movpSet a) := by
  intro hwf lane word henc
  obtain ⟨rfl, he⟩ := Prod.mk.inj (Option.some.inj henc)
  have op : fld word 25 7 = 33#7 := he ▸ bitsHi (bitsHi (bitsHi (bitsHi bitsAll)))
  have f19_6 : fld word 19 6 = 0#6 := he ▸ bitsHi (bitsHi (bitsHi bitsLo))
  have f13_6 : fld word 13 6 = a := he ▸ bitsHi (bitsHi bitsLo)
  have f1_12 : fld word 1 12 = 0#12 := he ▸ bitsHi bitsLo
  have f0_1 : fld word 0 1 = 1#1 := he ▸ bitsLo
  refine (scalarAt op).trans ?_
  change ((
      match (fld word 0 1).toNat with
      | 0 =>
        let d : SReg := fld word 19 6
        rsv (fld word 1 18 == 0) <|
        .ok (.movp d)
      | 1 =>
        let a : SReg := fld word 13 6
        rsv (fld word 1 12 == 0 && fld word 19 6 == 0) <|
        .ok (.movpSet a)
      | _ => .error .illegalOp : Except Reject Instr)) = _
  rw [f19_6, f13_6, f1_12, f0_1]
  exact (rsvOk (by rfl)).trans rfl

theorem mul (d a b : SReg) : Statement (.mul d a b) := by
  intro hwf lane word henc
  obtain ⟨rfl, he⟩ := Prod.mk.inj (Option.some.inj henc)
  have op : fld word 25 7 = 34#7 := he ▸ bitsHi (bitsHi (bitsHi (bitsHi bitsAll)))
  have f19_6 : fld word 19 6 = d := he ▸ bitsHi (bitsHi (bitsHi bitsLo))
  have f13_6 : fld word 13 6 = a := he ▸ bitsHi (bitsHi bitsLo)
  have f7_6 : fld word 7 6 = b := he ▸ bitsHi bitsLo
  have f0_7 : fld word 0 7 = 0#7 := he ▸ bitsLo
  refine (scalarAt op).trans ?_
  change ((
      let d : SReg := fld word 19 6
      let a : SReg := fld word 13 6
      let b : SReg := fld word 7 6
      rsv (fld word 0 7 == 0) <|
      .ok (.mul d a b) : Except Reject Instr)) = _
  rw [f19_6, f13_6, f7_6, f0_7]
  exact (rsvOk (by rfl)).trans rfl

theorem mulh (d a b : SReg) : Statement (.mulh d a b) := by
  intro hwf lane word henc
  obtain ⟨rfl, he⟩ := Prod.mk.inj (Option.some.inj henc)
  have op : fld word 25 7 = 35#7 := he ▸ bitsHi (bitsHi (bitsHi (bitsHi bitsAll)))
  have f19_6 : fld word 19 6 = d := he ▸ bitsHi (bitsHi (bitsHi bitsLo))
  have f13_6 : fld word 13 6 = a := he ▸ bitsHi (bitsHi bitsLo)
  have f7_6 : fld word 7 6 = b := he ▸ bitsHi bitsLo
  have f0_7 : fld word 0 7 = 0#7 := he ▸ bitsLo
  refine (scalarAt op).trans ?_
  change ((
      let d : SReg := fld word 19 6
      let a : SReg := fld word 13 6
      let b : SReg := fld word 7 6
      rsv (fld word 0 7 == 0) <|
      .ok (.mulh d a b) : Except Reject Instr)) = _
  rw [f19_6, f13_6, f7_6, f0_7]
  exact (rsvOk (by rfl)).trans rfl

theorem mulhn (d a b : SReg) : Statement (.mulhn d a b) := by
  intro hwf lane word henc
  obtain ⟨rfl, he⟩ := Prod.mk.inj (Option.some.inj henc)
  have op : fld word 25 7 = 36#7 := he ▸ bitsHi (bitsHi (bitsHi (bitsHi bitsAll)))
  have f19_6 : fld word 19 6 = d := he ▸ bitsHi (bitsHi (bitsHi bitsLo))
  have f13_6 : fld word 13 6 = a := he ▸ bitsHi (bitsHi bitsLo)
  have f7_6 : fld word 7 6 = b := he ▸ bitsHi bitsLo
  have f0_7 : fld word 0 7 = 0#7 := he ▸ bitsLo
  refine (scalarAt op).trans ?_
  change ((
      let d : SReg := fld word 19 6
      let a : SReg := fld word 13 6
      let b : SReg := fld word 7 6
      rsv (fld word 0 7 == 0) <|
      .ok (.mulhn d a b) : Except Reject Instr)) = _
  rw [f19_6, f13_6, f7_6, f0_7]
  exact (rsvOk (by rfl)).trans rfl

theorem div (d a b : SReg) : Statement (.div d a b) := by
  intro hwf lane word henc
  obtain ⟨rfl, he⟩ := Prod.mk.inj (Option.some.inj henc)
  have op : fld word 25 7 = 37#7 := he ▸ bitsHi (bitsHi (bitsHi (bitsHi bitsAll)))
  have f19_6 : fld word 19 6 = d := he ▸ bitsHi (bitsHi (bitsHi bitsLo))
  have f13_6 : fld word 13 6 = a := he ▸ bitsHi (bitsHi bitsLo)
  have f7_6 : fld word 7 6 = b := he ▸ bitsHi bitsLo
  have f0_7 : fld word 0 7 = 0#7 := he ▸ bitsLo
  refine (scalarAt op).trans ?_
  change ((
      let d : SReg := fld word 19 6
      let a : SReg := fld word 13 6
      let b : SReg := fld word 7 6
      rsv (fld word 0 7 == 0) <|
      .ok (.div d a b) : Except Reject Instr)) = _
  rw [f19_6, f13_6, f7_6, f0_7]
  exact (rsvOk (by rfl)).trans rfl

theorem divn (d a b : SReg) : Statement (.divn d a b) := by
  intro hwf lane word henc
  obtain ⟨rfl, he⟩ := Prod.mk.inj (Option.some.inj henc)
  have op : fld word 25 7 = 38#7 := he ▸ bitsHi (bitsHi (bitsHi (bitsHi bitsAll)))
  have f19_6 : fld word 19 6 = d := he ▸ bitsHi (bitsHi (bitsHi bitsLo))
  have f13_6 : fld word 13 6 = a := he ▸ bitsHi (bitsHi bitsLo)
  have f7_6 : fld word 7 6 = b := he ▸ bitsHi bitsLo
  have f0_7 : fld word 0 7 = 0#7 := he ▸ bitsLo
  refine (scalarAt op).trans ?_
  change ((
      let d : SReg := fld word 19 6
      let a : SReg := fld word 13 6
      let b : SReg := fld word 7 6
      rsv (fld word 0 7 == 0) <|
      .ok (.divn d a b) : Except Reject Instr)) = _
  rw [f19_6, f13_6, f7_6, f0_7]
  exact (rsvOk (by rfl)).trans rfl

theorem rem (d a b : SReg) : Statement (.rem d a b) := by
  intro hwf lane word henc
  obtain ⟨rfl, he⟩ := Prod.mk.inj (Option.some.inj henc)
  have op : fld word 25 7 = 39#7 := he ▸ bitsHi (bitsHi (bitsHi (bitsHi bitsAll)))
  have f19_6 : fld word 19 6 = d := he ▸ bitsHi (bitsHi (bitsHi bitsLo))
  have f13_6 : fld word 13 6 = a := he ▸ bitsHi (bitsHi bitsLo)
  have f7_6 : fld word 7 6 = b := he ▸ bitsHi bitsLo
  have f0_7 : fld word 0 7 = 0#7 := he ▸ bitsLo
  refine (scalarAt op).trans ?_
  change ((
      let d : SReg := fld word 19 6
      let a : SReg := fld word 13 6
      let b : SReg := fld word 7 6
      rsv (fld word 0 7 == 0) <|
      .ok (.rem d a b) : Except Reject Instr)) = _
  rw [f19_6, f13_6, f7_6, f0_7]
  exact (rsvOk (by rfl)).trans rfl

theorem remn (d a b : SReg) : Statement (.remn d a b) := by
  intro hwf lane word henc
  obtain ⟨rfl, he⟩ := Prod.mk.inj (Option.some.inj henc)
  have op : fld word 25 7 = 40#7 := he ▸ bitsHi (bitsHi (bitsHi (bitsHi bitsAll)))
  have f19_6 : fld word 19 6 = d := he ▸ bitsHi (bitsHi (bitsHi bitsLo))
  have f13_6 : fld word 13 6 = a := he ▸ bitsHi (bitsHi bitsLo)
  have f7_6 : fld word 7 6 = b := he ▸ bitsHi bitsLo
  have f0_7 : fld word 0 7 = 0#7 := he ▸ bitsLo
  refine (scalarAt op).trans ?_
  change ((
      let d : SReg := fld word 19 6
      let a : SReg := fld word 13 6
      let b : SReg := fld word 7 6
      rsv (fld word 0 7 == 0) <|
      .ok (.remn d a b) : Except Reject Instr)) = _
  rw [f19_6, f13_6, f7_6, f0_7]
  exact (rsvOk (by rfl)).trans rfl

theorem sfadd (d a b : SReg) (t : ETy) (r : RM) : Statement (.sfadd d a b t r) := by
  intro hwf lane word henc
  obtain ⟨rfl, he⟩ := Prod.mk.inj (Option.some.inj henc)
  have op : fld word 25 7 = 41#7 := he ▸ bitsHi (bitsHi (bitsHi (bitsHi (bitsHi bitsAll))))
  have f19_6 : fld word 19 6 = d := he ▸ bitsHi (bitsHi (bitsHi (bitsHi bitsLo)))
  have f13_6 : fld word 13 6 = a := he ▸ bitsHi (bitsHi (bitsHi bitsLo))
  have f7_6 : fld word 7 6 = b := he ▸ bitsHi (bitsHi bitsLo)
  have f3_4 : fld word 3 4 = t.code := he ▸ bitsHi bitsLo
  have f0_3 : fld word 0 3 = r.code := he ▸ bitsLo
  have g0 : (t.isScalarFloat && r.isArith) = true := hwf
  refine (scalarAt op).trans ?_
  change ((
      let d : SReg := fld word 19 6
      let a : SReg := fld word 13 6
      let b : SReg := fld word 7 6
      withCode (ETy.ofCode (fld word 3 4)) fun t =>
      withCode (RM.ofCode (fld word 0 3)) fun r =>
      gate (t.isScalarFloat && r.isArith) <|
      .ok (.sfadd d a b t r) : Except Reject Instr)) = _
  rw [f19_6, f13_6, f7_6, f3_4, f0_3, ETy.ofCode_code, RM.ofCode_code]
  exact (gateOk g0).trans rfl

theorem sfsub (d a b : SReg) (t : ETy) (r : RM) : Statement (.sfsub d a b t r) := by
  intro hwf lane word henc
  obtain ⟨rfl, he⟩ := Prod.mk.inj (Option.some.inj henc)
  have op : fld word 25 7 = 42#7 := he ▸ bitsHi (bitsHi (bitsHi (bitsHi (bitsHi bitsAll))))
  have f19_6 : fld word 19 6 = d := he ▸ bitsHi (bitsHi (bitsHi (bitsHi bitsLo)))
  have f13_6 : fld word 13 6 = a := he ▸ bitsHi (bitsHi (bitsHi bitsLo))
  have f7_6 : fld word 7 6 = b := he ▸ bitsHi (bitsHi bitsLo)
  have f3_4 : fld word 3 4 = t.code := he ▸ bitsHi bitsLo
  have f0_3 : fld word 0 3 = r.code := he ▸ bitsLo
  have g0 : (t.isScalarFloat && r.isArith) = true := hwf
  refine (scalarAt op).trans ?_
  change ((
      let d : SReg := fld word 19 6
      let a : SReg := fld word 13 6
      let b : SReg := fld word 7 6
      withCode (ETy.ofCode (fld word 3 4)) fun t =>
      withCode (RM.ofCode (fld word 0 3)) fun r =>
      gate (t.isScalarFloat && r.isArith) <|
      .ok (.sfsub d a b t r) : Except Reject Instr)) = _
  rw [f19_6, f13_6, f7_6, f3_4, f0_3, ETy.ofCode_code, RM.ofCode_code]
  exact (gateOk g0).trans rfl

theorem sfmul (d a b : SReg) (t : ETy) (r : RM) : Statement (.sfmul d a b t r) := by
  intro hwf lane word henc
  obtain ⟨rfl, he⟩ := Prod.mk.inj (Option.some.inj henc)
  have op : fld word 25 7 = 43#7 := he ▸ bitsHi (bitsHi (bitsHi (bitsHi (bitsHi bitsAll))))
  have f19_6 : fld word 19 6 = d := he ▸ bitsHi (bitsHi (bitsHi (bitsHi bitsLo)))
  have f13_6 : fld word 13 6 = a := he ▸ bitsHi (bitsHi (bitsHi bitsLo))
  have f7_6 : fld word 7 6 = b := he ▸ bitsHi (bitsHi bitsLo)
  have f3_4 : fld word 3 4 = t.code := he ▸ bitsHi bitsLo
  have f0_3 : fld word 0 3 = r.code := he ▸ bitsLo
  have g0 : (t.isScalarFloat && r.isArith) = true := hwf
  refine (scalarAt op).trans ?_
  change ((
      let d : SReg := fld word 19 6
      let a : SReg := fld word 13 6
      let b : SReg := fld word 7 6
      withCode (ETy.ofCode (fld word 3 4)) fun t =>
      withCode (RM.ofCode (fld word 0 3)) fun r =>
      gate (t.isScalarFloat && r.isArith) <|
      .ok (.sfmul d a b t r) : Except Reject Instr)) = _
  rw [f19_6, f13_6, f7_6, f3_4, f0_3, ETy.ofCode_code, RM.ofCode_code]
  exact (gateOk g0).trans rfl

theorem sfma (d a b : SReg) (t : ETy) (r : RM) : Statement (.sfma d a b t r) := by
  intro hwf lane word henc
  obtain ⟨rfl, he⟩ := Prod.mk.inj (Option.some.inj henc)
  have op : fld word 25 7 = 44#7 := he ▸ bitsHi (bitsHi (bitsHi (bitsHi (bitsHi bitsAll))))
  have f19_6 : fld word 19 6 = d := he ▸ bitsHi (bitsHi (bitsHi (bitsHi bitsLo)))
  have f13_6 : fld word 13 6 = a := he ▸ bitsHi (bitsHi (bitsHi bitsLo))
  have f7_6 : fld word 7 6 = b := he ▸ bitsHi (bitsHi bitsLo)
  have f3_4 : fld word 3 4 = t.code := he ▸ bitsHi bitsLo
  have f0_3 : fld word 0 3 = r.code := he ▸ bitsLo
  have g0 : (t.isScalarFloat && r.isArith) = true := hwf
  refine (scalarAt op).trans ?_
  change ((
      let d : SReg := fld word 19 6
      let a : SReg := fld word 13 6
      let b : SReg := fld word 7 6
      withCode (ETy.ofCode (fld word 3 4)) fun t =>
      withCode (RM.ofCode (fld word 0 3)) fun r =>
      gate (t.isScalarFloat && r.isArith) <|
      .ok (.sfma d a b t r) : Except Reject Instr)) = _
  rw [f19_6, f13_6, f7_6, f3_4, f0_3, ETy.ofCode_code, RM.ofCode_code]
  exact (gateOk g0).trans rfl

theorem sfmin (d a b : SReg) (t : ETy) : Statement (.sfmin d a b t) := by
  intro hwf lane word henc
  obtain ⟨rfl, he⟩ := Prod.mk.inj (Option.some.inj henc)
  have op : fld word 25 7 = 45#7 := he ▸ bitsHi (bitsHi (bitsHi (bitsHi (bitsHi bitsAll))))
  have f19_6 : fld word 19 6 = d := he ▸ bitsHi (bitsHi (bitsHi (bitsHi bitsLo)))
  have f13_6 : fld word 13 6 = a := he ▸ bitsHi (bitsHi (bitsHi bitsLo))
  have f7_6 : fld word 7 6 = b := he ▸ bitsHi (bitsHi bitsLo)
  have f3_4 : fld word 3 4 = t.code := he ▸ bitsHi bitsLo
  have f0_3 : fld word 0 3 = 0#3 := he ▸ bitsLo
  have g0 : (t.isScalarFloat) = true := hwf
  refine (scalarAt op).trans ?_
  change ((
      let d : SReg := fld word 19 6
      let a : SReg := fld word 13 6
      let b : SReg := fld word 7 6
      withCode (ETy.ofCode (fld word 3 4)) fun t =>
      gate (t.isScalarFloat) <|
      rsv (fld word 0 3 == 0) <|
      .ok (.sfmin d a b t) : Except Reject Instr)) = _
  rw [f19_6, f13_6, f7_6, f3_4, f0_3, ETy.ofCode_code]
  exact (gateOk g0).trans ((rsvOk (by rfl)).trans rfl)

theorem sfmax (d a b : SReg) (t : ETy) : Statement (.sfmax d a b t) := by
  intro hwf lane word henc
  obtain ⟨rfl, he⟩ := Prod.mk.inj (Option.some.inj henc)
  have op : fld word 25 7 = 46#7 := he ▸ bitsHi (bitsHi (bitsHi (bitsHi (bitsHi bitsAll))))
  have f19_6 : fld word 19 6 = d := he ▸ bitsHi (bitsHi (bitsHi (bitsHi bitsLo)))
  have f13_6 : fld word 13 6 = a := he ▸ bitsHi (bitsHi (bitsHi bitsLo))
  have f7_6 : fld word 7 6 = b := he ▸ bitsHi (bitsHi bitsLo)
  have f3_4 : fld word 3 4 = t.code := he ▸ bitsHi bitsLo
  have f0_3 : fld word 0 3 = 0#3 := he ▸ bitsLo
  have g0 : (t.isScalarFloat) = true := hwf
  refine (scalarAt op).trans ?_
  change ((
      let d : SReg := fld word 19 6
      let a : SReg := fld word 13 6
      let b : SReg := fld word 7 6
      withCode (ETy.ofCode (fld word 3 4)) fun t =>
      gate (t.isScalarFloat) <|
      rsv (fld word 0 3 == 0) <|
      .ok (.sfmax d a b t) : Except Reject Instr)) = _
  rw [f19_6, f13_6, f7_6, f3_4, f0_3, ETy.ofCode_code]
  exact (gateOk g0).trans ((rsvOk (by rfl)).trans rfl)

theorem sfcmp (pd : PReg) (c : Cond) (a b : SReg) (t : ETy) : Statement (.sfcmp pd c a b t) := by
  intro hwf lane word henc
  obtain ⟨rfl, he⟩ := Prod.mk.inj (Option.some.inj henc)
  have op : fld word 25 7 = 47#7 := he ▸ bitsHi (bitsHi (bitsHi (bitsHi (bitsHi (bitsHi bitsAll)))))
  have f22_3 : fld word 22 3 = pd := he ▸ bitsHi (bitsHi (bitsHi (bitsHi (bitsHi bitsLo))))
  have f18_4 : fld word 18 4 = c.code := he ▸ bitsHi (bitsHi (bitsHi (bitsHi bitsLo)))
  have f12_6 : fld word 12 6 = a := he ▸ bitsHi (bitsHi (bitsHi bitsLo))
  have f6_6 : fld word 6 6 = b := he ▸ bitsHi (bitsHi bitsLo)
  have f2_4 : fld word 2 4 = t.code := he ▸ bitsHi bitsLo
  have f0_2 : fld word 0 2 = 0#2 := he ▸ bitsLo
  have g0 : (c.isFloat && t.isScalarFloat) = true := hwf
  refine (scalarAt op).trans ?_
  change ((
      let pd : PReg := fld word 22 3
      let a : SReg := fld word 12 6
      let b : SReg := fld word 6 6
      withCode (Cond.ofCode (fld word 18 4)) fun c =>
      withCode (ETy.ofCode (fld word 2 4)) fun t =>
      gate (c.isFloat && t.isScalarFloat) <|
      rsv (fld word 0 2 == 0) <|
      .ok (.sfcmp pd c a b t) : Except Reject Instr)) = _
  rw [f22_3, f18_4, f12_6, f6_6, f2_4, f0_2, Cond.ofCode_code, ETy.ofCode_code]
  exact (gateOk g0).trans ((rsvOk (by rfl)).trans rfl)

theorem sfcvt (d a : SReg) (dty sty : ETy) (r : RM) : Statement (.sfcvt d a dty sty r) := by
  intro hwf lane word henc
  obtain ⟨rfl, he⟩ := Prod.mk.inj (Option.some.inj henc)
  have op : fld word 25 7 = 48#7 := he ▸ bitsHi (bitsHi (bitsHi (bitsHi (bitsHi (bitsHi bitsAll)))))
  have f19_6 : fld word 19 6 = d := he ▸ bitsHi (bitsHi (bitsHi (bitsHi (bitsHi bitsLo))))
  have f13_6 : fld word 13 6 = a := he ▸ bitsHi (bitsHi (bitsHi (bitsHi bitsLo)))
  have f9_4 : fld word 9 4 = dty.code := he ▸ bitsHi (bitsHi (bitsHi bitsLo))
  have f7_2 : fld word 7 2 = 0#2 := he ▸ bitsHi (bitsHi bitsLo)
  have f3_4 : fld word 3 4 = sty.code := he ▸ bitsHi bitsLo
  have f0_3 : fld word 0 3 = r.code := he ▸ bitsLo
  refine (scalarAt op).trans ?_
  change ((
      let d : SReg := fld word 19 6
      let a : SReg := fld word 13 6
      withCode (ETy.ofCode (fld word 9 4)) fun dty =>
      withCode (ETy.ofCode (fld word 3 4)) fun sty =>
      withCode (RM.ofCode (fld word 0 3)) fun r =>
      rsv (fld word 7 2 == 0) <|
      .ok (.sfcvt d a dty sty r) : Except Reject Instr)) = _
  rw [f19_6, f13_6, f9_4, f7_2, f3_4, f0_3, ETy.ofCode_code, ETy.ofCode_code, RM.ofCode_code]
  exact (rsvOk (by rfl)).trans rfl

theorem br (q : PReg) (neg : Bool) (o : BitVec 21) : Statement (.br q neg o) := by
  intro hwf lane word henc
  obtain ⟨rfl, he⟩ := Prod.mk.inj (Option.some.inj henc)
  have op : fld word 25 7 = 1#7 := he ▸ bitsHi (bitsHi (bitsHi bitsAll))
  have f22_3 : fld word 22 3 = q := he ▸ bitsHi (bitsHi bitsLo)
  have f21_1 : fld word 21 1 = BitVec.ofBool neg := he ▸ bitsHi bitsLo
  have f0_21 : fld word 0 21 = o := he ▸ bitsLo
  refine (controlAt op).trans ?_
  change ((
      let q : PReg := fld word 22 3
      let neg : Bool := fld word 21 1 == 1
      let o : BitVec 21 := fld word 0 21
      .ok (.br q neg o) : Except Reject Instr)) = _
  rw [f22_3, f21_1, f0_21, ofBool_beq_one]
  all_goals rfl

theorem brp (q : PReg) (neg : Bool) (o : BitVec 21) : Statement (.brp q neg o) := by
  intro hwf lane word henc
  obtain ⟨rfl, he⟩ := Prod.mk.inj (Option.some.inj henc)
  have op : fld word 25 7 = 2#7 := he ▸ bitsHi (bitsHi (bitsHi bitsAll))
  have f22_3 : fld word 22 3 = q := he ▸ bitsHi (bitsHi bitsLo)
  have f21_1 : fld word 21 1 = BitVec.ofBool neg := he ▸ bitsHi bitsLo
  have f0_21 : fld word 0 21 = o := he ▸ bitsLo
  refine (controlAt op).trans ?_
  change ((
      let q : PReg := fld word 22 3
      let neg : Bool := fld word 21 1 == 1
      let o : BitVec 21 := fld word 0 21
      .ok (.brp q neg o) : Except Reject Instr)) = _
  rw [f22_3, f21_1, f0_21, ofBool_beq_one]
  all_goals rfl

theorem jr (a : SReg) (neg : Bool) (q : PReg) : Statement (.jr a neg q) := by
  intro hwf lane word henc
  obtain ⟨rfl, he⟩ := Prod.mk.inj (Option.some.inj henc)
  have op : fld word 25 7 = 3#7 := he ▸ bitsHi (bitsHi (bitsHi (bitsHi (bitsHi bitsAll))))
  have f19_6 : fld word 19 6 = 0#6 := he ▸ bitsHi (bitsHi (bitsHi (bitsHi bitsLo)))
  have f13_6 : fld word 13 6 = a := he ▸ bitsHi (bitsHi (bitsHi bitsLo))
  have f4_9 : fld word 4 9 = 0#9 := he ▸ bitsHi (bitsHi bitsLo)
  have f3_1 : fld word 3 1 = BitVec.ofBool neg := he ▸ bitsHi bitsLo
  have f0_3 : fld word 0 3 = q := he ▸ bitsLo
  refine (controlAt op).trans ?_
  change ((
      let a : SReg := fld word 13 6
      let neg : Bool := fld word 3 1 == 1
      let q : PReg := fld word 0 3
      rsv (fld word 4 9 == 0 && fld word 19 6 == 0) <|
      .ok (.jr a neg q) : Except Reject Instr)) = _
  rw [f19_6, f13_6, f4_9, f3_1, f0_3, ofBool_beq_one]
  exact (rsvOk (by rfl)).trans rfl

theorem call (q : PReg) (neg : Bool) (o : BitVec 21) : Statement (.call q neg o) := by
  intro hwf lane word henc
  obtain ⟨rfl, he⟩ := Prod.mk.inj (Option.some.inj henc)
  have op : fld word 25 7 = 4#7 := he ▸ bitsHi (bitsHi (bitsHi bitsAll))
  have f22_3 : fld word 22 3 = q := he ▸ bitsHi (bitsHi bitsLo)
  have f21_1 : fld word 21 1 = BitVec.ofBool neg := he ▸ bitsHi bitsLo
  have f0_21 : fld word 0 21 = o := he ▸ bitsLo
  refine (controlAt op).trans ?_
  change ((
      let q : PReg := fld word 22 3
      let neg : Bool := fld word 21 1 == 1
      let o : BitVec 21 := fld word 0 21
      .ok (.call q neg o) : Except Reject Instr)) = _
  rw [f22_3, f21_1, f0_21, ofBool_beq_one]
  all_goals rfl

theorem callr (a : SReg) (neg : Bool) (q : PReg) : Statement (.callr a neg q) := by
  intro hwf lane word henc
  obtain ⟨rfl, he⟩ := Prod.mk.inj (Option.some.inj henc)
  have op : fld word 25 7 = 5#7 := he ▸ bitsHi (bitsHi (bitsHi (bitsHi (bitsHi bitsAll))))
  have f19_6 : fld word 19 6 = 0#6 := he ▸ bitsHi (bitsHi (bitsHi (bitsHi bitsLo)))
  have f13_6 : fld word 13 6 = a := he ▸ bitsHi (bitsHi (bitsHi bitsLo))
  have f4_9 : fld word 4 9 = 0#9 := he ▸ bitsHi (bitsHi bitsLo)
  have f3_1 : fld word 3 1 = BitVec.ofBool neg := he ▸ bitsHi bitsLo
  have f0_3 : fld word 0 3 = q := he ▸ bitsLo
  refine (controlAt op).trans ?_
  change ((
      let a : SReg := fld word 13 6
      let neg : Bool := fld word 3 1 == 1
      let q : PReg := fld word 0 3
      rsv (fld word 4 9 == 0 && fld word 19 6 == 0) <|
      .ok (.callr a neg q) : Except Reject Instr)) = _
  rw [f19_6, f13_6, f4_9, f3_1, f0_3, ofBool_beq_one]
  exact (rsvOk (by rfl)).trans rfl

theorem ret (a : SReg) (neg : Bool) (q : PReg) : Statement (.ret a neg q) := by
  intro hwf lane word henc
  obtain ⟨rfl, he⟩ := Prod.mk.inj (Option.some.inj henc)
  have op : fld word 25 7 = 6#7 := he ▸ bitsHi (bitsHi (bitsHi (bitsHi (bitsHi bitsAll))))
  have f19_6 : fld word 19 6 = 0#6 := he ▸ bitsHi (bitsHi (bitsHi (bitsHi bitsLo)))
  have f13_6 : fld word 13 6 = a := he ▸ bitsHi (bitsHi (bitsHi bitsLo))
  have f4_9 : fld word 4 9 = 0#9 := he ▸ bitsHi (bitsHi bitsLo)
  have f3_1 : fld word 3 1 = BitVec.ofBool neg := he ▸ bitsHi bitsLo
  have f0_3 : fld word 0 3 = q := he ▸ bitsLo
  refine (controlAt op).trans ?_
  change ((
      let a : SReg := fld word 13 6
      let neg : Bool := fld word 3 1 == 1
      let q : PReg := fld word 0 3
      rsv (fld word 4 9 == 0 && fld word 19 6 == 0) <|
      .ok (.ret a neg q) : Except Reject Instr)) = _
  rw [f19_6, f13_6, f4_9, f3_1, f0_3, ofBool_beq_one]
  exact (rsvOk (by rfl)).trans rfl

theorem loop (l : Bool) (a : SReg) (e : BitVec 18) : Statement (.loop l a e) := by
  intro hwf lane word henc
  obtain ⟨rfl, he⟩ := Prod.mk.inj (Option.some.inj henc)
  have op : fld word 25 7 = 7#7 := he ▸ bitsHi (bitsHi (bitsHi bitsAll))
  have f24_1 : fld word 24 1 = BitVec.ofBool l := he ▸ bitsHi (bitsHi bitsLo)
  have f18_6 : fld word 18 6 = a := he ▸ bitsHi bitsLo
  have f0_18 : fld word 0 18 = e := he ▸ bitsLo
  refine (controlAt op).trans ?_
  change ((
      let l : Bool := fld word 24 1 == 1
      let a : SReg := fld word 18 6
      let e : BitVec 18 := fld word 0 18
      .ok (.loop l a e) : Except Reject Instr)) = _
  rw [f24_1, f18_6, f0_18, ofBool_beq_one]
  all_goals rfl

theorem loopi (l : Bool) (n e : BitVec 12) : Statement (.loopi l n e) := by
  intro hwf lane word henc
  obtain ⟨rfl, he⟩ := Prod.mk.inj (Option.some.inj henc)
  have op : fld word 25 7 = 8#7 := he ▸ bitsHi (bitsHi (bitsHi bitsAll))
  have f24_1 : fld word 24 1 = BitVec.ofBool l := he ▸ bitsHi (bitsHi bitsLo)
  have f12_12 : fld word 12 12 = n := he ▸ bitsHi bitsLo
  have f0_12 : fld word 0 12 = e := he ▸ bitsLo
  refine (controlAt op).trans ?_
  change ((
      let l : Bool := fld word 24 1 == 1
      let n : BitVec 12 := fld word 12 12
      let e : BitVec 12 := fld word 0 12
      .ok (.loopi l n e) : Except Reject Instr)) = _
  rw [f24_1, f12_12, f0_12, ofBool_beq_one]
  all_goals rfl

theorem brk (i : BitVec 19) : Statement (.brk i) := by
  intro hwf lane word henc
  obtain ⟨rfl, he⟩ := Prod.mk.inj (Option.some.inj henc)
  have op : fld word 25 7 = 9#7 := he ▸ bitsHi (bitsHi bitsAll)
  have f19_6 : fld word 19 6 = 0#6 := he ▸ bitsHi bitsLo
  have f0_19 : fld word 0 19 = i := he ▸ bitsLo
  refine (controlAt op).trans ?_
  change ((
      let i : BitVec 19 := fld word 0 19
      rsv (fld word 19 6 == 0) <|
      .ok (.brk i) : Except Reject Instr)) = _
  rw [f19_6, f0_19]
  exact (rsvOk (by rfl)).trans rfl

theorem movc (d : SReg) (cr : BitVec 10) : Statement (.movc d cr) := by
  intro hwf lane word henc
  obtain ⟨rfl, he⟩ := Prod.mk.inj (Option.some.inj henc)
  have op : fld word 25 7 = 10#7 := he ▸ bitsHi (bitsHi (bitsHi bitsAll))
  have f19_6 : fld word 19 6 = d := he ▸ bitsHi (bitsHi bitsLo)
  have f9_10 : fld word 9 10 = cr := he ▸ bitsHi bitsLo
  have f0_9 : fld word 0 9 = 0#9 := he ▸ bitsLo
  have g0 : (crListed cr) = true := hwf
  refine (controlAt op).trans ?_
  change ((
      let d : SReg := fld word 19 6
      let cr : BitVec 10 := fld word 9 10
      gate (crListed cr) <|
      rsv (fld word 0 9 == 0) <|
      .ok (.movc d cr) : Except Reject Instr)) = _
  rw [f19_6, f9_10, f0_9]
  exact (gateOk g0).trans ((rsvOk (by rfl)).trans rfl)

theorem movcw (a : SReg) (cr : BitVec 10) : Statement (.movcw a cr) := by
  intro hwf lane word henc
  obtain ⟨rfl, he⟩ := Prod.mk.inj (Option.some.inj henc)
  have op : fld word 25 7 = 11#7 := he ▸ bitsHi (bitsHi (bitsHi bitsAll))
  have f19_6 : fld word 19 6 = a := he ▸ bitsHi (bitsHi bitsLo)
  have f9_10 : fld word 9 10 = cr := he ▸ bitsHi bitsLo
  have f0_9 : fld word 0 9 = 0#9 := he ▸ bitsLo
  have g0 : (crWritable cr) = true := hwf
  refine (controlAt op).trans ?_
  change ((
      let a : SReg := fld word 19 6
      let cr : BitVec 10 := fld word 9 10
      gate (crWritable cr) <|
      rsv (fld word 0 9 == 0) <|
      .ok (.movcw a cr) : Except Reject Instr)) = _
  rw [f19_6, f9_10, f0_9]
  exact (gateOk g0).trans ((rsvOk (by rfl)).trans rfl)

theorem spawn (a : SReg) : Statement (.spawn a) := by
  intro hwf lane word henc
  obtain ⟨rfl, he⟩ := Prod.mk.inj (Option.some.inj henc)
  have op : fld word 25 7 = 12#7 := he ▸ bitsHi (bitsHi (bitsHi bitsAll))
  have f19_6 : fld word 19 6 = 0#6 := he ▸ bitsHi (bitsHi bitsLo)
  have f13_6 : fld word 13 6 = a := he ▸ bitsHi bitsLo
  have f0_13 : fld word 0 13 = 0#13 := he ▸ bitsLo
  have g0 : (isGroup8 a) = true := hwf
  refine (controlAt op).trans ?_
  change ((
      let a : SReg := fld word 13 6
      gate (isGroup8 a) <|
      rsv (fld word 0 13 == 0 && fld word 19 6 == 0) <|
      .ok (.spawn a) : Except Reject Instr)) = _
  rw [f19_6, f13_6, f0_13]
  exact (gateOk g0).trans ((rsvOk (by rfl)).trans rfl)

theorem spawng (a b : SReg) : Statement (.spawng a b) := by
  intro hwf lane word henc
  obtain ⟨rfl, he⟩ := Prod.mk.inj (Option.some.inj henc)
  have op : fld word 25 7 = 13#7 := he ▸ bitsHi (bitsHi (bitsHi (bitsHi bitsAll)))
  have f19_6 : fld word 19 6 = 0#6 := he ▸ bitsHi (bitsHi (bitsHi bitsLo))
  have f13_6 : fld word 13 6 = a := he ▸ bitsHi (bitsHi bitsLo)
  have f7_6 : fld word 7 6 = b := he ▸ bitsHi bitsLo
  have f0_7 : fld word 0 7 = 0#7 := he ▸ bitsLo
  refine (controlAt op).trans ?_
  change ((
      let a : SReg := fld word 13 6
      let b : SReg := fld word 7 6
      rsv (fld word 0 7 == 0 && fld word 19 6 == 0) <|
      .ok (.spawng a b) : Except Reject Instr)) = _
  rw [f19_6, f13_6, f7_6, f0_7]
  exact (rsvOk (by rfl)).trans rfl

theorem jinit (d a : SReg) : Statement (.jinit d a) := by
  intro hwf lane word henc
  obtain ⟨rfl, he⟩ := Prod.mk.inj (Option.some.inj henc)
  have op : fld word 25 7 = 14#7 := he ▸ bitsHi (bitsHi (bitsHi bitsAll))
  have f19_6 : fld word 19 6 = d := he ▸ bitsHi (bitsHi bitsLo)
  have f13_6 : fld word 13 6 = a := he ▸ bitsHi bitsLo
  have f0_13 : fld word 0 13 = 0#13 := he ▸ bitsLo
  have g0 : ((a == 0 || isGroup8 a)) = true := hwf
  refine (controlAt op).trans ?_
  change ((
      let d : SReg := fld word 19 6
      let a : SReg := fld word 13 6
      gate ((a == 0 || isGroup8 a)) <|
      rsv (fld word 0 13 == 0) <|
      .ok (.jinit d a) : Except Reject Instr)) = _
  rw [f19_6, f13_6, f0_13]
  exact (gateOk g0).trans ((rsvOk (by rfl)).trans rfl)

theorem qinit (a b : SReg) : Statement (.qinit a b) := by
  intro hwf lane word henc
  obtain ⟨rfl, he⟩ := Prod.mk.inj (Option.some.inj henc)
  have op : fld word 25 7 = 15#7 := he ▸ bitsHi (bitsHi (bitsHi (bitsHi bitsAll)))
  have f19_6 : fld word 19 6 = 0#6 := he ▸ bitsHi (bitsHi (bitsHi bitsLo))
  have f13_6 : fld word 13 6 = a := he ▸ bitsHi (bitsHi bitsLo)
  have f7_6 : fld word 7 6 = b := he ▸ bitsHi bitsLo
  have f0_7 : fld word 0 7 = 0#7 := he ▸ bitsLo
  refine (controlAt op).trans ?_
  change ((
      let a : SReg := fld word 13 6
      let b : SReg := fld word 7 6
      rsv (fld word 0 7 == 0 && fld word 19 6 == 0) <|
      .ok (.qinit a b) : Except Reject Instr)) = _
  rw [f19_6, f13_6, f7_6, f0_7]
  exact (rsvOk (by rfl)).trans rfl

theorem jwait (a : SReg) : Statement (.jwait a) := by
  intro hwf lane word henc
  obtain ⟨rfl, he⟩ := Prod.mk.inj (Option.some.inj henc)
  have op : fld word 25 7 = 16#7 := he ▸ bitsHi (bitsHi (bitsHi (bitsHi bitsAll)))
  have f19_6 : fld word 19 6 = 0#6 := he ▸ bitsHi (bitsHi (bitsHi bitsLo))
  have f13_6 : fld word 13 6 = a := he ▸ bitsHi (bitsHi bitsLo)
  have f1_12 : fld word 1 12 = 0#12 := he ▸ bitsHi bitsLo
  have f0_1 : fld word 0 1 = 0#1 := he ▸ bitsLo
  refine (controlAt op).trans ?_
  change ((
      match (fld word 0 1).toNat with
      | 0 =>
        let a : SReg := fld word 13 6
        rsv (fld word 1 12 == 0 && fld word 19 6 == 0) <|
        .ok (.jwait a)
      | 1 =>
        let a : SReg := fld word 13 6
        rsv (fld word 1 12 == 0 && fld word 19 6 == 0) <|
        .ok (.jwaitHere a)
      | _ => .error .illegalOp : Except Reject Instr)) = _
  rw [f19_6, f13_6, f1_12, f0_1]
  exact (rsvOk (by rfl)).trans rfl

theorem jwaitHere (a : SReg) : Statement (.jwaitHere a) := by
  intro hwf lane word henc
  obtain ⟨rfl, he⟩ := Prod.mk.inj (Option.some.inj henc)
  have op : fld word 25 7 = 16#7 := he ▸ bitsHi (bitsHi (bitsHi (bitsHi bitsAll)))
  have f19_6 : fld word 19 6 = 0#6 := he ▸ bitsHi (bitsHi (bitsHi bitsLo))
  have f13_6 : fld word 13 6 = a := he ▸ bitsHi (bitsHi bitsLo)
  have f1_12 : fld word 1 12 = 0#12 := he ▸ bitsHi bitsLo
  have f0_1 : fld word 0 1 = 1#1 := he ▸ bitsLo
  refine (controlAt op).trans ?_
  change ((
      match (fld word 0 1).toNat with
      | 0 =>
        let a : SReg := fld word 13 6
        rsv (fld word 1 12 == 0 && fld word 19 6 == 0) <|
        .ok (.jwait a)
      | 1 =>
        let a : SReg := fld word 13 6
        rsv (fld word 1 12 == 0 && fld word 19 6 == 0) <|
        .ok (.jwaitHere a)
      | _ => .error .illegalOp : Except Reject Instr)) = _
  rw [f19_6, f13_6, f1_12, f0_1]
  exact (rsvOk (by rfl)).trans rfl

theorem yield : Statement (.yield) := by
  intro hwf lane word henc
  obtain ⟨rfl, he⟩ := Prod.mk.inj (Option.some.inj henc)
  have op : fld word 25 7 = 17#7 := he ▸ bitsHi bitsAll
  have f0_25 : fld word 0 25 = 0#25 := he ▸ bitsLo
  refine (controlAt op).trans ?_
  change ((
      rsv (fld word 0 25 == 0) <|
      .ok (.yield) : Except Reject Instr)) = _
  rw [f0_25]
  exact (rsvOk (by rfl)).trans rfl

theorem endTask : Statement (.endTask) := by
  intro hwf lane word henc
  obtain ⟨rfl, he⟩ := Prod.mk.inj (Option.some.inj henc)
  have op : fld word 25 7 = 18#7 := he ▸ bitsHi bitsAll
  have f0_25 : fld word 0 25 = 0#25 := he ▸ bitsLo
  refine (controlAt op).trans ?_
  change ((
      rsv (fld word 0 25 == 0) <|
      .ok (.endTask) : Except Reject Instr)) = _
  rw [f0_25]
  exact (rsvOk (by rfl)).trans rfl

theorem hold : Statement (.hold) := by
  intro hwf lane word henc
  obtain ⟨rfl, he⟩ := Prod.mk.inj (Option.some.inj henc)
  have op : fld word 25 7 = 19#7 := he ▸ bitsHi bitsAll
  have f0_25 : fld word 0 25 = 0#25 := he ▸ bitsLo
  refine (controlAt op).trans ?_
  change ((
      rsv (fld word 0 25 == 0) <|
      .ok (.hold) : Except Reject Instr)) = _
  rw [f0_25]
  exact (rsvOk (by rfl)).trans rfl

theorem unhold : Statement (.unhold) := by
  intro hwf lane word henc
  obtain ⟨rfl, he⟩ := Prod.mk.inj (Option.some.inj henc)
  have op : fld word 25 7 = 20#7 := he ▸ bitsHi bitsAll
  have f0_25 : fld word 0 25 = 0#25 := he ▸ bitsLo
  refine (controlAt op).trans ?_
  change ((
      rsv (fld word 0 25 == 0) <|
      .ok (.unhold) : Except Reject Instr)) = _
  rw [f0_25]
  exact (rsvOk (by rfl)).trans rfl

theorem waitt (a : SReg) (q : QueueId) : Statement (.waitt a q) := by
  intro hwf lane word henc
  obtain ⟨rfl, he⟩ := Prod.mk.inj (Option.some.inj henc)
  have op : fld word 25 7 = 21#7 := he ▸ bitsHi (bitsHi (bitsHi (bitsHi bitsAll)))
  have f19_6 : fld word 19 6 = 0#6 := he ▸ bitsHi (bitsHi (bitsHi bitsLo))
  have f13_6 : fld word 13 6 = a := he ▸ bitsHi (bitsHi bitsLo)
  have f2_11 : fld word 2 11 = 0#11 := he ▸ bitsHi bitsLo
  have f0_2 : fld word 0 2 = q.code := he ▸ bitsLo
  refine (controlAt op).trans ?_
  change ((
      let a : SReg := fld word 13 6
      withCode (QueueId.ofCode (fld word 0 2)) fun q =>
      rsv (fld word 2 11 == 0 && fld word 19 6 == 0) <|
      .ok (.waitt a q) : Except Reject Instr)) = _
  rw [f19_6, f13_6, f2_11, f0_2, QueueId.ofCode_code]
  exact (rsvOk (by rfl)).trans rfl

theorem barg : Statement (.barg) := by
  intro hwf lane word henc
  obtain ⟨rfl, he⟩ := Prod.mk.inj (Option.some.inj henc)
  have op : fld word 25 7 = 22#7 := he ▸ bitsHi bitsAll
  have f0_25 : fld word 0 25 = 0#25 := he ▸ bitsLo
  refine (controlAt op).trans ?_
  change ((
      rsv (fld word 0 25 == 0) <|
      .ok (.barg) : Except Reject Instr)) = _
  rw [f0_25]
  exact (rsvOk (by rfl)).trans rfl

theorem sysc (i : BitVec 19) : Statement (.sysc i) := by
  intro hwf lane word henc
  obtain ⟨rfl, he⟩ := Prod.mk.inj (Option.some.inj henc)
  have op : fld word 25 7 = 23#7 := he ▸ bitsHi (bitsHi bitsAll)
  have f19_6 : fld word 19 6 = 0#6 := he ▸ bitsHi bitsLo
  have f0_19 : fld word 0 19 = i := he ▸ bitsLo
  refine (controlAt op).trans ?_
  change ((
      let i : BitVec 19 := fld word 0 19
      rsv (fld word 19 6 == 0) <|
      .ok (.sysc i) : Except Reject Instr)) = _
  rw [f19_6, f0_19]
  exact (rsvOk (by rfl)).trans rfl

theorem trap (i : BitVec 19) : Statement (.trap i) := by
  intro hwf lane word henc
  obtain ⟨rfl, he⟩ := Prod.mk.inj (Option.some.inj henc)
  have op : fld word 25 7 = 24#7 := he ▸ bitsHi (bitsHi bitsAll)
  have f19_6 : fld word 19 6 = 0#6 := he ▸ bitsHi bitsLo
  have f0_19 : fld word 0 19 = i := he ▸ bitsLo
  refine (controlAt op).trans ?_
  change ((
      let i : BitVec 19 := fld word 0 19
      rsv (fld word 19 6 == 0) <|
      .ok (.trap i) : Except Reject Instr)) = _
  rw [f19_6, f0_19]
  exact (rsvOk (by rfl)).trans rfl

theorem rett (a b : SReg) : Statement (.rett a b) := by
  intro hwf lane word henc
  obtain ⟨rfl, he⟩ := Prod.mk.inj (Option.some.inj henc)
  have op : fld word 25 7 = 25#7 := he ▸ bitsHi (bitsHi (bitsHi (bitsHi (bitsHi bitsAll))))
  have f19_6 : fld word 19 6 = 0#6 := he ▸ bitsHi (bitsHi (bitsHi (bitsHi bitsLo)))
  have f13_6 : fld word 13 6 = a := he ▸ bitsHi (bitsHi (bitsHi bitsLo))
  have f7_6 : fld word 7 6 = b := he ▸ bitsHi (bitsHi bitsLo)
  have f1_6 : fld word 1 6 = 0#6 := he ▸ bitsHi bitsLo
  have f0_1 : fld word 0 1 = 0#1 := he ▸ bitsLo
  refine (controlAt op).trans ?_
  change ((
      match (fld word 0 1).toNat with
      | 0 =>
        let a : SReg := fld word 13 6
        let b : SReg := fld word 7 6
        rsv (fld word 1 6 == 0 && fld word 19 6 == 0) <|
        .ok (.rett a b)
      | 1 =>
        let a : SReg := fld word 13 6
        let b : SReg := fld word 7 6
        rsv (fld word 1 6 == 0 && fld word 19 6 == 0) <|
        .ok (.rettSkip a b)
      | _ => .error .illegalOp : Except Reject Instr)) = _
  rw [f19_6, f13_6, f7_6, f1_6, f0_1]
  exact (rsvOk (by rfl)).trans rfl

theorem rettSkip (a b : SReg) : Statement (.rettSkip a b) := by
  intro hwf lane word henc
  obtain ⟨rfl, he⟩ := Prod.mk.inj (Option.some.inj henc)
  have op : fld word 25 7 = 25#7 := he ▸ bitsHi (bitsHi (bitsHi (bitsHi (bitsHi bitsAll))))
  have f19_6 : fld word 19 6 = 0#6 := he ▸ bitsHi (bitsHi (bitsHi (bitsHi bitsLo)))
  have f13_6 : fld word 13 6 = a := he ▸ bitsHi (bitsHi (bitsHi bitsLo))
  have f7_6 : fld word 7 6 = b := he ▸ bitsHi (bitsHi bitsLo)
  have f1_6 : fld word 1 6 = 0#6 := he ▸ bitsHi bitsLo
  have f0_1 : fld word 0 1 = 1#1 := he ▸ bitsLo
  refine (controlAt op).trans ?_
  change ((
      match (fld word 0 1).toNat with
      | 0 =>
        let a : SReg := fld word 13 6
        let b : SReg := fld word 7 6
        rsv (fld word 1 6 == 0 && fld word 19 6 == 0) <|
        .ok (.rett a b)
      | 1 =>
        let a : SReg := fld word 13 6
        let b : SReg := fld word 7 6
        rsv (fld word 1 6 == 0 && fld word 19 6 == 0) <|
        .ok (.rettSkip a b)
      | _ => .error .illegalOp : Except Reject Instr)) = _
  rw [f19_6, f13_6, f7_6, f1_6, f0_1]
  exact (rsvOk (by rfl)).trans rfl

theorem sleepCg : Statement (.sleepCg) := by
  intro hwf lane word henc
  obtain ⟨rfl, he⟩ := Prod.mk.inj (Option.some.inj henc)
  have op : fld word 25 7 = 26#7 := he ▸ bitsHi (bitsHi bitsAll)
  have f2_23 : fld word 2 23 = 0#23 := he ▸ bitsHi bitsLo
  have f0_2 : fld word 0 2 = 0#2 := he ▸ bitsLo
  refine (controlAt op).trans ?_
  change ((
      match (fld word 0 2).toNat with
      | 0 =>
        rsv (fld word 2 23 == 0) <|
        .ok (.sleepCg)
      | 1 =>
        rsv (fld word 2 23 == 0) <|
        .ok (.sleepRetain)
      | 2 =>
        rsv (fld word 2 23 == 0) <|
        .ok (.sleepOff)
      | _ => .error .illegalOp : Except Reject Instr)) = _
  rw [f2_23, f0_2]
  exact (rsvOk (by rfl)).trans rfl

theorem sleepRetain : Statement (.sleepRetain) := by
  intro hwf lane word henc
  obtain ⟨rfl, he⟩ := Prod.mk.inj (Option.some.inj henc)
  have op : fld word 25 7 = 26#7 := he ▸ bitsHi (bitsHi bitsAll)
  have f2_23 : fld word 2 23 = 0#23 := he ▸ bitsHi bitsLo
  have f0_2 : fld word 0 2 = 1#2 := he ▸ bitsLo
  refine (controlAt op).trans ?_
  change ((
      match (fld word 0 2).toNat with
      | 0 =>
        rsv (fld word 2 23 == 0) <|
        .ok (.sleepCg)
      | 1 =>
        rsv (fld word 2 23 == 0) <|
        .ok (.sleepRetain)
      | 2 =>
        rsv (fld word 2 23 == 0) <|
        .ok (.sleepOff)
      | _ => .error .illegalOp : Except Reject Instr)) = _
  rw [f2_23, f0_2]
  exact (rsvOk (by rfl)).trans rfl

theorem sleepOff : Statement (.sleepOff) := by
  intro hwf lane word henc
  obtain ⟨rfl, he⟩ := Prod.mk.inj (Option.some.inj henc)
  have op : fld word 25 7 = 26#7 := he ▸ bitsHi (bitsHi bitsAll)
  have f2_23 : fld word 2 23 = 0#23 := he ▸ bitsHi bitsLo
  have f0_2 : fld word 0 2 = 2#2 := he ▸ bitsLo
  refine (controlAt op).trans ?_
  change ((
      match (fld word 0 2).toNat with
      | 0 =>
        rsv (fld word 2 23 == 0) <|
        .ok (.sleepCg)
      | 1 =>
        rsv (fld word 2 23 == 0) <|
        .ok (.sleepRetain)
      | 2 =>
        rsv (fld word 2 23 == 0) <|
        .ok (.sleepOff)
      | _ => .error .illegalOp : Except Reject Instr)) = _
  rw [f2_23, f0_2]
  exact (rsvOk (by rfl)).trans rfl

theorem wake (a : SReg) : Statement (.wake a) := by
  intro hwf lane word henc
  obtain ⟨rfl, he⟩ := Prod.mk.inj (Option.some.inj henc)
  have op : fld word 25 7 = 27#7 := he ▸ bitsHi (bitsHi (bitsHi bitsAll))
  have f19_6 : fld word 19 6 = 0#6 := he ▸ bitsHi (bitsHi bitsLo)
  have f13_6 : fld word 13 6 = a := he ▸ bitsHi bitsLo
  have f0_13 : fld word 0 13 = 0#13 := he ▸ bitsLo
  refine (controlAt op).trans ?_
  change ((
      let a : SReg := fld word 13 6
      rsv (fld word 0 13 == 0 && fld word 19 6 == 0) <|
      .ok (.wake a) : Except Reject Instr)) = _
  rw [f19_6, f13_6, f0_13]
  exact (rsvOk (by rfl)).trans rfl

theorem ckpt (d : SReg) : Statement (.ckpt d) := by
  intro hwf lane word henc
  obtain ⟨rfl, he⟩ := Prod.mk.inj (Option.some.inj henc)
  have op : fld word 25 7 = 28#7 := he ▸ bitsHi (bitsHi bitsAll)
  have f19_6 : fld word 19 6 = d := he ▸ bitsHi bitsLo
  have f0_19 : fld word 0 19 = 0#19 := he ▸ bitsLo
  refine (controlAt op).trans ?_
  change ((
      let d : SReg := fld word 19 6
      rsv (fld word 0 19 == 0) <|
      .ok (.ckpt d) : Except Reject Instr)) = _
  rw [f19_6, f0_19]
  exact (rsvOk (by rfl)).trans rfl

theorem savex (d : SReg) : Statement (.savex d) := by
  intro hwf lane word henc
  obtain ⟨rfl, he⟩ := Prod.mk.inj (Option.some.inj henc)
  have op : fld word 25 7 = 29#7 := he ▸ bitsHi (bitsHi bitsAll)
  have f19_6 : fld word 19 6 = d := he ▸ bitsHi bitsLo
  have f0_19 : fld word 0 19 = 0#19 := he ▸ bitsLo
  refine (controlAt op).trans ?_
  change ((
      let d : SReg := fld word 19 6
      rsv (fld word 0 19 == 0) <|
      .ok (.savex d) : Except Reject Instr)) = _
  rw [f19_6, f0_19]
  exact (rsvOk (by rfl)).trans rfl

theorem restx (a : SReg) : Statement (.restx a) := by
  intro hwf lane word henc
  obtain ⟨rfl, he⟩ := Prod.mk.inj (Option.some.inj henc)
  have op : fld word 25 7 = 30#7 := he ▸ bitsHi (bitsHi (bitsHi (bitsHi bitsAll)))
  have f19_6 : fld word 19 6 = 0#6 := he ▸ bitsHi (bitsHi (bitsHi bitsLo))
  have f13_6 : fld word 13 6 = a := he ▸ bitsHi (bitsHi bitsLo)
  have f2_11 : fld word 2 11 = 0#11 := he ▸ bitsHi bitsLo
  have f0_2 : fld word 0 2 = 0#2 := he ▸ bitsLo
  refine (controlAt op).trans ?_
  change ((
      match (fld word 0 2).toNat with
      | 0 =>
        let a : SReg := fld word 13 6
        rsv (fld word 2 11 == 0 && fld word 19 6 == 0) <|
        .ok (.restx a)
      | 1 =>
        let a : SReg := fld word 13 6
        rsv (fld word 2 11 == 0 && fld word 19 6 == 0) <|
        .ok (.restxKeep a)
      | 2 =>
        let a : SReg := fld word 13 6
        rsv (fld word 2 11 == 0 && fld word 19 6 == 0) <|
        .ok (.restxDrop a)
      | _ => .error .illegalOp : Except Reject Instr)) = _
  rw [f19_6, f13_6, f2_11, f0_2]
  exact (rsvOk (by rfl)).trans rfl

theorem restxKeep (a : SReg) : Statement (.restxKeep a) := by
  intro hwf lane word henc
  obtain ⟨rfl, he⟩ := Prod.mk.inj (Option.some.inj henc)
  have op : fld word 25 7 = 30#7 := he ▸ bitsHi (bitsHi (bitsHi (bitsHi bitsAll)))
  have f19_6 : fld word 19 6 = 0#6 := he ▸ bitsHi (bitsHi (bitsHi bitsLo))
  have f13_6 : fld word 13 6 = a := he ▸ bitsHi (bitsHi bitsLo)
  have f2_11 : fld word 2 11 = 0#11 := he ▸ bitsHi bitsLo
  have f0_2 : fld word 0 2 = 1#2 := he ▸ bitsLo
  refine (controlAt op).trans ?_
  change ((
      match (fld word 0 2).toNat with
      | 0 =>
        let a : SReg := fld word 13 6
        rsv (fld word 2 11 == 0 && fld word 19 6 == 0) <|
        .ok (.restx a)
      | 1 =>
        let a : SReg := fld word 13 6
        rsv (fld word 2 11 == 0 && fld word 19 6 == 0) <|
        .ok (.restxKeep a)
      | 2 =>
        let a : SReg := fld word 13 6
        rsv (fld word 2 11 == 0 && fld word 19 6 == 0) <|
        .ok (.restxDrop a)
      | _ => .error .illegalOp : Except Reject Instr)) = _
  rw [f19_6, f13_6, f2_11, f0_2]
  exact (rsvOk (by rfl)).trans rfl

theorem restxDrop (a : SReg) : Statement (.restxDrop a) := by
  intro hwf lane word henc
  obtain ⟨rfl, he⟩ := Prod.mk.inj (Option.some.inj henc)
  have op : fld word 25 7 = 30#7 := he ▸ bitsHi (bitsHi (bitsHi (bitsHi bitsAll)))
  have f19_6 : fld word 19 6 = 0#6 := he ▸ bitsHi (bitsHi (bitsHi bitsLo))
  have f13_6 : fld word 13 6 = a := he ▸ bitsHi (bitsHi bitsLo)
  have f2_11 : fld word 2 11 = 0#11 := he ▸ bitsHi bitsLo
  have f0_2 : fld word 0 2 = 2#2 := he ▸ bitsLo
  refine (controlAt op).trans ?_
  change ((
      match (fld word 0 2).toNat with
      | 0 =>
        let a : SReg := fld word 13 6
        rsv (fld word 2 11 == 0 && fld word 19 6 == 0) <|
        .ok (.restx a)
      | 1 =>
        let a : SReg := fld word 13 6
        rsv (fld word 2 11 == 0 && fld word 19 6 == 0) <|
        .ok (.restxKeep a)
      | 2 =>
        let a : SReg := fld word 13 6
        rsv (fld word 2 11 == 0 && fld word 19 6 == 0) <|
        .ok (.restxDrop a)
      | _ => .error .illegalOp : Except Reject Instr)) = _
  rw [f19_6, f13_6, f2_11, f0_2]
  exact (rsvOk (by rfl)).trans rfl

theorem tlbinvPage (a b : SReg) (sc : Scope) : Statement (.tlbinvPage a b sc) := by
  intro hwf lane word henc
  obtain ⟨rfl, he⟩ := Prod.mk.inj (Option.some.inj henc)
  have op : fld word 25 7 = 31#7 := he ▸ bitsHi (bitsHi (bitsHi (bitsHi (bitsHi (bitsHi bitsAll)))))
  have f19_6 : fld word 19 6 = 0#6 := he ▸ bitsHi (bitsHi (bitsHi (bitsHi (bitsHi bitsLo))))
  have f13_6 : fld word 13 6 = a := he ▸ bitsHi (bitsHi (bitsHi (bitsHi bitsLo)))
  have f7_6 : fld word 7 6 = b := he ▸ bitsHi (bitsHi (bitsHi bitsLo))
  have f5_2 : fld word 5 2 = 0#2 := he ▸ bitsHi (bitsHi bitsLo)
  have f3_2 : fld word 3 2 = 0#2 := he ▸ bitsHi bitsLo
  have f0_3 : fld word 0 3 = sc.code := he ▸ bitsLo
  refine (controlAt op).trans ?_
  change ((
      match (fld word 3 2).toNat with
      | 0 =>
        let a : SReg := fld word 13 6
        let b : SReg := fld word 7 6
        withCode (Scope.ofCode (fld word 0 3)) fun sc =>
        rsv (fld word 5 2 == 0 && fld word 19 6 == 0) <|
        .ok (.tlbinvPage a b sc)
      | 1 =>
        let b : SReg := fld word 7 6
        withCode (Scope.ofCode (fld word 0 3)) fun sc =>
        rsv (fld word 5 2 == 0 && fld word 13 12 == 0) <|
        .ok (.tlbinvAsid b sc)
      | 2 =>
        withCode (Scope.ofCode (fld word 0 3)) fun sc =>
        rsv (fld word 5 20 == 0) <|
        .ok (.tlbinvAll sc)
      | _ => .error .illegalOp : Except Reject Instr)) = _
  rw [f19_6, f13_6, f7_6, f5_2, f3_2, f0_3, Scope.ofCode_code]
  exact (rsvOk (by rfl)).trans rfl

theorem tlbinvAsid (b : SReg) (sc : Scope) : Statement (.tlbinvAsid b sc) := by
  intro hwf lane word henc
  obtain ⟨rfl, he⟩ := Prod.mk.inj (Option.some.inj henc)
  have op : fld word 25 7 = 31#7 := he ▸ bitsHi (bitsHi (bitsHi (bitsHi (bitsHi bitsAll))))
  have f13_12 : fld word 13 12 = 0#12 := he ▸ bitsHi (bitsHi (bitsHi (bitsHi bitsLo)))
  have f7_6 : fld word 7 6 = b := he ▸ bitsHi (bitsHi (bitsHi bitsLo))
  have f5_2 : fld word 5 2 = 0#2 := he ▸ bitsHi (bitsHi bitsLo)
  have f3_2 : fld word 3 2 = 1#2 := he ▸ bitsHi bitsLo
  have f0_3 : fld word 0 3 = sc.code := he ▸ bitsLo
  refine (controlAt op).trans ?_
  change ((
      match (fld word 3 2).toNat with
      | 0 =>
        let a : SReg := fld word 13 6
        let b : SReg := fld word 7 6
        withCode (Scope.ofCode (fld word 0 3)) fun sc =>
        rsv (fld word 5 2 == 0 && fld word 19 6 == 0) <|
        .ok (.tlbinvPage a b sc)
      | 1 =>
        let b : SReg := fld word 7 6
        withCode (Scope.ofCode (fld word 0 3)) fun sc =>
        rsv (fld word 5 2 == 0 && fld word 13 12 == 0) <|
        .ok (.tlbinvAsid b sc)
      | 2 =>
        withCode (Scope.ofCode (fld word 0 3)) fun sc =>
        rsv (fld word 5 20 == 0) <|
        .ok (.tlbinvAll sc)
      | _ => .error .illegalOp : Except Reject Instr)) = _
  rw [f13_12, f7_6, f5_2, f3_2, f0_3, Scope.ofCode_code]
  exact (rsvOk (by rfl)).trans rfl

theorem tlbinvAll (sc : Scope) : Statement (.tlbinvAll sc) := by
  intro hwf lane word henc
  obtain ⟨rfl, he⟩ := Prod.mk.inj (Option.some.inj henc)
  have op : fld word 25 7 = 31#7 := he ▸ bitsHi (bitsHi (bitsHi bitsAll))
  have f5_20 : fld word 5 20 = 0#20 := he ▸ bitsHi (bitsHi bitsLo)
  have f3_2 : fld word 3 2 = 2#2 := he ▸ bitsHi bitsLo
  have f0_3 : fld word 0 3 = sc.code := he ▸ bitsLo
  refine (controlAt op).trans ?_
  change ((
      match (fld word 3 2).toNat with
      | 0 =>
        let a : SReg := fld word 13 6
        let b : SReg := fld word 7 6
        withCode (Scope.ofCode (fld word 0 3)) fun sc =>
        rsv (fld word 5 2 == 0 && fld word 19 6 == 0) <|
        .ok (.tlbinvPage a b sc)
      | 1 =>
        let b : SReg := fld word 7 6
        withCode (Scope.ofCode (fld word 0 3)) fun sc =>
        rsv (fld word 5 2 == 0 && fld word 13 12 == 0) <|
        .ok (.tlbinvAsid b sc)
      | 2 =>
        withCode (Scope.ofCode (fld word 0 3)) fun sc =>
        rsv (fld word 5 20 == 0) <|
        .ok (.tlbinvAll sc)
      | _ => .error .illegalOp : Except Reject Instr)) = _
  rw [f5_20, f3_2, f0_3, Scope.ofCode_code]
  exact (rsvOk (by rfl)).trans rfl

theorem icinv (sc : Scope) : Statement (.icinv sc) := by
  intro hwf lane word henc
  obtain ⟨rfl, he⟩ := Prod.mk.inj (Option.some.inj henc)
  have op : fld word 25 7 = 32#7 := he ▸ bitsHi (bitsHi bitsAll)
  have f3_22 : fld word 3 22 = 0#22 := he ▸ bitsHi bitsLo
  have f0_3 : fld word 0 3 = sc.code := he ▸ bitsLo
  refine (controlAt op).trans ?_
  change ((
      withCode (Scope.ofCode (fld word 0 3)) fun sc =>
      rsv (fld word 3 22 == 0) <|
      .ok (.icinv sc) : Except Reject Instr)) = _
  rw [f3_22, f0_3, Scope.ofCode_code]
  exact (rsvOk (by rfl)).trans rfl

theorem abort : Statement (.abort) := by
  intro hwf lane word henc
  obtain ⟨rfl, he⟩ := Prod.mk.inj (Option.some.inj henc)
  have op : fld word 25 7 = 33#7 := he ▸ bitsHi bitsAll
  have f0_25 : fld word 0 25 = 0#25 := he ▸ bitsLo
  refine (controlAt op).trans ?_
  change ((
      rsv (fld word 0 25 == 0) <|
      .ok (.abort) : Except Reject Instr)) = _
  rw [f0_25]
  exact (rsvOk (by rfl)).trans rfl

theorem ld (spc : Space) (d b : SReg) (z : Size) (x : Bool) (o : BitVec 8) : Statement (.ld spc d b z x o) := by
  intro hwf lane word henc
  obtain ⟨rfl, he⟩ := Prod.mk.inj (Option.some.inj henc)
  have op : fld word 25 7 = 1#7 := he ▸ bitsHi (bitsHi (bitsHi (bitsHi (bitsHi (bitsHi bitsAll)))))
  have f23_2 : fld word 23 2 = spc.code := he ▸ bitsHi (bitsHi (bitsHi (bitsHi (bitsHi bitsLo))))
  have f17_6 : fld word 17 6 = d := he ▸ bitsHi (bitsHi (bitsHi (bitsHi bitsLo)))
  have f11_6 : fld word 11 6 = b := he ▸ bitsHi (bitsHi (bitsHi bitsLo))
  have f9_2 : fld word 9 2 = z.code := he ▸ bitsHi (bitsHi bitsLo)
  have f8_1 : fld word 8 1 = BitVec.ofBool x := he ▸ bitsHi bitsLo
  have f0_8 : fld word 0 8 = o := he ▸ bitsLo
  refine (memoryAt op).trans ?_
  change ((
      let d : SReg := fld word 17 6
      let b : SReg := fld word 11 6
      let x : Bool := fld word 8 1 == 1
      let o : BitVec 8 := fld word 0 8
      withCode (Space.ofCode (fld word 23 2)) fun spc =>
      withCode (Size.ofCode (fld word 9 2)) fun z =>
      .ok (.ld spc d b z x o) : Except Reject Instr)) = _
  rw [f23_2, f17_6, f11_6, f9_2, f8_1, f0_8, Space.ofCode_code, Size.ofCode_code, ofBool_beq_one]
  all_goals rfl

theorem st (spc : Space) (d b : SReg) (z : Size) (o : BitVec 8) : Statement (.st spc d b z o) := by
  intro hwf lane word henc
  obtain ⟨rfl, he⟩ := Prod.mk.inj (Option.some.inj henc)
  have op : fld word 25 7 = 2#7 := he ▸ bitsHi (bitsHi (bitsHi (bitsHi (bitsHi (bitsHi bitsAll)))))
  have f23_2 : fld word 23 2 = spc.code := he ▸ bitsHi (bitsHi (bitsHi (bitsHi (bitsHi bitsLo))))
  have f17_6 : fld word 17 6 = d := he ▸ bitsHi (bitsHi (bitsHi (bitsHi bitsLo)))
  have f11_6 : fld word 11 6 = b := he ▸ bitsHi (bitsHi (bitsHi bitsLo))
  have f9_2 : fld word 9 2 = z.code := he ▸ bitsHi (bitsHi bitsLo)
  have f8_1 : fld word 8 1 = 0#1 := he ▸ bitsHi bitsLo
  have f0_8 : fld word 0 8 = o := he ▸ bitsLo
  have g0 : (spc.notCd) = true := hwf
  refine (memoryAt op).trans ?_
  change ((
      let d : SReg := fld word 17 6
      let b : SReg := fld word 11 6
      let o : BitVec 8 := fld word 0 8
      withCode (Space.ofCode (fld word 23 2)) fun spc =>
      withCode (Size.ofCode (fld word 9 2)) fun z =>
      gate (spc.notCd) <|
      rsv (fld word 8 1 == 0) <|
      .ok (.st spc d b z o) : Except Reject Instr)) = _
  rw [f23_2, f17_6, f11_6, f9_2, f8_1, f0_8, Space.ofCode_code, Size.ofCode_code]
  exact (gateOk g0).trans ((rsvOk (by rfl)).trans rfl)

theorem ldx (spc : Space) (d b i : SReg) (z : Size) (x scl : Bool) : Statement (.ldx spc d b i z x scl) := by
  intro hwf lane word henc
  obtain ⟨rfl, he⟩ := Prod.mk.inj (Option.some.inj henc)
  have op : fld word 25 7 = 3#7 := he ▸ bitsHi (bitsHi (bitsHi (bitsHi (bitsHi (bitsHi (bitsHi (bitsHi bitsAll)))))))
  have f23_2 : fld word 23 2 = spc.code := he ▸ bitsHi (bitsHi (bitsHi (bitsHi (bitsHi (bitsHi (bitsHi bitsLo))))))
  have f17_6 : fld word 17 6 = d := he ▸ bitsHi (bitsHi (bitsHi (bitsHi (bitsHi (bitsHi bitsLo)))))
  have f11_6 : fld word 11 6 = b := he ▸ bitsHi (bitsHi (bitsHi (bitsHi (bitsHi bitsLo))))
  have f5_6 : fld word 5 6 = i := he ▸ bitsHi (bitsHi (bitsHi (bitsHi bitsLo)))
  have f3_2 : fld word 3 2 = z.code := he ▸ bitsHi (bitsHi (bitsHi bitsLo))
  have f2_1 : fld word 2 1 = BitVec.ofBool x := he ▸ bitsHi (bitsHi bitsLo)
  have f1_1 : fld word 1 1 = 0#1 := he ▸ bitsHi bitsLo
  have f0_1 : fld word 0 1 = BitVec.ofBool scl := he ▸ bitsLo
  refine (memoryAt op).trans ?_
  change ((
      let d : SReg := fld word 17 6
      let b : SReg := fld word 11 6
      let i : SReg := fld word 5 6
      let x : Bool := fld word 2 1 == 1
      let scl : Bool := fld word 0 1 == 1
      withCode (Space.ofCode (fld word 23 2)) fun spc =>
      withCode (Size.ofCode (fld word 3 2)) fun z =>
      rsv (fld word 1 1 == 0) <|
      .ok (.ldx spc d b i z x scl) : Except Reject Instr)) = _
  rw [f23_2, f17_6, f11_6, f5_6, f3_2, f2_1, f1_1, f0_1, Space.ofCode_code, Size.ofCode_code, ofBool_beq_one, ofBool_beq_one]
  exact (rsvOk (by rfl)).trans rfl

theorem stx (spc : Space) (d b i : SReg) (z : Size) (scl : Bool) : Statement (.stx spc d b i z scl) := by
  intro hwf lane word henc
  obtain ⟨rfl, he⟩ := Prod.mk.inj (Option.some.inj henc)
  have op : fld word 25 7 = 4#7 := he ▸ bitsHi (bitsHi (bitsHi (bitsHi (bitsHi (bitsHi (bitsHi bitsAll))))))
  have f23_2 : fld word 23 2 = spc.code := he ▸ bitsHi (bitsHi (bitsHi (bitsHi (bitsHi (bitsHi bitsLo)))))
  have f17_6 : fld word 17 6 = d := he ▸ bitsHi (bitsHi (bitsHi (bitsHi (bitsHi bitsLo))))
  have f11_6 : fld word 11 6 = b := he ▸ bitsHi (bitsHi (bitsHi (bitsHi bitsLo)))
  have f5_6 : fld word 5 6 = i := he ▸ bitsHi (bitsHi (bitsHi bitsLo))
  have f3_2 : fld word 3 2 = z.code := he ▸ bitsHi (bitsHi bitsLo)
  have f1_2 : fld word 1 2 = 0#2 := he ▸ bitsHi bitsLo
  have f0_1 : fld word 0 1 = BitVec.ofBool scl := he ▸ bitsLo
  have g0 : (spc.notCd) = true := hwf
  refine (memoryAt op).trans ?_
  change ((
      let d : SReg := fld word 17 6
      let b : SReg := fld word 11 6
      let i : SReg := fld word 5 6
      let scl : Bool := fld word 0 1 == 1
      withCode (Space.ofCode (fld word 23 2)) fun spc =>
      withCode (Size.ofCode (fld word 3 2)) fun z =>
      gate (spc.notCd) <|
      rsv (fld word 1 2 == 0) <|
      .ok (.stx spc d b i z scl) : Except Reject Instr)) = _
  rw [f23_2, f17_6, f11_6, f5_6, f3_2, f1_2, f0_1, Space.ofCode_code, Size.ofCode_code, ofBool_beq_one]
  exact (gateOk g0).trans ((rsvOk (by rfl)).trans rfl)

theorem vld (spc : Space) (d : VReg) (b : SReg) (o : BitVec 11) : Statement (.vld spc d b o) := by
  intro hwf lane word henc
  obtain ⟨rfl, he⟩ := Prod.mk.inj (Option.some.inj henc)
  have op : fld word 25 7 = 5#7 := he ▸ bitsHi (bitsHi (bitsHi (bitsHi (bitsHi bitsAll))))
  have f23_2 : fld word 23 2 = spc.code := he ▸ bitsHi (bitsHi (bitsHi (bitsHi bitsLo)))
  have f22_1 : fld word 22 1 = 0#1 := he ▸ bitsHi (bitsHi (bitsHi bitsLo))
  have f17_5 : fld word 17 5 = d := he ▸ bitsHi (bitsHi bitsLo)
  have f11_6 : fld word 11 6 = b := he ▸ bitsHi bitsLo
  have f0_11 : fld word 0 11 = o := he ▸ bitsLo
  refine (memoryAt op).trans ?_
  change ((
      let d : VReg := fld word 17 5
      let b : SReg := fld word 11 6
      let o : BitVec 11 := fld word 0 11
      withCode (Space.ofCode (fld word 23 2)) fun spc =>
      rsv (fld word 22 1 == 0) <|
      .ok (.vld spc d b o) : Except Reject Instr)) = _
  rw [f23_2, f22_1, f17_5, f11_6, f0_11, Space.ofCode_code]
  exact (rsvOk (by rfl)).trans rfl

theorem vst (spc : Space) (d : VReg) (b : SReg) (o : BitVec 11) : Statement (.vst spc d b o) := by
  intro hwf lane word henc
  obtain ⟨rfl, he⟩ := Prod.mk.inj (Option.some.inj henc)
  have op : fld word 25 7 = 6#7 := he ▸ bitsHi (bitsHi (bitsHi (bitsHi (bitsHi bitsAll))))
  have f23_2 : fld word 23 2 = spc.code := he ▸ bitsHi (bitsHi (bitsHi (bitsHi bitsLo)))
  have f22_1 : fld word 22 1 = 0#1 := he ▸ bitsHi (bitsHi (bitsHi bitsLo))
  have f17_5 : fld word 17 5 = d := he ▸ bitsHi (bitsHi bitsLo)
  have f11_6 : fld word 11 6 = b := he ▸ bitsHi bitsLo
  have f0_11 : fld word 0 11 = o := he ▸ bitsLo
  have g0 : (spc.notCd) = true := hwf
  refine (memoryAt op).trans ?_
  change ((
      let d : VReg := fld word 17 5
      let b : SReg := fld word 11 6
      let o : BitVec 11 := fld word 0 11
      withCode (Space.ofCode (fld word 23 2)) fun spc =>
      gate (spc.notCd) <|
      rsv (fld word 22 1 == 0) <|
      .ok (.vst spc d b o) : Except Reject Instr)) = _
  rw [f23_2, f22_1, f17_5, f11_6, f0_11, Space.ofCode_code]
  exact (gateOk g0).trans ((rsvOk (by rfl)).trans rfl)

theorem vlds (spc : Space) (d : VReg) (b i : SReg) (z : Size) (mk : BitVec 2) : Statement (.vlds spc d b i z mk) := by
  intro hwf lane word henc
  obtain ⟨rfl, he⟩ := Prod.mk.inj (Option.some.inj henc)
  have op : fld word 25 7 = 7#7 := he ▸ bitsHi (bitsHi (bitsHi (bitsHi (bitsHi (bitsHi (bitsHi (bitsHi bitsAll)))))))
  have f23_2 : fld word 23 2 = spc.code := he ▸ bitsHi (bitsHi (bitsHi (bitsHi (bitsHi (bitsHi (bitsHi bitsLo))))))
  have f22_1 : fld word 22 1 = 0#1 := he ▸ bitsHi (bitsHi (bitsHi (bitsHi (bitsHi (bitsHi bitsLo)))))
  have f17_5 : fld word 17 5 = d := he ▸ bitsHi (bitsHi (bitsHi (bitsHi (bitsHi bitsLo))))
  have f11_6 : fld word 11 6 = b := he ▸ bitsHi (bitsHi (bitsHi (bitsHi bitsLo)))
  have f5_6 : fld word 5 6 = i := he ▸ bitsHi (bitsHi (bitsHi bitsLo))
  have f3_2 : fld word 3 2 = z.code := he ▸ bitsHi (bitsHi bitsLo)
  have f2_1 : fld word 2 1 = 0#1 := he ▸ bitsHi bitsLo
  have f0_2 : fld word 0 2 = mk := he ▸ bitsLo
  refine (memoryAt op).trans ?_
  change ((
      let d : VReg := fld word 17 5
      let b : SReg := fld word 11 6
      let i : SReg := fld word 5 6
      let mk : BitVec 2 := fld word 0 2
      withCode (Space.ofCode (fld word 23 2)) fun spc =>
      withCode (Size.ofCode (fld word 3 2)) fun z =>
      rsv (fld word 2 1 == 0 && fld word 22 1 == 0) <|
      .ok (.vlds spc d b i z mk) : Except Reject Instr)) = _
  rw [f23_2, f22_1, f17_5, f11_6, f5_6, f3_2, f2_1, f0_2, Space.ofCode_code, Size.ofCode_code]
  exact (rsvOk (by rfl)).trans rfl

theorem vsts (spc : Space) (d : VReg) (b i : SReg) (z : Size) (mk : BitVec 2) : Statement (.vsts spc d b i z mk) := by
  intro hwf lane word henc
  obtain ⟨rfl, he⟩ := Prod.mk.inj (Option.some.inj henc)
  have op : fld word 25 7 = 8#7 := he ▸ bitsHi (bitsHi (bitsHi (bitsHi (bitsHi (bitsHi (bitsHi (bitsHi bitsAll)))))))
  have f23_2 : fld word 23 2 = spc.code := he ▸ bitsHi (bitsHi (bitsHi (bitsHi (bitsHi (bitsHi (bitsHi bitsLo))))))
  have f22_1 : fld word 22 1 = 0#1 := he ▸ bitsHi (bitsHi (bitsHi (bitsHi (bitsHi (bitsHi bitsLo)))))
  have f17_5 : fld word 17 5 = d := he ▸ bitsHi (bitsHi (bitsHi (bitsHi (bitsHi bitsLo))))
  have f11_6 : fld word 11 6 = b := he ▸ bitsHi (bitsHi (bitsHi (bitsHi bitsLo)))
  have f5_6 : fld word 5 6 = i := he ▸ bitsHi (bitsHi (bitsHi bitsLo))
  have f3_2 : fld word 3 2 = z.code := he ▸ bitsHi (bitsHi bitsLo)
  have f2_1 : fld word 2 1 = 0#1 := he ▸ bitsHi bitsLo
  have f0_2 : fld word 0 2 = mk := he ▸ bitsLo
  have g0 : (spc.notCd) = true := hwf
  refine (memoryAt op).trans ?_
  change ((
      let d : VReg := fld word 17 5
      let b : SReg := fld word 11 6
      let i : SReg := fld word 5 6
      let mk : BitVec 2 := fld word 0 2
      withCode (Space.ofCode (fld word 23 2)) fun spc =>
      withCode (Size.ofCode (fld word 3 2)) fun z =>
      gate (spc.notCd) <|
      rsv (fld word 2 1 == 0 && fld word 22 1 == 0) <|
      .ok (.vsts spc d b i z mk) : Except Reject Instr)) = _
  rw [f23_2, f22_1, f17_5, f11_6, f5_6, f3_2, f2_1, f0_2, Space.ofCode_code, Size.ofCode_code]
  exact (gateOk g0).trans ((rsvOk (by rfl)).trans rfl)

theorem vldx (spc : Space) (d : VReg) (b : SReg) (i : VReg) (z : Size) (scl : Bool) (mk : BitVec 2) : Statement (.vldx spc d b i z scl mk) := by
  intro hwf lane word henc
  obtain ⟨rfl, he⟩ := Prod.mk.inj (Option.some.inj henc)
  have op : fld word 25 7 = 9#7 := he ▸ bitsHi (bitsHi (bitsHi (bitsHi (bitsHi (bitsHi (bitsHi (bitsHi (bitsHi bitsAll))))))))
  have f23_2 : fld word 23 2 = spc.code := he ▸ bitsHi (bitsHi (bitsHi (bitsHi (bitsHi (bitsHi (bitsHi (bitsHi bitsLo)))))))
  have f22_1 : fld word 22 1 = 0#1 := he ▸ bitsHi (bitsHi (bitsHi (bitsHi (bitsHi (bitsHi (bitsHi bitsLo))))))
  have f17_5 : fld word 17 5 = d := he ▸ bitsHi (bitsHi (bitsHi (bitsHi (bitsHi (bitsHi bitsLo)))))
  have f11_6 : fld word 11 6 = b := he ▸ bitsHi (bitsHi (bitsHi (bitsHi (bitsHi bitsLo))))
  have f10_1 : fld word 10 1 = 0#1 := he ▸ bitsHi (bitsHi (bitsHi (bitsHi bitsLo)))
  have f5_5 : fld word 5 5 = i := he ▸ bitsHi (bitsHi (bitsHi bitsLo))
  have f3_2 : fld word 3 2 = z.code := he ▸ bitsHi (bitsHi bitsLo)
  have f2_1 : fld word 2 1 = BitVec.ofBool scl := he ▸ bitsHi bitsLo
  have f0_2 : fld word 0 2 = mk := he ▸ bitsLo
  have g0 : (z.isWordOrD) = true := hwf
  refine (memoryAt op).trans ?_
  change ((
      let d : VReg := fld word 17 5
      let b : SReg := fld word 11 6
      let i : VReg := fld word 5 5
      let scl : Bool := fld word 2 1 == 1
      let mk : BitVec 2 := fld word 0 2
      withCode (Space.ofCode (fld word 23 2)) fun spc =>
      withCode (Size.ofCode (fld word 3 2)) fun z =>
      gate (z.isWordOrD) <|
      rsv (fld word 10 1 == 0 && fld word 22 1 == 0) <|
      .ok (.vldx spc d b i z scl mk) : Except Reject Instr)) = _
  rw [f23_2, f22_1, f17_5, f11_6, f10_1, f5_5, f3_2, f2_1, f0_2, Space.ofCode_code, Size.ofCode_code, ofBool_beq_one]
  exact (gateOk g0).trans ((rsvOk (by rfl)).trans rfl)

theorem vstx (spc : Space) (d : VReg) (b : SReg) (i : VReg) (z : Size) (scl : Bool) (mk : BitVec 2) : Statement (.vstx spc d b i z scl mk) := by
  intro hwf lane word henc
  obtain ⟨rfl, he⟩ := Prod.mk.inj (Option.some.inj henc)
  have op : fld word 25 7 = 10#7 := he ▸ bitsHi (bitsHi (bitsHi (bitsHi (bitsHi (bitsHi (bitsHi (bitsHi (bitsHi bitsAll))))))))
  have f23_2 : fld word 23 2 = spc.code := he ▸ bitsHi (bitsHi (bitsHi (bitsHi (bitsHi (bitsHi (bitsHi (bitsHi bitsLo)))))))
  have f22_1 : fld word 22 1 = 0#1 := he ▸ bitsHi (bitsHi (bitsHi (bitsHi (bitsHi (bitsHi (bitsHi bitsLo))))))
  have f17_5 : fld word 17 5 = d := he ▸ bitsHi (bitsHi (bitsHi (bitsHi (bitsHi (bitsHi bitsLo)))))
  have f11_6 : fld word 11 6 = b := he ▸ bitsHi (bitsHi (bitsHi (bitsHi (bitsHi bitsLo))))
  have f10_1 : fld word 10 1 = 0#1 := he ▸ bitsHi (bitsHi (bitsHi (bitsHi bitsLo)))
  have f5_5 : fld word 5 5 = i := he ▸ bitsHi (bitsHi (bitsHi bitsLo))
  have f3_2 : fld word 3 2 = z.code := he ▸ bitsHi (bitsHi bitsLo)
  have f2_1 : fld word 2 1 = BitVec.ofBool scl := he ▸ bitsHi bitsLo
  have f0_2 : fld word 0 2 = mk := he ▸ bitsLo
  have g0 : (spc.notCd && z.isWordOrD) = true := hwf
  refine (memoryAt op).trans ?_
  change ((
      let d : VReg := fld word 17 5
      let b : SReg := fld word 11 6
      let i : VReg := fld word 5 5
      let scl : Bool := fld word 2 1 == 1
      let mk : BitVec 2 := fld word 0 2
      withCode (Space.ofCode (fld word 23 2)) fun spc =>
      withCode (Size.ofCode (fld word 3 2)) fun z =>
      gate (spc.notCd && z.isWordOrD) <|
      rsv (fld word 10 1 == 0 && fld word 22 1 == 0) <|
      .ok (.vstx spc d b i z scl mk) : Except Reject Instr)) = _
  rw [f23_2, f22_1, f17_5, f11_6, f10_1, f5_5, f3_2, f2_1, f0_2, Space.ofCode_code, Size.ofCode_code, ofBool_beq_one]
  exact (gateOk g0).trans ((rsvOk (by rfl)).trans rfl)

theorem vldd (d : VReg) (k : DReg) (i : SReg) (mk : MReg) : Statement (.vldd d k i mk) := by
  intro hwf lane word henc
  obtain ⟨rfl, he⟩ := Prod.mk.inj (Option.some.inj henc)
  have op : fld word 25 7 = 11#7 := he ▸ bitsHi (bitsHi (bitsHi (bitsHi (bitsHi (bitsHi bitsAll)))))
  have f22_3 : fld word 22 3 = 0#3 := he ▸ bitsHi (bitsHi (bitsHi (bitsHi (bitsHi bitsLo))))
  have f17_5 : fld word 17 5 = d := he ▸ bitsHi (bitsHi (bitsHi (bitsHi bitsLo)))
  have f13_4 : fld word 13 4 = k := he ▸ bitsHi (bitsHi (bitsHi bitsLo))
  have f7_6 : fld word 7 6 = i := he ▸ bitsHi (bitsHi bitsLo)
  have f3_4 : fld word 3 4 = 0#4 := he ▸ bitsHi bitsLo
  have f0_3 : fld word 0 3 = mk := he ▸ bitsLo
  refine (memoryAt op).trans ?_
  change ((
      let d : VReg := fld word 17 5
      let k : DReg := fld word 13 4
      let i : SReg := fld word 7 6
      let mk : MReg := fld word 0 3
      rsv (fld word 3 4 == 0 && fld word 22 3 == 0) <|
      .ok (.vldd d k i mk) : Except Reject Instr)) = _
  rw [f22_3, f17_5, f13_4, f7_6, f3_4, f0_3]
  exact (rsvOk (by rfl)).trans rfl

theorem vstd (d : VReg) (k : DReg) (i : SReg) (mk : MReg) : Statement (.vstd d k i mk) := by
  intro hwf lane word henc
  obtain ⟨rfl, he⟩ := Prod.mk.inj (Option.some.inj henc)
  have op : fld word 25 7 = 12#7 := he ▸ bitsHi (bitsHi (bitsHi (bitsHi (bitsHi (bitsHi bitsAll)))))
  have f22_3 : fld word 22 3 = 0#3 := he ▸ bitsHi (bitsHi (bitsHi (bitsHi (bitsHi bitsLo))))
  have f17_5 : fld word 17 5 = d := he ▸ bitsHi (bitsHi (bitsHi (bitsHi bitsLo)))
  have f13_4 : fld word 13 4 = k := he ▸ bitsHi (bitsHi (bitsHi bitsLo))
  have f7_6 : fld word 7 6 = i := he ▸ bitsHi (bitsHi bitsLo)
  have f3_4 : fld word 3 4 = 0#4 := he ▸ bitsHi bitsLo
  have f0_3 : fld word 0 3 = mk := he ▸ bitsLo
  refine (memoryAt op).trans ?_
  change ((
      let d : VReg := fld word 17 5
      let k : DReg := fld word 13 4
      let i : SReg := fld word 7 6
      let mk : MReg := fld word 0 3
      rsv (fld word 3 4 == 0 && fld word 22 3 == 0) <|
      .ok (.vstd d k i mk) : Except Reject Instr)) = _
  rw [f22_3, f17_5, f13_4, f7_6, f3_4, f0_3]
  exact (rsvOk (by rfl)).trans rfl

theorem ldfe (spc : Space) (d b : SReg) (z : Size) (o : BitVec 8) : Statement (.ldfe spc d b z o) := by
  intro hwf lane word henc
  obtain ⟨rfl, he⟩ := Prod.mk.inj (Option.some.inj henc)
  have op : fld word 25 7 = 13#7 := he ▸ bitsHi (bitsHi (bitsHi (bitsHi (bitsHi (bitsHi bitsAll)))))
  have f23_2 : fld word 23 2 = spc.code := he ▸ bitsHi (bitsHi (bitsHi (bitsHi (bitsHi bitsLo))))
  have f17_6 : fld word 17 6 = d := he ▸ bitsHi (bitsHi (bitsHi (bitsHi bitsLo)))
  have f11_6 : fld word 11 6 = b := he ▸ bitsHi (bitsHi (bitsHi bitsLo))
  have f9_2 : fld word 9 2 = z.code := he ▸ bitsHi (bitsHi bitsLo)
  have f8_1 : fld word 8 1 = 0#1 := he ▸ bitsHi bitsLo
  have f0_8 : fld word 0 8 = o := he ▸ bitsLo
  have g0 : (spc.isSp) = true := hwf
  refine (memoryAt op).trans ?_
  change ((
      match (fld word 8 1).toNat with
      | 0 =>
        let d : SReg := fld word 17 6
        let b : SReg := fld word 11 6
        let o : BitVec 8 := fld word 0 8
        withCode (Space.ofCode (fld word 23 2)) fun spc =>
        withCode (Size.ofCode (fld word 9 2)) fun z =>
        gate (spc.isSp) <|
        .ok (.ldfe spc d b z o)
      | 1 =>
        let d : VReg := fld word 17 5
        let b : SReg := fld word 11 6
        let o : BitVec 8 := fld word 0 8
        withCode (Space.ofCode (fld word 23 2)) fun spc =>
        withCode (Size.ofCode (fld word 9 2)) fun z =>
        gate (spc.isSp && z.isD) <|
        rsv (fld word 22 1 == 0) <|
        .ok (.ldfeV spc d b z o)
      | _ => .error .illegalOp : Except Reject Instr)) = _
  rw [f23_2, f17_6, f11_6, f9_2, f8_1, f0_8, Space.ofCode_code, Size.ofCode_code]
  exact (gateOk g0).trans rfl

theorem ldfeV (spc : Space) (d : VReg) (b : SReg) (z : Size) (o : BitVec 8) : Statement (.ldfeV spc d b z o) := by
  intro hwf lane word henc
  obtain ⟨rfl, he⟩ := Prod.mk.inj (Option.some.inj henc)
  have op : fld word 25 7 = 13#7 := he ▸ bitsHi (bitsHi (bitsHi (bitsHi (bitsHi (bitsHi (bitsHi bitsAll))))))
  have f23_2 : fld word 23 2 = spc.code := he ▸ bitsHi (bitsHi (bitsHi (bitsHi (bitsHi (bitsHi bitsLo)))))
  have f22_1 : fld word 22 1 = 0#1 := he ▸ bitsHi (bitsHi (bitsHi (bitsHi (bitsHi bitsLo))))
  have f17_5 : fld word 17 5 = d := he ▸ bitsHi (bitsHi (bitsHi (bitsHi bitsLo)))
  have f11_6 : fld word 11 6 = b := he ▸ bitsHi (bitsHi (bitsHi bitsLo))
  have f9_2 : fld word 9 2 = z.code := he ▸ bitsHi (bitsHi bitsLo)
  have f8_1 : fld word 8 1 = 1#1 := he ▸ bitsHi bitsLo
  have f0_8 : fld word 0 8 = o := he ▸ bitsLo
  have g0 : (spc.isSp && z.isD) = true := hwf
  refine (memoryAt op).trans ?_
  change ((
      match (fld word 8 1).toNat with
      | 0 =>
        let d : SReg := fld word 17 6
        let b : SReg := fld word 11 6
        let o : BitVec 8 := fld word 0 8
        withCode (Space.ofCode (fld word 23 2)) fun spc =>
        withCode (Size.ofCode (fld word 9 2)) fun z =>
        gate (spc.isSp) <|
        .ok (.ldfe spc d b z o)
      | 1 =>
        let d : VReg := fld word 17 5
        let b : SReg := fld word 11 6
        let o : BitVec 8 := fld word 0 8
        withCode (Space.ofCode (fld word 23 2)) fun spc =>
        withCode (Size.ofCode (fld word 9 2)) fun z =>
        gate (spc.isSp && z.isD) <|
        rsv (fld word 22 1 == 0) <|
        .ok (.ldfeV spc d b z o)
      | _ => .error .illegalOp : Except Reject Instr)) = _
  rw [f23_2, f22_1, f17_5, f11_6, f9_2, f8_1, f0_8, Space.ofCode_code, Size.ofCode_code]
  exact (gateOk g0).trans ((rsvOk (by rfl)).trans rfl)

theorem ldfec (spc : Space) (d b : SReg) (z : Size) (o : BitVec 8) : Statement (.ldfec spc d b z o) := by
  intro hwf lane word henc
  obtain ⟨rfl, he⟩ := Prod.mk.inj (Option.some.inj henc)
  have op : fld word 25 7 = 14#7 := he ▸ bitsHi (bitsHi (bitsHi (bitsHi (bitsHi (bitsHi bitsAll)))))
  have f23_2 : fld word 23 2 = spc.code := he ▸ bitsHi (bitsHi (bitsHi (bitsHi (bitsHi bitsLo))))
  have f17_6 : fld word 17 6 = d := he ▸ bitsHi (bitsHi (bitsHi (bitsHi bitsLo)))
  have f11_6 : fld word 11 6 = b := he ▸ bitsHi (bitsHi (bitsHi bitsLo))
  have f9_2 : fld word 9 2 = z.code := he ▸ bitsHi (bitsHi bitsLo)
  have f8_1 : fld word 8 1 = 0#1 := he ▸ bitsHi bitsLo
  have f0_8 : fld word 0 8 = o := he ▸ bitsLo
  have g0 : (spc.isSp) = true := hwf
  refine (memoryAt op).trans ?_
  change ((
      match (fld word 8 1).toNat with
      | 0 =>
        let d : SReg := fld word 17 6
        let b : SReg := fld word 11 6
        let o : BitVec 8 := fld word 0 8
        withCode (Space.ofCode (fld word 23 2)) fun spc =>
        withCode (Size.ofCode (fld word 9 2)) fun z =>
        gate (spc.isSp) <|
        .ok (.ldfec spc d b z o)
      | 1 =>
        let d : VReg := fld word 17 5
        let b : SReg := fld word 11 6
        let o : BitVec 8 := fld word 0 8
        withCode (Space.ofCode (fld word 23 2)) fun spc =>
        withCode (Size.ofCode (fld word 9 2)) fun z =>
        gate (spc.isSp && z.isD) <|
        rsv (fld word 22 1 == 0) <|
        .ok (.ldfecV spc d b z o)
      | _ => .error .illegalOp : Except Reject Instr)) = _
  rw [f23_2, f17_6, f11_6, f9_2, f8_1, f0_8, Space.ofCode_code, Size.ofCode_code]
  exact (gateOk g0).trans rfl

theorem ldfecV (spc : Space) (d : VReg) (b : SReg) (z : Size) (o : BitVec 8) : Statement (.ldfecV spc d b z o) := by
  intro hwf lane word henc
  obtain ⟨rfl, he⟩ := Prod.mk.inj (Option.some.inj henc)
  have op : fld word 25 7 = 14#7 := he ▸ bitsHi (bitsHi (bitsHi (bitsHi (bitsHi (bitsHi (bitsHi bitsAll))))))
  have f23_2 : fld word 23 2 = spc.code := he ▸ bitsHi (bitsHi (bitsHi (bitsHi (bitsHi (bitsHi bitsLo)))))
  have f22_1 : fld word 22 1 = 0#1 := he ▸ bitsHi (bitsHi (bitsHi (bitsHi (bitsHi bitsLo))))
  have f17_5 : fld word 17 5 = d := he ▸ bitsHi (bitsHi (bitsHi (bitsHi bitsLo)))
  have f11_6 : fld word 11 6 = b := he ▸ bitsHi (bitsHi (bitsHi bitsLo))
  have f9_2 : fld word 9 2 = z.code := he ▸ bitsHi (bitsHi bitsLo)
  have f8_1 : fld word 8 1 = 1#1 := he ▸ bitsHi bitsLo
  have f0_8 : fld word 0 8 = o := he ▸ bitsLo
  have g0 : (spc.isSp && z.isD) = true := hwf
  refine (memoryAt op).trans ?_
  change ((
      match (fld word 8 1).toNat with
      | 0 =>
        let d : SReg := fld word 17 6
        let b : SReg := fld word 11 6
        let o : BitVec 8 := fld word 0 8
        withCode (Space.ofCode (fld word 23 2)) fun spc =>
        withCode (Size.ofCode (fld word 9 2)) fun z =>
        gate (spc.isSp) <|
        .ok (.ldfec spc d b z o)
      | 1 =>
        let d : VReg := fld word 17 5
        let b : SReg := fld word 11 6
        let o : BitVec 8 := fld word 0 8
        withCode (Space.ofCode (fld word 23 2)) fun spc =>
        withCode (Size.ofCode (fld word 9 2)) fun z =>
        gate (spc.isSp && z.isD) <|
        rsv (fld word 22 1 == 0) <|
        .ok (.ldfecV spc d b z o)
      | _ => .error .illegalOp : Except Reject Instr)) = _
  rw [f23_2, f22_1, f17_5, f11_6, f9_2, f8_1, f0_8, Space.ofCode_code, Size.ofCode_code]
  exact (gateOk g0).trans ((rsvOk (by rfl)).trans rfl)

theorem stfe (spc : Space) (d b : SReg) (z : Size) (o : BitVec 8) : Statement (.stfe spc d b z o) := by
  intro hwf lane word henc
  obtain ⟨rfl, he⟩ := Prod.mk.inj (Option.some.inj henc)
  have op : fld word 25 7 = 15#7 := he ▸ bitsHi (bitsHi (bitsHi (bitsHi (bitsHi (bitsHi bitsAll)))))
  have f23_2 : fld word 23 2 = spc.code := he ▸ bitsHi (bitsHi (bitsHi (bitsHi (bitsHi bitsLo))))
  have f17_6 : fld word 17 6 = d := he ▸ bitsHi (bitsHi (bitsHi (bitsHi bitsLo)))
  have f11_6 : fld word 11 6 = b := he ▸ bitsHi (bitsHi (bitsHi bitsLo))
  have f9_2 : fld word 9 2 = z.code := he ▸ bitsHi (bitsHi bitsLo)
  have f8_1 : fld word 8 1 = 0#1 := he ▸ bitsHi bitsLo
  have f0_8 : fld word 0 8 = o := he ▸ bitsLo
  have g0 : (spc.isSp) = true := hwf
  refine (memoryAt op).trans ?_
  change ((
      match (fld word 8 1).toNat with
      | 0 =>
        let d : SReg := fld word 17 6
        let b : SReg := fld word 11 6
        let o : BitVec 8 := fld word 0 8
        withCode (Space.ofCode (fld word 23 2)) fun spc =>
        withCode (Size.ofCode (fld word 9 2)) fun z =>
        gate (spc.isSp) <|
        .ok (.stfe spc d b z o)
      | 1 =>
        let d : VReg := fld word 17 5
        let b : SReg := fld word 11 6
        let o : BitVec 8 := fld word 0 8
        withCode (Space.ofCode (fld word 23 2)) fun spc =>
        withCode (Size.ofCode (fld word 9 2)) fun z =>
        gate (spc.isSp && z.isD) <|
        rsv (fld word 22 1 == 0) <|
        .ok (.stfeV spc d b z o)
      | _ => .error .illegalOp : Except Reject Instr)) = _
  rw [f23_2, f17_6, f11_6, f9_2, f8_1, f0_8, Space.ofCode_code, Size.ofCode_code]
  exact (gateOk g0).trans rfl

theorem stfeV (spc : Space) (d : VReg) (b : SReg) (z : Size) (o : BitVec 8) : Statement (.stfeV spc d b z o) := by
  intro hwf lane word henc
  obtain ⟨rfl, he⟩ := Prod.mk.inj (Option.some.inj henc)
  have op : fld word 25 7 = 15#7 := he ▸ bitsHi (bitsHi (bitsHi (bitsHi (bitsHi (bitsHi (bitsHi bitsAll))))))
  have f23_2 : fld word 23 2 = spc.code := he ▸ bitsHi (bitsHi (bitsHi (bitsHi (bitsHi (bitsHi bitsLo)))))
  have f22_1 : fld word 22 1 = 0#1 := he ▸ bitsHi (bitsHi (bitsHi (bitsHi (bitsHi bitsLo))))
  have f17_5 : fld word 17 5 = d := he ▸ bitsHi (bitsHi (bitsHi (bitsHi bitsLo)))
  have f11_6 : fld word 11 6 = b := he ▸ bitsHi (bitsHi (bitsHi bitsLo))
  have f9_2 : fld word 9 2 = z.code := he ▸ bitsHi (bitsHi bitsLo)
  have f8_1 : fld word 8 1 = 1#1 := he ▸ bitsHi bitsLo
  have f0_8 : fld word 0 8 = o := he ▸ bitsLo
  have g0 : (spc.isSp && z.isD) = true := hwf
  refine (memoryAt op).trans ?_
  change ((
      match (fld word 8 1).toNat with
      | 0 =>
        let d : SReg := fld word 17 6
        let b : SReg := fld word 11 6
        let o : BitVec 8 := fld word 0 8
        withCode (Space.ofCode (fld word 23 2)) fun spc =>
        withCode (Size.ofCode (fld word 9 2)) fun z =>
        gate (spc.isSp) <|
        .ok (.stfe spc d b z o)
      | 1 =>
        let d : VReg := fld word 17 5
        let b : SReg := fld word 11 6
        let o : BitVec 8 := fld word 0 8
        withCode (Space.ofCode (fld word 23 2)) fun spc =>
        withCode (Size.ofCode (fld word 9 2)) fun z =>
        gate (spc.isSp && z.isD) <|
        rsv (fld word 22 1 == 0) <|
        .ok (.stfeV spc d b z o)
      | _ => .error .illegalOp : Except Reject Instr)) = _
  rw [f23_2, f22_1, f17_5, f11_6, f9_2, f8_1, f0_8, Space.ofCode_code, Size.ofCode_code]
  exact (gateOk g0).trans ((rsvOk (by rfl)).trans rfl)

theorem feset (spc : Space) (b i : SReg) : Statement (.feset spc b i) := by
  intro hwf lane word henc
  obtain ⟨rfl, he⟩ := Prod.mk.inj (Option.some.inj henc)
  have op : fld word 25 7 = 16#7 := he ▸ bitsHi (bitsHi (bitsHi (bitsHi (bitsHi bitsAll))))
  have f23_2 : fld word 23 2 = spc.code := he ▸ bitsHi (bitsHi (bitsHi (bitsHi bitsLo)))
  have f17_6 : fld word 17 6 = 0#6 := he ▸ bitsHi (bitsHi (bitsHi bitsLo))
  have f11_6 : fld word 11 6 = b := he ▸ bitsHi (bitsHi bitsLo)
  have f5_6 : fld word 5 6 = i := he ▸ bitsHi bitsLo
  have f0_5 : fld word 0 5 = 0#5 := he ▸ bitsLo
  have g0 : (spc.isSp) = true := hwf
  refine (memoryAt op).trans ?_
  change ((
      let b : SReg := fld word 11 6
      let i : SReg := fld word 5 6
      withCode (Space.ofCode (fld word 23 2)) fun spc =>
      gate (spc.isSp) <|
      rsv (fld word 0 5 == 0 && fld word 17 6 == 0) <|
      .ok (.feset spc b i) : Except Reject Instr)) = _
  rw [f23_2, f17_6, f11_6, f5_6, f0_5, Space.ofCode_code]
  exact (gateOk g0).trans ((rsvOk (by rfl)).trans rfl)

theorem feclr (spc : Space) (b i : SReg) : Statement (.feclr spc b i) := by
  intro hwf lane word henc
  obtain ⟨rfl, he⟩ := Prod.mk.inj (Option.some.inj henc)
  have op : fld word 25 7 = 17#7 := he ▸ bitsHi (bitsHi (bitsHi (bitsHi (bitsHi bitsAll))))
  have f23_2 : fld word 23 2 = spc.code := he ▸ bitsHi (bitsHi (bitsHi (bitsHi bitsLo)))
  have f17_6 : fld word 17 6 = 0#6 := he ▸ bitsHi (bitsHi (bitsHi bitsLo))
  have f11_6 : fld word 11 6 = b := he ▸ bitsHi (bitsHi bitsLo)
  have f5_6 : fld word 5 6 = i := he ▸ bitsHi bitsLo
  have f0_5 : fld word 0 5 = 0#5 := he ▸ bitsLo
  have g0 : (spc.isSp) = true := hwf
  refine (memoryAt op).trans ?_
  change ((
      let b : SReg := fld word 11 6
      let i : SReg := fld word 5 6
      withCode (Space.ofCode (fld word 23 2)) fun spc =>
      gate (spc.isSp) <|
      rsv (fld word 0 5 == 0 && fld word 17 6 == 0) <|
      .ok (.feclr spc b i) : Except Reject Instr)) = _
  rw [f23_2, f17_6, f11_6, f5_6, f0_5, Space.ofCode_code]
  exact (gateOk g0).trans ((rsvOk (by rfl)).trans rfl)

theorem amo (spc : Space) (d b : SReg) (f : AmoOp) (sc : Scope) (z : Size) (o : Order) : Statement (.amo spc d b f sc z o) := by
  intro hwf lane word henc
  obtain ⟨rfl, he⟩ := Prod.mk.inj (Option.some.inj henc)
  have op : fld word 25 7 = 18#7 := he ▸ bitsHi (bitsHi (bitsHi (bitsHi (bitsHi (bitsHi (bitsHi bitsAll))))))
  have f23_2 : fld word 23 2 = spc.code := he ▸ bitsHi (bitsHi (bitsHi (bitsHi (bitsHi (bitsHi bitsLo)))))
  have f17_6 : fld word 17 6 = d := he ▸ bitsHi (bitsHi (bitsHi (bitsHi (bitsHi bitsLo))))
  have f11_6 : fld word 11 6 = b := he ▸ bitsHi (bitsHi (bitsHi (bitsHi bitsLo)))
  have f7_4 : fld word 7 4 = f.code := he ▸ bitsHi (bitsHi (bitsHi bitsLo))
  have f4_3 : fld word 4 3 = sc.code := he ▸ bitsHi (bitsHi bitsLo)
  have f2_2 : fld word 2 2 = z.code := he ▸ bitsHi bitsLo
  have f0_2 : fld word 0 2 = o.code := he ▸ bitsLo
  have g0 : (spc.notCd) = true := hwf
  refine (memoryAt op).trans ?_
  change ((
      let d : SReg := fld word 17 6
      let b : SReg := fld word 11 6
      withCode (Space.ofCode (fld word 23 2)) fun spc =>
      withCode (AmoOp.ofCode (fld word 7 4)) fun f =>
      withCode (Scope.ofCode (fld word 4 3)) fun sc =>
      withCode (Size.ofCode (fld word 2 2)) fun z =>
      withCode (Order.ofCode (fld word 0 2)) fun o =>
      gate (spc.notCd) <|
      .ok (.amo spc d b f sc z o) : Except Reject Instr)) = _
  rw [f23_2, f17_6, f11_6, f7_4, f4_3, f2_2, f0_2, Space.ofCode_code, AmoOp.ofCode_code, Scope.ofCode_code, Size.ofCode_code, Order.ofCode_code]
  exact (gateOk g0).trans rfl

theorem amof (spc : Space) (d b : SReg) (f : FAmo) (sc : Scope) (z : Size) (o : Order) : Statement (.amof spc d b f sc z o) := by
  intro hwf lane word henc
  obtain ⟨rfl, he⟩ := Prod.mk.inj (Option.some.inj henc)
  have op : fld word 25 7 = 19#7 := he ▸ bitsHi (bitsHi (bitsHi (bitsHi (bitsHi (bitsHi (bitsHi bitsAll))))))
  have f23_2 : fld word 23 2 = spc.code := he ▸ bitsHi (bitsHi (bitsHi (bitsHi (bitsHi (bitsHi bitsLo)))))
  have f17_6 : fld word 17 6 = d := he ▸ bitsHi (bitsHi (bitsHi (bitsHi (bitsHi bitsLo))))
  have f11_6 : fld word 11 6 = b := he ▸ bitsHi (bitsHi (bitsHi (bitsHi bitsLo)))
  have f7_4 : fld word 7 4 = f.code := he ▸ bitsHi (bitsHi (bitsHi bitsLo))
  have f4_3 : fld word 4 3 = sc.code := he ▸ bitsHi (bitsHi bitsLo)
  have f2_2 : fld word 2 2 = z.code := he ▸ bitsHi bitsLo
  have f0_2 : fld word 0 2 = o.code := he ▸ bitsLo
  obtain ⟨g0, g1⟩ : (spc.notCd && f.okSize z) = true ∧ f.fmtBitOk z = true :=
    Bool.and_eq_true_iff.mp hwf
  refine (memoryAt op).trans ?_
  change ((
      let d : SReg := fld word 17 6
      let b : SReg := fld word 11 6
      withCode (Space.ofCode (fld word 23 2)) fun spc =>
      withCode (FAmo.ofCode (fld word 7 4)) fun f =>
      withCode (Scope.ofCode (fld word 4 3)) fun sc =>
      withCode (Size.ofCode (fld word 2 2)) fun z =>
      withCode (Order.ofCode (fld word 0 2)) fun o =>
      gate (spc.notCd && f.okSize z) <|
      rsv (f.fmtBitOk z) <|
      .ok (.amof spc d b f sc z o) : Except Reject Instr)) = _
  rw [f23_2, f17_6, f11_6, f7_4, f4_3, f2_2, f0_2, Space.ofCode_code, FAmo.ofCode_code, Scope.ofCode_code, Size.ofCode_code, Order.ofCode_code]
  exact (gateOk g0).trans ((rsvOk g1).trans rfl)

theorem cas (spc : Space) (d b : SReg) (sc : Scope) (z : Size) (o : Order) : Statement (.cas spc d b sc z o) := by
  intro hwf lane word henc
  obtain ⟨rfl, he⟩ := Prod.mk.inj (Option.some.inj henc)
  have op : fld word 25 7 = 20#7 := he ▸ bitsHi (bitsHi (bitsHi (bitsHi (bitsHi (bitsHi (bitsHi bitsAll))))))
  have f23_2 : fld word 23 2 = spc.code := he ▸ bitsHi (bitsHi (bitsHi (bitsHi (bitsHi (bitsHi bitsLo)))))
  have f17_6 : fld word 17 6 = d := he ▸ bitsHi (bitsHi (bitsHi (bitsHi (bitsHi bitsLo))))
  have f11_6 : fld word 11 6 = b := he ▸ bitsHi (bitsHi (bitsHi (bitsHi bitsLo)))
  have f7_4 : fld word 7 4 = 0#4 := he ▸ bitsHi (bitsHi (bitsHi bitsLo))
  have f4_3 : fld word 4 3 = sc.code := he ▸ bitsHi (bitsHi bitsLo)
  have f2_2 : fld word 2 2 = z.code := he ▸ bitsHi bitsLo
  have f0_2 : fld word 0 2 = o.code := he ▸ bitsLo
  have g0 : (spc.notCd && !(d.getLsbD 0)) = true := hwf
  refine (memoryAt op).trans ?_
  change ((
      let d : SReg := fld word 17 6
      let b : SReg := fld word 11 6
      withCode (Space.ofCode (fld word 23 2)) fun spc =>
      withCode (Scope.ofCode (fld word 4 3)) fun sc =>
      withCode (Size.ofCode (fld word 2 2)) fun z =>
      withCode (Order.ofCode (fld word 0 2)) fun o =>
      gate (spc.notCd && !(d.getLsbD 0)) <|
      rsv (fld word 7 4 == 0) <|
      .ok (.cas spc d b sc z o) : Except Reject Instr)) = _
  rw [f23_2, f17_6, f11_6, f7_4, f4_3, f2_2, f0_2, Space.ofCode_code, Scope.ofCode_code, Size.ofCode_code, Order.ofCode_code]
  exact (gateOk g0).trans ((rsvOk (by rfl)).trans rfl)

theorem vamo (spc : Space) (d : VReg) (b : SReg) (f : VamoOp) (sc : Scope) (z : Size) (o : Order) : Statement (.vamo spc d b f sc z o) := by
  intro hwf lane word henc
  obtain ⟨rfl, he⟩ := Prod.mk.inj (Option.some.inj henc)
  have op : fld word 25 7 = 21#7 := he ▸ bitsHi (bitsHi (bitsHi (bitsHi (bitsHi (bitsHi (bitsHi (bitsHi bitsAll)))))))
  have f23_2 : fld word 23 2 = spc.code := he ▸ bitsHi (bitsHi (bitsHi (bitsHi (bitsHi (bitsHi (bitsHi bitsLo))))))
  have f22_1 : fld word 22 1 = 0#1 := he ▸ bitsHi (bitsHi (bitsHi (bitsHi (bitsHi (bitsHi bitsLo)))))
  have f17_5 : fld word 17 5 = d := he ▸ bitsHi (bitsHi (bitsHi (bitsHi (bitsHi bitsLo))))
  have f11_6 : fld word 11 6 = b := he ▸ bitsHi (bitsHi (bitsHi (bitsHi bitsLo)))
  have f7_4 : fld word 7 4 = f.code := he ▸ bitsHi (bitsHi (bitsHi bitsLo))
  have f4_3 : fld word 4 3 = sc.code := he ▸ bitsHi (bitsHi bitsLo)
  have f2_2 : fld word 2 2 = z.code := he ▸ bitsHi bitsLo
  have f0_2 : fld word 0 2 = o.code := he ▸ bitsLo
  have g0 : (spc.notCd && f.okSize z) = true := hwf
  refine (memoryAt op).trans ?_
  change ((
      let d : VReg := fld word 17 5
      let b : SReg := fld word 11 6
      withCode (Space.ofCode (fld word 23 2)) fun spc =>
      withCode (VamoOp.ofCode (fld word 7 4)) fun f =>
      withCode (Scope.ofCode (fld word 4 3)) fun sc =>
      withCode (Size.ofCode (fld word 2 2)) fun z =>
      withCode (Order.ofCode (fld word 0 2)) fun o =>
      gate (spc.notCd && f.okSize z) <|
      rsv (fld word 22 1 == 0) <|
      .ok (.vamo spc d b f sc z o) : Except Reject Instr)) = _
  rw [f23_2, f22_1, f17_5, f11_6, f7_4, f4_3, f2_2, f0_2, Space.ofCode_code, VamoOp.ofCode_code, Scope.ofCode_code, Size.ofCode_code, Order.ofCode_code]
  exact (gateOk g0).trans ((rsvOk (by rfl)).trans rfl)

theorem fence (sc : Scope) (o : Order) : Statement (.fence sc o) := by
  intro hwf lane word henc
  obtain ⟨rfl, he⟩ := Prod.mk.inj (Option.some.inj henc)
  have op : fld word 25 7 = 22#7 := he ▸ bitsHi (bitsHi (bitsHi (bitsHi bitsAll)))
  have f7_18 : fld word 7 18 = 0#18 := he ▸ bitsHi (bitsHi (bitsHi bitsLo))
  have f4_3 : fld word 4 3 = sc.code := he ▸ bitsHi (bitsHi bitsLo)
  have f2_2 : fld word 2 2 = 0#2 := he ▸ bitsHi bitsLo
  have f0_2 : fld word 0 2 = o.code := he ▸ bitsLo
  have g0 : (o.isFence) = true := hwf
  refine (memoryAt op).trans ?_
  change ((
      withCode (Scope.ofCode (fld word 4 3)) fun sc =>
      withCode (Order.ofCode (fld word 0 2)) fun o =>
      gate (o.isFence) <|
      rsv (fld word 2 2 == 0 && fld word 7 18 == 0) <|
      .ok (.fence sc o) : Except Reject Instr)) = _
  rw [f7_18, f4_3, f2_2, f0_2, Scope.ofCode_code, Order.ofCode_code]
  exact (gateOk g0).trans ((rsvOk (by rfl)).trans rfl)

theorem stp (spc : Space) (d b : SReg) (z : Size) (o : BitVec 8) : Statement (.stp spc d b z o) := by
  intro hwf lane word henc
  obtain ⟨rfl, he⟩ := Prod.mk.inj (Option.some.inj henc)
  have op : fld word 25 7 = 23#7 := he ▸ bitsHi (bitsHi (bitsHi (bitsHi (bitsHi (bitsHi bitsAll)))))
  have f23_2 : fld word 23 2 = spc.code := he ▸ bitsHi (bitsHi (bitsHi (bitsHi (bitsHi bitsLo))))
  have f17_6 : fld word 17 6 = d := he ▸ bitsHi (bitsHi (bitsHi (bitsHi bitsLo)))
  have f11_6 : fld word 11 6 = b := he ▸ bitsHi (bitsHi (bitsHi bitsLo))
  have f9_2 : fld word 9 2 = z.code := he ▸ bitsHi (bitsHi bitsLo)
  have f8_1 : fld word 8 1 = 0#1 := he ▸ bitsHi bitsLo
  have f0_8 : fld word 0 8 = o := he ▸ bitsLo
  have g0 : (spc.notCd) = true := hwf
  refine (memoryAt op).trans ?_
  change ((
      let d : SReg := fld word 17 6
      let b : SReg := fld word 11 6
      let o : BitVec 8 := fld word 0 8
      withCode (Space.ofCode (fld word 23 2)) fun spc =>
      withCode (Size.ofCode (fld word 9 2)) fun z =>
      gate (spc.notCd) <|
      rsv (fld word 8 1 == 0) <|
      .ok (.stp spc d b z o) : Except Reject Instr)) = _
  rw [f23_2, f17_6, f11_6, f9_2, f8_1, f0_8, Space.ofCode_code, Size.ofCode_code]
  exact (gateOk g0).trans ((rsvOk (by rfl)).trans rfl)

theorem vstp (spc : Space) (d : VReg) (b : SReg) (o : BitVec 11) : Statement (.vstp spc d b o) := by
  intro hwf lane word henc
  obtain ⟨rfl, he⟩ := Prod.mk.inj (Option.some.inj henc)
  have op : fld word 25 7 = 24#7 := he ▸ bitsHi (bitsHi (bitsHi (bitsHi (bitsHi bitsAll))))
  have f23_2 : fld word 23 2 = spc.code := he ▸ bitsHi (bitsHi (bitsHi (bitsHi bitsLo)))
  have f22_1 : fld word 22 1 = 0#1 := he ▸ bitsHi (bitsHi (bitsHi bitsLo))
  have f17_5 : fld word 17 5 = d := he ▸ bitsHi (bitsHi bitsLo)
  have f11_6 : fld word 11 6 = b := he ▸ bitsHi bitsLo
  have f0_11 : fld word 0 11 = o := he ▸ bitsLo
  have g0 : (spc.notCd) = true := hwf
  refine (memoryAt op).trans ?_
  change ((
      let d : VReg := fld word 17 5
      let b : SReg := fld word 11 6
      let o : BitVec 11 := fld word 0 11
      withCode (Space.ofCode (fld word 23 2)) fun spc =>
      gate (spc.notCd) <|
      rsv (fld word 22 1 == 0) <|
      .ok (.vstp spc d b o) : Except Reject Instr)) = _
  rw [f23_2, f22_1, f17_5, f11_6, f0_11, Space.ofCode_code]
  exact (gateOk g0).trans ((rsvOk (by rfl)).trans rfl)

theorem contrib (d : VReg) (i : SReg) (n : BitVec 7) : Statement (.contrib d i n) := by
  intro hwf lane word henc
  obtain ⟨rfl, he⟩ := Prod.mk.inj (Option.some.inj henc)
  have op : fld word 25 7 = 25#7 := he ▸ bitsHi (bitsHi (bitsHi (bitsHi (bitsHi bitsAll))))
  have f22_3 : fld word 22 3 = 0#3 := he ▸ bitsHi (bitsHi (bitsHi (bitsHi bitsLo)))
  have f17_5 : fld word 17 5 = d := he ▸ bitsHi (bitsHi (bitsHi bitsLo))
  have f13_4 : fld word 13 4 = 0#4 := he ▸ bitsHi (bitsHi bitsLo)
  have f7_6 : fld word 7 6 = i := he ▸ bitsHi bitsLo
  have f0_7 : fld word 0 7 = n := he ▸ bitsLo
  refine (memoryAt op).trans ?_
  change ((
      let d : VReg := fld word 17 5
      let i : SReg := fld word 7 6
      let n : BitVec 7 := fld word 0 7
      rsv (fld word 13 4 == 0 && fld word 22 3 == 0) <|
      .ok (.contrib d i n) : Except Reject Instr)) = _
  rw [f22_3, f17_5, f13_4, f7_6, f0_7]
  exact (rsvOk (by rfl)).trans rfl

theorem pipep (d : VReg) (n : BitVec 4) : Statement (.pipep d n) := by
  intro hwf lane word henc
  obtain ⟨rfl, he⟩ := Prod.mk.inj (Option.some.inj henc)
  have op : fld word 25 7 = 26#7 := he ▸ bitsHi (bitsHi (bitsHi (bitsHi bitsAll)))
  have f22_3 : fld word 22 3 = 0#3 := he ▸ bitsHi (bitsHi (bitsHi bitsLo))
  have f17_5 : fld word 17 5 = d := he ▸ bitsHi (bitsHi bitsLo)
  have f4_13 : fld word 4 13 = 0#13 := he ▸ bitsHi bitsLo
  have f0_4 : fld word 0 4 = n := he ▸ bitsLo
  refine (memoryAt op).trans ?_
  change ((
      let d : VReg := fld word 17 5
      let n : BitVec 4 := fld word 0 4
      rsv (fld word 4 13 == 0 && fld word 22 3 == 0) <|
      .ok (.pipep d n) : Except Reject Instr)) = _
  rw [f22_3, f17_5, f4_13, f0_4]
  exact (rsvOk (by rfl)).trans rfl

theorem pipeg (d : VReg) (n : BitVec 4) : Statement (.pipeg d n) := by
  intro hwf lane word henc
  obtain ⟨rfl, he⟩ := Prod.mk.inj (Option.some.inj henc)
  have op : fld word 25 7 = 27#7 := he ▸ bitsHi (bitsHi (bitsHi (bitsHi bitsAll)))
  have f22_3 : fld word 22 3 = 0#3 := he ▸ bitsHi (bitsHi (bitsHi bitsLo))
  have f17_5 : fld word 17 5 = d := he ▸ bitsHi (bitsHi bitsLo)
  have f4_13 : fld word 4 13 = 0#13 := he ▸ bitsHi bitsLo
  have f0_4 : fld word 0 4 = n := he ▸ bitsLo
  refine (memoryAt op).trans ?_
  change ((
      let d : VReg := fld word 17 5
      let n : BitVec 4 := fld word 0 4
      rsv (fld word 4 13 == 0 && fld word 22 3 == 0) <|
      .ok (.pipeg d n) : Except Reject Instr)) = _
  rw [f22_3, f17_5, f4_13, f0_4]
  exact (rsvOk (by rfl)).trans rfl

theorem pref (spc : Space) (dc : Bool) (b : SReg) (o : BitVec 11) : Statement (.pref spc dc b o) := by
  intro hwf lane word henc
  obtain ⟨rfl, he⟩ := Prod.mk.inj (Option.some.inj henc)
  have op : fld word 25 7 = 28#7 := he ▸ bitsHi (bitsHi (bitsHi (bitsHi (bitsHi bitsAll))))
  have f23_2 : fld word 23 2 = spc.code := he ▸ bitsHi (bitsHi (bitsHi (bitsHi bitsLo)))
  have f18_5 : fld word 18 5 = 0#5 := he ▸ bitsHi (bitsHi (bitsHi bitsLo))
  have f17_1 : fld word 17 1 = BitVec.ofBool dc := he ▸ bitsHi (bitsHi bitsLo)
  have f11_6 : fld word 11 6 = b := he ▸ bitsHi bitsLo
  have f0_11 : fld word 0 11 = o := he ▸ bitsLo
  have g0 : (spc.isG) = true := hwf
  refine (memoryAt op).trans ?_
  change ((
      let dc : Bool := fld word 17 1 == 1
      let b : SReg := fld word 11 6
      let o : BitVec 11 := fld word 0 11
      withCode (Space.ofCode (fld word 23 2)) fun spc =>
      gate (spc.isG) <|
      rsv (fld word 18 5 == 0) <|
      .ok (.pref spc dc b o) : Except Reject Instr)) = _
  rw [f23_2, f18_5, f17_1, f11_6, f0_11, Space.ofCode_code, ofBool_beq_one]
  exact (gateOk g0).trans ((rsvOk (by rfl)).trans rfl)

theorem vpark (d : VReg) (j : BitVec 6) (c : AccReg) : Statement (.vpark d j c) := by
  intro hwf lane word henc
  obtain ⟨rfl, he⟩ := Prod.mk.inj (Option.some.inj henc)
  have op : fld word 25 7 = 29#7 := he ▸ bitsHi (bitsHi (bitsHi (bitsHi (bitsHi bitsAll))))
  have f22_3 : fld word 22 3 = 0#3 := he ▸ bitsHi (bitsHi (bitsHi (bitsHi bitsLo)))
  have f17_5 : fld word 17 5 = d := he ▸ bitsHi (bitsHi (bitsHi bitsLo))
  have f9_8 : fld word 9 8 = 0#8 := he ▸ bitsHi (bitsHi bitsLo)
  have f3_6 : fld word 3 6 = j := he ▸ bitsHi bitsLo
  have f0_3 : fld word 0 3 = c := he ▸ bitsLo
  have g0 : (decide (j.toNat < 56)) = true := hwf
  refine (memoryAt op).trans ?_
  change ((
      let d : VReg := fld word 17 5
      let j : BitVec 6 := fld word 3 6
      let c : AccReg := fld word 0 3
      gate (decide (j.toNat < 56)) <|
      rsv (fld word 9 8 == 0 && fld word 22 3 == 0) <|
      .ok (.vpark d j c) : Except Reject Instr)) = _
  rw [f22_3, f17_5, f9_8, f3_6, f0_3]
  exact (gateOk g0).trans ((rsvOk (by rfl)).trans rfl)

theorem vunpark (d : VReg) (rel : Bool) (j : BitVec 6) (c : AccReg) : Statement (.vunpark d rel j c) := by
  intro hwf lane word henc
  obtain ⟨rfl, he⟩ := Prod.mk.inj (Option.some.inj henc)
  have op : fld word 25 7 = 30#7 := he ▸ bitsHi (bitsHi (bitsHi (bitsHi (bitsHi (bitsHi (bitsHi bitsAll))))))
  have f22_3 : fld word 22 3 = 0#3 := he ▸ bitsHi (bitsHi (bitsHi (bitsHi (bitsHi (bitsHi bitsLo)))))
  have f17_5 : fld word 17 5 = d := he ▸ bitsHi (bitsHi (bitsHi (bitsHi (bitsHi bitsLo))))
  have f11_6 : fld word 11 6 = 0#6 := he ▸ bitsHi (bitsHi (bitsHi (bitsHi bitsLo)))
  have f10_1 : fld word 10 1 = BitVec.ofBool rel := he ▸ bitsHi (bitsHi (bitsHi bitsLo))
  have f9_1 : fld word 9 1 = 0#1 := he ▸ bitsHi (bitsHi bitsLo)
  have f3_6 : fld word 3 6 = j := he ▸ bitsHi bitsLo
  have f0_3 : fld word 0 3 = c := he ▸ bitsLo
  have g0 : (decide (j.toNat < 56)) = true := hwf
  refine (memoryAt op).trans ?_
  change ((
      let d : VReg := fld word 17 5
      let rel : Bool := fld word 10 1 == 1
      let j : BitVec 6 := fld word 3 6
      let c : AccReg := fld word 0 3
      gate (decide (j.toNat < 56)) <|
      rsv (fld word 9 1 == 0 && fld word 11 6 == 0 && fld word 22 3 == 0) <|
      .ok (.vunpark d rel j c) : Except Reject Instr)) = _
  rw [f22_3, f17_5, f11_6, f10_1, f9_1, f3_6, f0_3, ofBool_beq_one]
  exact (gateOk g0).trans ((rsvOk (by rfl)).trans rfl)

theorem dset (d : SReg) (k : DReg) (f : BitVec 6) : Statement (.dset d k f) := by
  intro hwf lane word henc
  obtain ⟨rfl, he⟩ := Prod.mk.inj (Option.some.inj henc)
  have op : fld word 25 7 = 31#7 := he ▸ bitsHi (bitsHi (bitsHi (bitsHi (bitsHi (bitsHi bitsAll)))))
  have f23_2 : fld word 23 2 = 0#2 := he ▸ bitsHi (bitsHi (bitsHi (bitsHi (bitsHi bitsLo))))
  have f17_6 : fld word 17 6 = d := he ▸ bitsHi (bitsHi (bitsHi (bitsHi bitsLo)))
  have f13_4 : fld word 13 4 = k := he ▸ bitsHi (bitsHi (bitsHi bitsLo))
  have f7_6 : fld word 7 6 = 0#6 := he ▸ bitsHi (bitsHi bitsLo)
  have f6_1 : fld word 6 1 = 0#1 := he ▸ bitsHi bitsLo
  have f0_6 : fld word 0 6 = f := he ▸ bitsLo
  have g0 : (decide (f.toNat < 14)) = true := hwf
  refine (memoryAt op).trans ?_
  change ((
      match (fld word 6 1).toNat with
      | 0 =>
        let d : SReg := fld word 17 6
        let k : DReg := fld word 13 4
        let f : BitVec 6 := fld word 0 6
        gate (decide (f.toNat < 14)) <|
        rsv (fld word 7 6 == 0 && fld word 23 2 == 0) <|
        .ok (.dset d k f)
      | 1 =>
        let d : SReg := fld word 17 6
        let k : DReg := fld word 13 4
        withCode (Space.ofCode (fld word 23 2)) fun spc =>
        rsv (fld word 0 6 == 0 && fld word 7 6 == 0) <|
        .ok (.dsetImg spc d k)
      | _ => .error .illegalOp : Except Reject Instr)) = _
  rw [f23_2, f17_6, f13_4, f7_6, f6_1, f0_6]
  exact (gateOk g0).trans ((rsvOk (by rfl)).trans rfl)

theorem dsetImg (spc : Space) (d : SReg) (k : DReg) : Statement (.dsetImg spc d k) := by
  intro hwf lane word henc
  obtain ⟨rfl, he⟩ := Prod.mk.inj (Option.some.inj henc)
  have op : fld word 25 7 = 31#7 := he ▸ bitsHi (bitsHi (bitsHi (bitsHi (bitsHi (bitsHi bitsAll)))))
  have f23_2 : fld word 23 2 = spc.code := he ▸ bitsHi (bitsHi (bitsHi (bitsHi (bitsHi bitsLo))))
  have f17_6 : fld word 17 6 = d := he ▸ bitsHi (bitsHi (bitsHi (bitsHi bitsLo)))
  have f13_4 : fld word 13 4 = k := he ▸ bitsHi (bitsHi (bitsHi bitsLo))
  have f7_6 : fld word 7 6 = 0#6 := he ▸ bitsHi (bitsHi bitsLo)
  have f6_1 : fld word 6 1 = 1#1 := he ▸ bitsHi bitsLo
  have f0_6 : fld word 0 6 = 0#6 := he ▸ bitsLo
  refine (memoryAt op).trans ?_
  change ((
      match (fld word 6 1).toNat with
      | 0 =>
        let d : SReg := fld word 17 6
        let k : DReg := fld word 13 4
        let f : BitVec 6 := fld word 0 6
        gate (decide (f.toNat < 14)) <|
        rsv (fld word 7 6 == 0 && fld word 23 2 == 0) <|
        .ok (.dset d k f)
      | 1 =>
        let d : SReg := fld word 17 6
        let k : DReg := fld word 13 4
        withCode (Space.ofCode (fld word 23 2)) fun spc =>
        rsv (fld word 0 6 == 0 && fld word 7 6 == 0) <|
        .ok (.dsetImg spc d k)
      | _ => .error .illegalOp : Except Reject Instr)) = _
  rw [f23_2, f17_6, f13_4, f7_6, f6_1, f0_6, Space.ofCode_code]
  exact (rsvOk (by rfl)).trans rfl

theorem dget (d : SReg) (k : DReg) (f : BitVec 6) : Statement (.dget d k f) := by
  intro hwf lane word henc
  obtain ⟨rfl, he⟩ := Prod.mk.inj (Option.some.inj henc)
  have op : fld word 25 7 = 32#7 := he ▸ bitsHi (bitsHi (bitsHi (bitsHi (bitsHi (bitsHi bitsAll)))))
  have f23_2 : fld word 23 2 = 0#2 := he ▸ bitsHi (bitsHi (bitsHi (bitsHi (bitsHi bitsLo))))
  have f17_6 : fld word 17 6 = d := he ▸ bitsHi (bitsHi (bitsHi (bitsHi bitsLo)))
  have f13_4 : fld word 13 4 = k := he ▸ bitsHi (bitsHi (bitsHi bitsLo))
  have f7_6 : fld word 7 6 = 0#6 := he ▸ bitsHi (bitsHi bitsLo)
  have f6_1 : fld word 6 1 = 0#1 := he ▸ bitsHi bitsLo
  have f0_6 : fld word 0 6 = f := he ▸ bitsLo
  have g0 : (decide (f.toNat < 14)) = true := hwf
  refine (memoryAt op).trans ?_
  change ((
      match (fld word 6 1).toNat with
      | 0 =>
        let d : SReg := fld word 17 6
        let k : DReg := fld word 13 4
        let f : BitVec 6 := fld word 0 6
        gate (decide (f.toNat < 14)) <|
        rsv (fld word 7 6 == 0 && fld word 23 2 == 0) <|
        .ok (.dget d k f)
      | 1 =>
        let d : SReg := fld word 17 6
        let k : DReg := fld word 13 4
        withCode (Space.ofCode (fld word 23 2)) fun spc =>
        gate (spc.notCd) <|
        rsv (fld word 0 6 == 0 && fld word 7 6 == 0) <|
        .ok (.dgetImg spc d k)
      | _ => .error .illegalOp : Except Reject Instr)) = _
  rw [f23_2, f17_6, f13_4, f7_6, f6_1, f0_6]
  exact (gateOk g0).trans ((rsvOk (by rfl)).trans rfl)

theorem dgetImg (spc : Space) (d : SReg) (k : DReg) : Statement (.dgetImg spc d k) := by
  intro hwf lane word henc
  obtain ⟨rfl, he⟩ := Prod.mk.inj (Option.some.inj henc)
  have op : fld word 25 7 = 32#7 := he ▸ bitsHi (bitsHi (bitsHi (bitsHi (bitsHi (bitsHi bitsAll)))))
  have f23_2 : fld word 23 2 = spc.code := he ▸ bitsHi (bitsHi (bitsHi (bitsHi (bitsHi bitsLo))))
  have f17_6 : fld word 17 6 = d := he ▸ bitsHi (bitsHi (bitsHi (bitsHi bitsLo)))
  have f13_4 : fld word 13 4 = k := he ▸ bitsHi (bitsHi (bitsHi bitsLo))
  have f7_6 : fld word 7 6 = 0#6 := he ▸ bitsHi (bitsHi bitsLo)
  have f6_1 : fld word 6 1 = 1#1 := he ▸ bitsHi bitsLo
  have f0_6 : fld word 0 6 = 0#6 := he ▸ bitsLo
  have g0 : (spc.notCd) = true := hwf
  refine (memoryAt op).trans ?_
  change ((
      match (fld word 6 1).toNat with
      | 0 =>
        let d : SReg := fld word 17 6
        let k : DReg := fld word 13 4
        let f : BitVec 6 := fld word 0 6
        gate (decide (f.toNat < 14)) <|
        rsv (fld word 7 6 == 0 && fld word 23 2 == 0) <|
        .ok (.dget d k f)
      | 1 =>
        let d : SReg := fld word 17 6
        let k : DReg := fld word 13 4
        withCode (Space.ofCode (fld word 23 2)) fun spc =>
        gate (spc.notCd) <|
        rsv (fld word 0 6 == 0 && fld word 7 6 == 0) <|
        .ok (.dgetImg spc d k)
      | _ => .error .illegalOp : Except Reject Instr)) = _
  rw [f23_2, f17_6, f13_4, f7_6, f6_1, f0_6, Space.ofCode_code]
  exact (gateOk g0).trans ((rsvOk (by rfl)).trans rfl)

theorem vadd (d a b : VReg) (t : ETy) (mk : MReg) (g : Grp) (bc : Bool) : Statement (.vadd d a b t mk g bc) := by
  intro hwf lane word henc
  obtain ⟨rfl, he⟩ := Prod.mk.inj (Option.some.inj henc)
  have op : fld word 25 7 = 1#7 := he ▸ bitsHi (bitsHi (bitsHi (bitsHi (bitsHi (bitsHi (bitsHi bitsAll))))))
  have f20_5 : fld word 20 5 = d := he ▸ bitsHi (bitsHi (bitsHi (bitsHi (bitsHi (bitsHi bitsLo)))))
  have f15_5 : fld word 15 5 = a := he ▸ bitsHi (bitsHi (bitsHi (bitsHi (bitsHi bitsLo))))
  have f10_5 : fld word 10 5 = b := he ▸ bitsHi (bitsHi (bitsHi (bitsHi bitsLo)))
  have f6_4 : fld word 6 4 = t.code := he ▸ bitsHi (bitsHi (bitsHi bitsLo))
  have f3_3 : fld word 3 3 = mk := he ▸ bitsHi (bitsHi bitsLo)
  have f2_1 : fld word 2 1 = BitVec.ofBool bc := he ▸ bitsHi bitsLo
  have f0_2 : fld word 0 2 = g.code := he ▸ bitsLo
  have g0 : (t.isInt && g.aligned d && g.aligned a && (bc || g.aligned b)) = true := hwf
  refine (vectorAt op).trans ?_
  change ((
      let d : VReg := fld word 20 5
      let a : VReg := fld word 15 5
      let b : VReg := fld word 10 5
      let mk : MReg := fld word 3 3
      let bc : Bool := fld word 2 1 == 1
      withCode (ETy.ofCode (fld word 6 4)) fun t =>
      withCode (Grp.ofCode (fld word 0 2)) fun g =>
      gate (t.isInt && g.aligned d && g.aligned a && (bc || g.aligned b)) <|
      .ok (.vadd d a b t mk g bc) : Except Reject Instr)) = _
  rw [f20_5, f15_5, f10_5, f6_4, f3_3, f2_1, f0_2, ETy.ofCode_code, Grp.ofCode_code, ofBool_beq_one]
  exact (gateOk g0).trans rfl

theorem vsub (d a b : VReg) (t : ETy) (mk : MReg) (g : Grp) (bc : Bool) : Statement (.vsub d a b t mk g bc) := by
  intro hwf lane word henc
  obtain ⟨rfl, he⟩ := Prod.mk.inj (Option.some.inj henc)
  have op : fld word 25 7 = 2#7 := he ▸ bitsHi (bitsHi (bitsHi (bitsHi (bitsHi (bitsHi (bitsHi bitsAll))))))
  have f20_5 : fld word 20 5 = d := he ▸ bitsHi (bitsHi (bitsHi (bitsHi (bitsHi (bitsHi bitsLo)))))
  have f15_5 : fld word 15 5 = a := he ▸ bitsHi (bitsHi (bitsHi (bitsHi (bitsHi bitsLo))))
  have f10_5 : fld word 10 5 = b := he ▸ bitsHi (bitsHi (bitsHi (bitsHi bitsLo)))
  have f6_4 : fld word 6 4 = t.code := he ▸ bitsHi (bitsHi (bitsHi bitsLo))
  have f3_3 : fld word 3 3 = mk := he ▸ bitsHi (bitsHi bitsLo)
  have f2_1 : fld word 2 1 = BitVec.ofBool bc := he ▸ bitsHi bitsLo
  have f0_2 : fld word 0 2 = g.code := he ▸ bitsLo
  have g0 : (t.isInt && g.aligned d && g.aligned a && (bc || g.aligned b)) = true := hwf
  refine (vectorAt op).trans ?_
  change ((
      let d : VReg := fld word 20 5
      let a : VReg := fld word 15 5
      let b : VReg := fld word 10 5
      let mk : MReg := fld word 3 3
      let bc : Bool := fld word 2 1 == 1
      withCode (ETy.ofCode (fld word 6 4)) fun t =>
      withCode (Grp.ofCode (fld word 0 2)) fun g =>
      gate (t.isInt && g.aligned d && g.aligned a && (bc || g.aligned b)) <|
      .ok (.vsub d a b t mk g bc) : Except Reject Instr)) = _
  rw [f20_5, f15_5, f10_5, f6_4, f3_3, f2_1, f0_2, ETy.ofCode_code, Grp.ofCode_code, ofBool_beq_one]
  exact (gateOk g0).trans rfl

theorem vadds (d a b : VReg) (t : ETy) (mk : MReg) (g : Grp) (bc : Bool) : Statement (.vadds d a b t mk g bc) := by
  intro hwf lane word henc
  obtain ⟨rfl, he⟩ := Prod.mk.inj (Option.some.inj henc)
  have op : fld word 25 7 = 3#7 := he ▸ bitsHi (bitsHi (bitsHi (bitsHi (bitsHi (bitsHi (bitsHi bitsAll))))))
  have f20_5 : fld word 20 5 = d := he ▸ bitsHi (bitsHi (bitsHi (bitsHi (bitsHi (bitsHi bitsLo)))))
  have f15_5 : fld word 15 5 = a := he ▸ bitsHi (bitsHi (bitsHi (bitsHi (bitsHi bitsLo))))
  have f10_5 : fld word 10 5 = b := he ▸ bitsHi (bitsHi (bitsHi (bitsHi bitsLo)))
  have f6_4 : fld word 6 4 = t.code := he ▸ bitsHi (bitsHi (bitsHi bitsLo))
  have f3_3 : fld word 3 3 = mk := he ▸ bitsHi (bitsHi bitsLo)
  have f2_1 : fld word 2 1 = BitVec.ofBool bc := he ▸ bitsHi bitsLo
  have f0_2 : fld word 0 2 = g.code := he ▸ bitsLo
  have g0 : (t.isInt && g.aligned d && g.aligned a && (bc || g.aligned b)) = true := hwf
  refine (vectorAt op).trans ?_
  change ((
      let d : VReg := fld word 20 5
      let a : VReg := fld word 15 5
      let b : VReg := fld word 10 5
      let mk : MReg := fld word 3 3
      let bc : Bool := fld word 2 1 == 1
      withCode (ETy.ofCode (fld word 6 4)) fun t =>
      withCode (Grp.ofCode (fld word 0 2)) fun g =>
      gate (t.isInt && g.aligned d && g.aligned a && (bc || g.aligned b)) <|
      .ok (.vadds d a b t mk g bc) : Except Reject Instr)) = _
  rw [f20_5, f15_5, f10_5, f6_4, f3_3, f2_1, f0_2, ETy.ofCode_code, Grp.ofCode_code, ofBool_beq_one]
  exact (gateOk g0).trans rfl

theorem vsubs (d a b : VReg) (t : ETy) (mk : MReg) (g : Grp) (bc : Bool) : Statement (.vsubs d a b t mk g bc) := by
  intro hwf lane word henc
  obtain ⟨rfl, he⟩ := Prod.mk.inj (Option.some.inj henc)
  have op : fld word 25 7 = 4#7 := he ▸ bitsHi (bitsHi (bitsHi (bitsHi (bitsHi (bitsHi (bitsHi bitsAll))))))
  have f20_5 : fld word 20 5 = d := he ▸ bitsHi (bitsHi (bitsHi (bitsHi (bitsHi (bitsHi bitsLo)))))
  have f15_5 : fld word 15 5 = a := he ▸ bitsHi (bitsHi (bitsHi (bitsHi (bitsHi bitsLo))))
  have f10_5 : fld word 10 5 = b := he ▸ bitsHi (bitsHi (bitsHi (bitsHi bitsLo)))
  have f6_4 : fld word 6 4 = t.code := he ▸ bitsHi (bitsHi (bitsHi bitsLo))
  have f3_3 : fld word 3 3 = mk := he ▸ bitsHi (bitsHi bitsLo)
  have f2_1 : fld word 2 1 = BitVec.ofBool bc := he ▸ bitsHi bitsLo
  have f0_2 : fld word 0 2 = g.code := he ▸ bitsLo
  have g0 : (t.isInt && g.aligned d && g.aligned a && (bc || g.aligned b)) = true := hwf
  refine (vectorAt op).trans ?_
  change ((
      let d : VReg := fld word 20 5
      let a : VReg := fld word 15 5
      let b : VReg := fld word 10 5
      let mk : MReg := fld word 3 3
      let bc : Bool := fld word 2 1 == 1
      withCode (ETy.ofCode (fld word 6 4)) fun t =>
      withCode (Grp.ofCode (fld word 0 2)) fun g =>
      gate (t.isInt && g.aligned d && g.aligned a && (bc || g.aligned b)) <|
      .ok (.vsubs d a b t mk g bc) : Except Reject Instr)) = _
  rw [f20_5, f15_5, f10_5, f6_4, f3_3, f2_1, f0_2, ETy.ofCode_code, Grp.ofCode_code, ofBool_beq_one]
  exact (gateOk g0).trans rfl

theorem vmul (d a b : VReg) (t : ETy) (mk : MReg) (g : Grp) (bc : Bool) : Statement (.vmul d a b t mk g bc) := by
  intro hwf lane word henc
  obtain ⟨rfl, he⟩ := Prod.mk.inj (Option.some.inj henc)
  have op : fld word 25 7 = 5#7 := he ▸ bitsHi (bitsHi (bitsHi (bitsHi (bitsHi (bitsHi (bitsHi bitsAll))))))
  have f20_5 : fld word 20 5 = d := he ▸ bitsHi (bitsHi (bitsHi (bitsHi (bitsHi (bitsHi bitsLo)))))
  have f15_5 : fld word 15 5 = a := he ▸ bitsHi (bitsHi (bitsHi (bitsHi (bitsHi bitsLo))))
  have f10_5 : fld word 10 5 = b := he ▸ bitsHi (bitsHi (bitsHi (bitsHi bitsLo)))
  have f6_4 : fld word 6 4 = t.code := he ▸ bitsHi (bitsHi (bitsHi bitsLo))
  have f3_3 : fld word 3 3 = mk := he ▸ bitsHi (bitsHi bitsLo)
  have f2_1 : fld word 2 1 = BitVec.ofBool bc := he ▸ bitsHi bitsLo
  have f0_2 : fld word 0 2 = g.code := he ▸ bitsLo
  have g0 : (t.isInt && g.aligned d && g.aligned a && (bc || g.aligned b)) = true := hwf
  refine (vectorAt op).trans ?_
  change ((
      let d : VReg := fld word 20 5
      let a : VReg := fld word 15 5
      let b : VReg := fld word 10 5
      let mk : MReg := fld word 3 3
      let bc : Bool := fld word 2 1 == 1
      withCode (ETy.ofCode (fld word 6 4)) fun t =>
      withCode (Grp.ofCode (fld word 0 2)) fun g =>
      gate (t.isInt && g.aligned d && g.aligned a && (bc || g.aligned b)) <|
      .ok (.vmul d a b t mk g bc) : Except Reject Instr)) = _
  rw [f20_5, f15_5, f10_5, f6_4, f3_3, f2_1, f0_2, ETy.ofCode_code, Grp.ofCode_code, ofBool_beq_one]
  exact (gateOk g0).trans rfl

theorem vmulh (d a b : VReg) (t : ETy) (mk : MReg) (g : Grp) (bc : Bool) : Statement (.vmulh d a b t mk g bc) := by
  intro hwf lane word henc
  obtain ⟨rfl, he⟩ := Prod.mk.inj (Option.some.inj henc)
  have op : fld word 25 7 = 6#7 := he ▸ bitsHi (bitsHi (bitsHi (bitsHi (bitsHi (bitsHi (bitsHi bitsAll))))))
  have f20_5 : fld word 20 5 = d := he ▸ bitsHi (bitsHi (bitsHi (bitsHi (bitsHi (bitsHi bitsLo)))))
  have f15_5 : fld word 15 5 = a := he ▸ bitsHi (bitsHi (bitsHi (bitsHi (bitsHi bitsLo))))
  have f10_5 : fld word 10 5 = b := he ▸ bitsHi (bitsHi (bitsHi (bitsHi bitsLo)))
  have f6_4 : fld word 6 4 = t.code := he ▸ bitsHi (bitsHi (bitsHi bitsLo))
  have f3_3 : fld word 3 3 = mk := he ▸ bitsHi (bitsHi bitsLo)
  have f2_1 : fld word 2 1 = BitVec.ofBool bc := he ▸ bitsHi bitsLo
  have f0_2 : fld word 0 2 = g.code := he ▸ bitsLo
  have g0 : (t.isInt && g.aligned d && g.aligned a && (bc || g.aligned b)) = true := hwf
  refine (vectorAt op).trans ?_
  change ((
      let d : VReg := fld word 20 5
      let a : VReg := fld word 15 5
      let b : VReg := fld word 10 5
      let mk : MReg := fld word 3 3
      let bc : Bool := fld word 2 1 == 1
      withCode (ETy.ofCode (fld word 6 4)) fun t =>
      withCode (Grp.ofCode (fld word 0 2)) fun g =>
      gate (t.isInt && g.aligned d && g.aligned a && (bc || g.aligned b)) <|
      .ok (.vmulh d a b t mk g bc) : Except Reject Instr)) = _
  rw [f20_5, f15_5, f10_5, f6_4, f3_3, f2_1, f0_2, ETy.ofCode_code, Grp.ofCode_code, ofBool_beq_one]
  exact (gateOk g0).trans rfl

theorem vmulw (d a b : VReg) (t : ETy) (mk : MReg) (bc : Bool) : Statement (.vmulw d a b t mk bc) := by
  intro hwf lane word henc
  obtain ⟨rfl, he⟩ := Prod.mk.inj (Option.some.inj henc)
  have op : fld word 25 7 = 7#7 := he ▸ bitsHi (bitsHi (bitsHi (bitsHi (bitsHi (bitsHi (bitsHi bitsAll))))))
  have f20_5 : fld word 20 5 = d := he ▸ bitsHi (bitsHi (bitsHi (bitsHi (bitsHi (bitsHi bitsLo)))))
  have f15_5 : fld word 15 5 = a := he ▸ bitsHi (bitsHi (bitsHi (bitsHi (bitsHi bitsLo))))
  have f10_5 : fld word 10 5 = b := he ▸ bitsHi (bitsHi (bitsHi (bitsHi bitsLo)))
  have f6_4 : fld word 6 4 = t.code := he ▸ bitsHi (bitsHi (bitsHi bitsLo))
  have f3_3 : fld word 3 3 = mk := he ▸ bitsHi (bitsHi bitsLo)
  have f2_1 : fld word 2 1 = BitVec.ofBool bc := he ▸ bitsHi bitsLo
  have f0_2 : fld word 0 2 = 0#2 := he ▸ bitsLo
  have g0 : (t.isWidenInt && Grp.g2.aligned d) = true := hwf
  refine (vectorAt op).trans ?_
  change ((
      let d : VReg := fld word 20 5
      let a : VReg := fld word 15 5
      let b : VReg := fld word 10 5
      let mk : MReg := fld word 3 3
      let bc : Bool := fld word 2 1 == 1
      withCode (ETy.ofCode (fld word 6 4)) fun t =>
      gate (t.isWidenInt && Grp.g2.aligned d) <|
      rsv (fld word 0 2 == 0) <|
      .ok (.vmulw d a b t mk bc) : Except Reject Instr)) = _
  rw [f20_5, f15_5, f10_5, f6_4, f3_3, f2_1, f0_2, ETy.ofCode_code, ofBool_beq_one]
  exact (gateOk g0).trans ((rsvOk (by rfl)).trans rfl)

theorem vmac (d a b : VReg) (t : ETy) (mk : MReg) (g : Grp) (bc : Bool) : Statement (.vmac d a b t mk g bc) := by
  intro hwf lane word henc
  obtain ⟨rfl, he⟩ := Prod.mk.inj (Option.some.inj henc)
  have op : fld word 25 7 = 8#7 := he ▸ bitsHi (bitsHi (bitsHi (bitsHi (bitsHi (bitsHi (bitsHi bitsAll))))))
  have f20_5 : fld word 20 5 = d := he ▸ bitsHi (bitsHi (bitsHi (bitsHi (bitsHi (bitsHi bitsLo)))))
  have f15_5 : fld word 15 5 = a := he ▸ bitsHi (bitsHi (bitsHi (bitsHi (bitsHi bitsLo))))
  have f10_5 : fld word 10 5 = b := he ▸ bitsHi (bitsHi (bitsHi (bitsHi bitsLo)))
  have f6_4 : fld word 6 4 = t.code := he ▸ bitsHi (bitsHi (bitsHi bitsLo))
  have f3_3 : fld word 3 3 = mk := he ▸ bitsHi (bitsHi bitsLo)
  have f2_1 : fld word 2 1 = BitVec.ofBool bc := he ▸ bitsHi bitsLo
  have f0_2 : fld word 0 2 = g.code := he ▸ bitsLo
  have g0 : (t.isInt && g.aligned d && g.aligned a && (bc || g.aligned b)) = true := hwf
  refine (vectorAt op).trans ?_
  change ((
      let d : VReg := fld word 20 5
      let a : VReg := fld word 15 5
      let b : VReg := fld word 10 5
      let mk : MReg := fld word 3 3
      let bc : Bool := fld word 2 1 == 1
      withCode (ETy.ofCode (fld word 6 4)) fun t =>
      withCode (Grp.ofCode (fld word 0 2)) fun g =>
      gate (t.isInt && g.aligned d && g.aligned a && (bc || g.aligned b)) <|
      .ok (.vmac d a b t mk g bc) : Except Reject Instr)) = _
  rw [f20_5, f15_5, f10_5, f6_4, f3_3, f2_1, f0_2, ETy.ofCode_code, Grp.ofCode_code, ofBool_beq_one]
  exact (gateOk g0).trans rfl

theorem vmacw (d a b : VReg) (t : ETy) (mk : MReg) (bc : Bool) : Statement (.vmacw d a b t mk bc) := by
  intro hwf lane word henc
  obtain ⟨rfl, he⟩ := Prod.mk.inj (Option.some.inj henc)
  have op : fld word 25 7 = 9#7 := he ▸ bitsHi (bitsHi (bitsHi (bitsHi (bitsHi (bitsHi (bitsHi bitsAll))))))
  have f20_5 : fld word 20 5 = d := he ▸ bitsHi (bitsHi (bitsHi (bitsHi (bitsHi (bitsHi bitsLo)))))
  have f15_5 : fld word 15 5 = a := he ▸ bitsHi (bitsHi (bitsHi (bitsHi (bitsHi bitsLo))))
  have f10_5 : fld word 10 5 = b := he ▸ bitsHi (bitsHi (bitsHi (bitsHi bitsLo)))
  have f6_4 : fld word 6 4 = t.code := he ▸ bitsHi (bitsHi (bitsHi bitsLo))
  have f3_3 : fld word 3 3 = mk := he ▸ bitsHi (bitsHi bitsLo)
  have f2_1 : fld word 2 1 = BitVec.ofBool bc := he ▸ bitsHi bitsLo
  have f0_2 : fld word 0 2 = 0#2 := he ▸ bitsLo
  have g0 : (t.isWidenInt && Grp.g2.aligned d) = true := hwf
  refine (vectorAt op).trans ?_
  change ((
      let d : VReg := fld word 20 5
      let a : VReg := fld word 15 5
      let b : VReg := fld word 10 5
      let mk : MReg := fld word 3 3
      let bc : Bool := fld word 2 1 == 1
      withCode (ETy.ofCode (fld word 6 4)) fun t =>
      gate (t.isWidenInt && Grp.g2.aligned d) <|
      rsv (fld word 0 2 == 0) <|
      .ok (.vmacw d a b t mk bc) : Except Reject Instr)) = _
  rw [f20_5, f15_5, f10_5, f6_4, f3_3, f2_1, f0_2, ETy.ofCode_code, ofBool_beq_one]
  exact (gateOk g0).trans ((rsvOk (by rfl)).trans rfl)

theorem vabsd (d a b : VReg) (t : ETy) (mk : MReg) (g : Grp) (bc : Bool) : Statement (.vabsd d a b t mk g bc) := by
  intro hwf lane word henc
  obtain ⟨rfl, he⟩ := Prod.mk.inj (Option.some.inj henc)
  have op : fld word 25 7 = 10#7 := he ▸ bitsHi (bitsHi (bitsHi (bitsHi (bitsHi (bitsHi (bitsHi bitsAll))))))
  have f20_5 : fld word 20 5 = d := he ▸ bitsHi (bitsHi (bitsHi (bitsHi (bitsHi (bitsHi bitsLo)))))
  have f15_5 : fld word 15 5 = a := he ▸ bitsHi (bitsHi (bitsHi (bitsHi (bitsHi bitsLo))))
  have f10_5 : fld word 10 5 = b := he ▸ bitsHi (bitsHi (bitsHi (bitsHi bitsLo)))
  have f6_4 : fld word 6 4 = t.code := he ▸ bitsHi (bitsHi (bitsHi bitsLo))
  have f3_3 : fld word 3 3 = mk := he ▸ bitsHi (bitsHi bitsLo)
  have f2_1 : fld word 2 1 = BitVec.ofBool bc := he ▸ bitsHi bitsLo
  have f0_2 : fld word 0 2 = g.code := he ▸ bitsLo
  have g0 : (t.isInt && g.aligned d && g.aligned a && (bc || g.aligned b)) = true := hwf
  refine (vectorAt op).trans ?_
  change ((
      let d : VReg := fld word 20 5
      let a : VReg := fld word 15 5
      let b : VReg := fld word 10 5
      let mk : MReg := fld word 3 3
      let bc : Bool := fld word 2 1 == 1
      withCode (ETy.ofCode (fld word 6 4)) fun t =>
      withCode (Grp.ofCode (fld word 0 2)) fun g =>
      gate (t.isInt && g.aligned d && g.aligned a && (bc || g.aligned b)) <|
      .ok (.vabsd d a b t mk g bc) : Except Reject Instr)) = _
  rw [f20_5, f15_5, f10_5, f6_4, f3_3, f2_1, f0_2, ETy.ofCode_code, Grp.ofCode_code, ofBool_beq_one]
  exact (gateOk g0).trans rfl

theorem vavg (d a b : VReg) (t : ETy) (mk : MReg) (g : Grp) (bc : Bool) : Statement (.vavg d a b t mk g bc) := by
  intro hwf lane word henc
  obtain ⟨rfl, he⟩ := Prod.mk.inj (Option.some.inj henc)
  have op : fld word 25 7 = 11#7 := he ▸ bitsHi (bitsHi (bitsHi (bitsHi (bitsHi (bitsHi (bitsHi bitsAll))))))
  have f20_5 : fld word 20 5 = d := he ▸ bitsHi (bitsHi (bitsHi (bitsHi (bitsHi (bitsHi bitsLo)))))
  have f15_5 : fld word 15 5 = a := he ▸ bitsHi (bitsHi (bitsHi (bitsHi (bitsHi bitsLo))))
  have f10_5 : fld word 10 5 = b := he ▸ bitsHi (bitsHi (bitsHi (bitsHi bitsLo)))
  have f6_4 : fld word 6 4 = t.code := he ▸ bitsHi (bitsHi (bitsHi bitsLo))
  have f3_3 : fld word 3 3 = mk := he ▸ bitsHi (bitsHi bitsLo)
  have f2_1 : fld word 2 1 = BitVec.ofBool bc := he ▸ bitsHi bitsLo
  have f0_2 : fld word 0 2 = g.code := he ▸ bitsLo
  have g0 : (t.isInt && g.aligned d && g.aligned a && (bc || g.aligned b)) = true := hwf
  refine (vectorAt op).trans ?_
  change ((
      let d : VReg := fld word 20 5
      let a : VReg := fld word 15 5
      let b : VReg := fld word 10 5
      let mk : MReg := fld word 3 3
      let bc : Bool := fld word 2 1 == 1
      withCode (ETy.ofCode (fld word 6 4)) fun t =>
      withCode (Grp.ofCode (fld word 0 2)) fun g =>
      gate (t.isInt && g.aligned d && g.aligned a && (bc || g.aligned b)) <|
      .ok (.vavg d a b t mk g bc) : Except Reject Instr)) = _
  rw [f20_5, f15_5, f10_5, f6_4, f3_3, f2_1, f0_2, ETy.ofCode_code, Grp.ofCode_code, ofBool_beq_one]
  exact (gateOk g0).trans rfl

theorem vmin (d a b : VReg) (t : ETy) (mk : MReg) (g : Grp) (bc : Bool) : Statement (.vmin d a b t mk g bc) := by
  intro hwf lane word henc
  obtain ⟨rfl, he⟩ := Prod.mk.inj (Option.some.inj henc)
  have op : fld word 25 7 = 12#7 := he ▸ bitsHi (bitsHi (bitsHi (bitsHi (bitsHi (bitsHi (bitsHi bitsAll))))))
  have f20_5 : fld word 20 5 = d := he ▸ bitsHi (bitsHi (bitsHi (bitsHi (bitsHi (bitsHi bitsLo)))))
  have f15_5 : fld word 15 5 = a := he ▸ bitsHi (bitsHi (bitsHi (bitsHi (bitsHi bitsLo))))
  have f10_5 : fld word 10 5 = b := he ▸ bitsHi (bitsHi (bitsHi (bitsHi bitsLo)))
  have f6_4 : fld word 6 4 = t.code := he ▸ bitsHi (bitsHi (bitsHi bitsLo))
  have f3_3 : fld word 3 3 = mk := he ▸ bitsHi (bitsHi bitsLo)
  have f2_1 : fld word 2 1 = BitVec.ofBool bc := he ▸ bitsHi bitsLo
  have f0_2 : fld word 0 2 = g.code := he ▸ bitsLo
  have g0 : (t.isInt && g.aligned d && g.aligned a && (bc || g.aligned b)) = true := hwf
  refine (vectorAt op).trans ?_
  change ((
      let d : VReg := fld word 20 5
      let a : VReg := fld word 15 5
      let b : VReg := fld word 10 5
      let mk : MReg := fld word 3 3
      let bc : Bool := fld word 2 1 == 1
      withCode (ETy.ofCode (fld word 6 4)) fun t =>
      withCode (Grp.ofCode (fld word 0 2)) fun g =>
      gate (t.isInt && g.aligned d && g.aligned a && (bc || g.aligned b)) <|
      .ok (.vmin d a b t mk g bc) : Except Reject Instr)) = _
  rw [f20_5, f15_5, f10_5, f6_4, f3_3, f2_1, f0_2, ETy.ofCode_code, Grp.ofCode_code, ofBool_beq_one]
  exact (gateOk g0).trans rfl

theorem vmax (d a b : VReg) (t : ETy) (mk : MReg) (g : Grp) (bc : Bool) : Statement (.vmax d a b t mk g bc) := by
  intro hwf lane word henc
  obtain ⟨rfl, he⟩ := Prod.mk.inj (Option.some.inj henc)
  have op : fld word 25 7 = 13#7 := he ▸ bitsHi (bitsHi (bitsHi (bitsHi (bitsHi (bitsHi (bitsHi bitsAll))))))
  have f20_5 : fld word 20 5 = d := he ▸ bitsHi (bitsHi (bitsHi (bitsHi (bitsHi (bitsHi bitsLo)))))
  have f15_5 : fld word 15 5 = a := he ▸ bitsHi (bitsHi (bitsHi (bitsHi (bitsHi bitsLo))))
  have f10_5 : fld word 10 5 = b := he ▸ bitsHi (bitsHi (bitsHi (bitsHi bitsLo)))
  have f6_4 : fld word 6 4 = t.code := he ▸ bitsHi (bitsHi (bitsHi bitsLo))
  have f3_3 : fld word 3 3 = mk := he ▸ bitsHi (bitsHi bitsLo)
  have f2_1 : fld word 2 1 = BitVec.ofBool bc := he ▸ bitsHi bitsLo
  have f0_2 : fld word 0 2 = g.code := he ▸ bitsLo
  have g0 : (t.isInt && g.aligned d && g.aligned a && (bc || g.aligned b)) = true := hwf
  refine (vectorAt op).trans ?_
  change ((
      let d : VReg := fld word 20 5
      let a : VReg := fld word 15 5
      let b : VReg := fld word 10 5
      let mk : MReg := fld word 3 3
      let bc : Bool := fld word 2 1 == 1
      withCode (ETy.ofCode (fld word 6 4)) fun t =>
      withCode (Grp.ofCode (fld word 0 2)) fun g =>
      gate (t.isInt && g.aligned d && g.aligned a && (bc || g.aligned b)) <|
      .ok (.vmax d a b t mk g bc) : Except Reject Instr)) = _
  rw [f20_5, f15_5, f10_5, f6_4, f3_3, f2_1, f0_2, ETy.ofCode_code, Grp.ofCode_code, ofBool_beq_one]
  exact (gateOk g0).trans rfl

theorem vand (d a b : VReg) (t : ETy) (mk : MReg) (g : Grp) (bc : Bool) : Statement (.vand d a b t mk g bc) := by
  intro hwf lane word henc
  obtain ⟨rfl, he⟩ := Prod.mk.inj (Option.some.inj henc)
  have op : fld word 25 7 = 14#7 := he ▸ bitsHi (bitsHi (bitsHi (bitsHi (bitsHi (bitsHi (bitsHi bitsAll))))))
  have f20_5 : fld word 20 5 = d := he ▸ bitsHi (bitsHi (bitsHi (bitsHi (bitsHi (bitsHi bitsLo)))))
  have f15_5 : fld word 15 5 = a := he ▸ bitsHi (bitsHi (bitsHi (bitsHi (bitsHi bitsLo))))
  have f10_5 : fld word 10 5 = b := he ▸ bitsHi (bitsHi (bitsHi (bitsHi bitsLo)))
  have f6_4 : fld word 6 4 = t.code := he ▸ bitsHi (bitsHi (bitsHi bitsLo))
  have f3_3 : fld word 3 3 = mk := he ▸ bitsHi (bitsHi bitsLo)
  have f2_1 : fld word 2 1 = BitVec.ofBool bc := he ▸ bitsHi bitsLo
  have f0_2 : fld word 0 2 = g.code := he ▸ bitsLo
  have g0 : (true && g.aligned d && g.aligned a && (bc || g.aligned b)) = true := hwf
  refine (vectorAt op).trans ?_
  change ((
      let d : VReg := fld word 20 5
      let a : VReg := fld word 15 5
      let b : VReg := fld word 10 5
      let mk : MReg := fld word 3 3
      let bc : Bool := fld word 2 1 == 1
      withCode (ETy.ofCode (fld word 6 4)) fun t =>
      withCode (Grp.ofCode (fld word 0 2)) fun g =>
      gate (true && g.aligned d && g.aligned a && (bc || g.aligned b)) <|
      .ok (.vand d a b t mk g bc) : Except Reject Instr)) = _
  rw [f20_5, f15_5, f10_5, f6_4, f3_3, f2_1, f0_2, ETy.ofCode_code, Grp.ofCode_code, ofBool_beq_one]
  exact (gateOk g0).trans rfl

theorem vor (d a b : VReg) (t : ETy) (mk : MReg) (g : Grp) (bc : Bool) : Statement (.vor d a b t mk g bc) := by
  intro hwf lane word henc
  obtain ⟨rfl, he⟩ := Prod.mk.inj (Option.some.inj henc)
  have op : fld word 25 7 = 15#7 := he ▸ bitsHi (bitsHi (bitsHi (bitsHi (bitsHi (bitsHi (bitsHi bitsAll))))))
  have f20_5 : fld word 20 5 = d := he ▸ bitsHi (bitsHi (bitsHi (bitsHi (bitsHi (bitsHi bitsLo)))))
  have f15_5 : fld word 15 5 = a := he ▸ bitsHi (bitsHi (bitsHi (bitsHi (bitsHi bitsLo))))
  have f10_5 : fld word 10 5 = b := he ▸ bitsHi (bitsHi (bitsHi (bitsHi bitsLo)))
  have f6_4 : fld word 6 4 = t.code := he ▸ bitsHi (bitsHi (bitsHi bitsLo))
  have f3_3 : fld word 3 3 = mk := he ▸ bitsHi (bitsHi bitsLo)
  have f2_1 : fld word 2 1 = BitVec.ofBool bc := he ▸ bitsHi bitsLo
  have f0_2 : fld word 0 2 = g.code := he ▸ bitsLo
  have g0 : (true && g.aligned d && g.aligned a && (bc || g.aligned b)) = true := hwf
  refine (vectorAt op).trans ?_
  change ((
      let d : VReg := fld word 20 5
      let a : VReg := fld word 15 5
      let b : VReg := fld word 10 5
      let mk : MReg := fld word 3 3
      let bc : Bool := fld word 2 1 == 1
      withCode (ETy.ofCode (fld word 6 4)) fun t =>
      withCode (Grp.ofCode (fld word 0 2)) fun g =>
      gate (true && g.aligned d && g.aligned a && (bc || g.aligned b)) <|
      .ok (.vor d a b t mk g bc) : Except Reject Instr)) = _
  rw [f20_5, f15_5, f10_5, f6_4, f3_3, f2_1, f0_2, ETy.ofCode_code, Grp.ofCode_code, ofBool_beq_one]
  exact (gateOk g0).trans rfl

theorem vxor (d a b : VReg) (t : ETy) (mk : MReg) (g : Grp) (bc : Bool) : Statement (.vxor d a b t mk g bc) := by
  intro hwf lane word henc
  obtain ⟨rfl, he⟩ := Prod.mk.inj (Option.some.inj henc)
  have op : fld word 25 7 = 16#7 := he ▸ bitsHi (bitsHi (bitsHi (bitsHi (bitsHi (bitsHi (bitsHi bitsAll))))))
  have f20_5 : fld word 20 5 = d := he ▸ bitsHi (bitsHi (bitsHi (bitsHi (bitsHi (bitsHi bitsLo)))))
  have f15_5 : fld word 15 5 = a := he ▸ bitsHi (bitsHi (bitsHi (bitsHi (bitsHi bitsLo))))
  have f10_5 : fld word 10 5 = b := he ▸ bitsHi (bitsHi (bitsHi (bitsHi bitsLo)))
  have f6_4 : fld word 6 4 = t.code := he ▸ bitsHi (bitsHi (bitsHi bitsLo))
  have f3_3 : fld word 3 3 = mk := he ▸ bitsHi (bitsHi bitsLo)
  have f2_1 : fld word 2 1 = BitVec.ofBool bc := he ▸ bitsHi bitsLo
  have f0_2 : fld word 0 2 = g.code := he ▸ bitsLo
  have g0 : (true && g.aligned d && g.aligned a && (bc || g.aligned b)) = true := hwf
  refine (vectorAt op).trans ?_
  change ((
      let d : VReg := fld word 20 5
      let a : VReg := fld word 15 5
      let b : VReg := fld word 10 5
      let mk : MReg := fld word 3 3
      let bc : Bool := fld word 2 1 == 1
      withCode (ETy.ofCode (fld word 6 4)) fun t =>
      withCode (Grp.ofCode (fld word 0 2)) fun g =>
      gate (true && g.aligned d && g.aligned a && (bc || g.aligned b)) <|
      .ok (.vxor d a b t mk g bc) : Except Reject Instr)) = _
  rw [f20_5, f15_5, f10_5, f6_4, f3_3, f2_1, f0_2, ETy.ofCode_code, Grp.ofCode_code, ofBool_beq_one]
  exact (gateOk g0).trans rfl

theorem vandn (d a b : VReg) (t : ETy) (mk : MReg) (g : Grp) (bc : Bool) : Statement (.vandn d a b t mk g bc) := by
  intro hwf lane word henc
  obtain ⟨rfl, he⟩ := Prod.mk.inj (Option.some.inj henc)
  have op : fld word 25 7 = 17#7 := he ▸ bitsHi (bitsHi (bitsHi (bitsHi (bitsHi (bitsHi (bitsHi bitsAll))))))
  have f20_5 : fld word 20 5 = d := he ▸ bitsHi (bitsHi (bitsHi (bitsHi (bitsHi (bitsHi bitsLo)))))
  have f15_5 : fld word 15 5 = a := he ▸ bitsHi (bitsHi (bitsHi (bitsHi (bitsHi bitsLo))))
  have f10_5 : fld word 10 5 = b := he ▸ bitsHi (bitsHi (bitsHi (bitsHi bitsLo)))
  have f6_4 : fld word 6 4 = t.code := he ▸ bitsHi (bitsHi (bitsHi bitsLo))
  have f3_3 : fld word 3 3 = mk := he ▸ bitsHi (bitsHi bitsLo)
  have f2_1 : fld word 2 1 = BitVec.ofBool bc := he ▸ bitsHi bitsLo
  have f0_2 : fld word 0 2 = g.code := he ▸ bitsLo
  have g0 : (true && g.aligned d && g.aligned a && (bc || g.aligned b)) = true := hwf
  refine (vectorAt op).trans ?_
  change ((
      let d : VReg := fld word 20 5
      let a : VReg := fld word 15 5
      let b : VReg := fld word 10 5
      let mk : MReg := fld word 3 3
      let bc : Bool := fld word 2 1 == 1
      withCode (ETy.ofCode (fld word 6 4)) fun t =>
      withCode (Grp.ofCode (fld word 0 2)) fun g =>
      gate (true && g.aligned d && g.aligned a && (bc || g.aligned b)) <|
      .ok (.vandn d a b t mk g bc) : Except Reject Instr)) = _
  rw [f20_5, f15_5, f10_5, f6_4, f3_3, f2_1, f0_2, ETy.ofCode_code, Grp.ofCode_code, ofBool_beq_one]
  exact (gateOk g0).trans rfl

theorem vshl (d a b : VReg) (t : ETy) (mk : MReg) (g : Grp) (bc : Bool) : Statement (.vshl d a b t mk g bc) := by
  intro hwf lane word henc
  obtain ⟨rfl, he⟩ := Prod.mk.inj (Option.some.inj henc)
  have op : fld word 25 7 = 18#7 := he ▸ bitsHi (bitsHi (bitsHi (bitsHi (bitsHi (bitsHi (bitsHi bitsAll))))))
  have f20_5 : fld word 20 5 = d := he ▸ bitsHi (bitsHi (bitsHi (bitsHi (bitsHi (bitsHi bitsLo)))))
  have f15_5 : fld word 15 5 = a := he ▸ bitsHi (bitsHi (bitsHi (bitsHi (bitsHi bitsLo))))
  have f10_5 : fld word 10 5 = b := he ▸ bitsHi (bitsHi (bitsHi (bitsHi bitsLo)))
  have f6_4 : fld word 6 4 = t.code := he ▸ bitsHi (bitsHi (bitsHi bitsLo))
  have f3_3 : fld word 3 3 = mk := he ▸ bitsHi (bitsHi bitsLo)
  have f2_1 : fld word 2 1 = BitVec.ofBool bc := he ▸ bitsHi bitsLo
  have f0_2 : fld word 0 2 = g.code := he ▸ bitsLo
  have g0 : (t.isInt && g.aligned d && g.aligned a && (bc || g.aligned b)) = true := hwf
  refine (vectorAt op).trans ?_
  change ((
      let d : VReg := fld word 20 5
      let a : VReg := fld word 15 5
      let b : VReg := fld word 10 5
      let mk : MReg := fld word 3 3
      let bc : Bool := fld word 2 1 == 1
      withCode (ETy.ofCode (fld word 6 4)) fun t =>
      withCode (Grp.ofCode (fld word 0 2)) fun g =>
      gate (t.isInt && g.aligned d && g.aligned a && (bc || g.aligned b)) <|
      .ok (.vshl d a b t mk g bc) : Except Reject Instr)) = _
  rw [f20_5, f15_5, f10_5, f6_4, f3_3, f2_1, f0_2, ETy.ofCode_code, Grp.ofCode_code, ofBool_beq_one]
  exact (gateOk g0).trans rfl

theorem vshr (d a b : VReg) (t : ETy) (mk : MReg) (g : Grp) (bc : Bool) : Statement (.vshr d a b t mk g bc) := by
  intro hwf lane word henc
  obtain ⟨rfl, he⟩ := Prod.mk.inj (Option.some.inj henc)
  have op : fld word 25 7 = 19#7 := he ▸ bitsHi (bitsHi (bitsHi (bitsHi (bitsHi (bitsHi (bitsHi bitsAll))))))
  have f20_5 : fld word 20 5 = d := he ▸ bitsHi (bitsHi (bitsHi (bitsHi (bitsHi (bitsHi bitsLo)))))
  have f15_5 : fld word 15 5 = a := he ▸ bitsHi (bitsHi (bitsHi (bitsHi (bitsHi bitsLo))))
  have f10_5 : fld word 10 5 = b := he ▸ bitsHi (bitsHi (bitsHi (bitsHi bitsLo)))
  have f6_4 : fld word 6 4 = t.code := he ▸ bitsHi (bitsHi (bitsHi bitsLo))
  have f3_3 : fld word 3 3 = mk := he ▸ bitsHi (bitsHi bitsLo)
  have f2_1 : fld word 2 1 = BitVec.ofBool bc := he ▸ bitsHi bitsLo
  have f0_2 : fld word 0 2 = g.code := he ▸ bitsLo
  have g0 : (t.isInt && g.aligned d && g.aligned a && (bc || g.aligned b)) = true := hwf
  refine (vectorAt op).trans ?_
  change ((
      let d : VReg := fld word 20 5
      let a : VReg := fld word 15 5
      let b : VReg := fld word 10 5
      let mk : MReg := fld word 3 3
      let bc : Bool := fld word 2 1 == 1
      withCode (ETy.ofCode (fld word 6 4)) fun t =>
      withCode (Grp.ofCode (fld word 0 2)) fun g =>
      gate (t.isInt && g.aligned d && g.aligned a && (bc || g.aligned b)) <|
      .ok (.vshr d a b t mk g bc) : Except Reject Instr)) = _
  rw [f20_5, f15_5, f10_5, f6_4, f3_3, f2_1, f0_2, ETy.ofCode_code, Grp.ofCode_code, ofBool_beq_one]
  exact (gateOk g0).trans rfl

theorem vsra (d a b : VReg) (t : ETy) (mk : MReg) (g : Grp) (bc : Bool) : Statement (.vsra d a b t mk g bc) := by
  intro hwf lane word henc
  obtain ⟨rfl, he⟩ := Prod.mk.inj (Option.some.inj henc)
  have op : fld word 25 7 = 20#7 := he ▸ bitsHi (bitsHi (bitsHi (bitsHi (bitsHi (bitsHi (bitsHi bitsAll))))))
  have f20_5 : fld word 20 5 = d := he ▸ bitsHi (bitsHi (bitsHi (bitsHi (bitsHi (bitsHi bitsLo)))))
  have f15_5 : fld word 15 5 = a := he ▸ bitsHi (bitsHi (bitsHi (bitsHi (bitsHi bitsLo))))
  have f10_5 : fld word 10 5 = b := he ▸ bitsHi (bitsHi (bitsHi (bitsHi bitsLo)))
  have f6_4 : fld word 6 4 = t.code := he ▸ bitsHi (bitsHi (bitsHi bitsLo))
  have f3_3 : fld word 3 3 = mk := he ▸ bitsHi (bitsHi bitsLo)
  have f2_1 : fld word 2 1 = BitVec.ofBool bc := he ▸ bitsHi bitsLo
  have f0_2 : fld word 0 2 = g.code := he ▸ bitsLo
  have g0 : (t.isInt && g.aligned d && g.aligned a && (bc || g.aligned b)) = true := hwf
  refine (vectorAt op).trans ?_
  change ((
      let d : VReg := fld word 20 5
      let a : VReg := fld word 15 5
      let b : VReg := fld word 10 5
      let mk : MReg := fld word 3 3
      let bc : Bool := fld word 2 1 == 1
      withCode (ETy.ofCode (fld word 6 4)) fun t =>
      withCode (Grp.ofCode (fld word 0 2)) fun g =>
      gate (t.isInt && g.aligned d && g.aligned a && (bc || g.aligned b)) <|
      .ok (.vsra d a b t mk g bc) : Except Reject Instr)) = _
  rw [f20_5, f15_5, f10_5, f6_4, f3_3, f2_1, f0_2, ETy.ofCode_code, Grp.ofCode_code, ofBool_beq_one]
  exact (gateOk g0).trans rfl

theorem vclz (d a : VReg) (t : ETy) (mk : MReg) (g : Grp) : Statement (.vclz d a t mk g) := by
  intro hwf lane word henc
  obtain ⟨rfl, he⟩ := Prod.mk.inj (Option.some.inj henc)
  have op : fld word 25 7 = 21#7 := he ▸ bitsHi (bitsHi (bitsHi (bitsHi (bitsHi (bitsHi (bitsHi bitsAll))))))
  have f20_5 : fld word 20 5 = d := he ▸ bitsHi (bitsHi (bitsHi (bitsHi (bitsHi (bitsHi bitsLo)))))
  have f15_5 : fld word 15 5 = a := he ▸ bitsHi (bitsHi (bitsHi (bitsHi (bitsHi bitsLo))))
  have f10_5 : fld word 10 5 = 0#5 := he ▸ bitsHi (bitsHi (bitsHi (bitsHi bitsLo)))
  have f6_4 : fld word 6 4 = t.code := he ▸ bitsHi (bitsHi (bitsHi bitsLo))
  have f3_3 : fld word 3 3 = mk := he ▸ bitsHi (bitsHi bitsLo)
  have f2_1 : fld word 2 1 = 0#1 := he ▸ bitsHi bitsLo
  have f0_2 : fld word 0 2 = g.code := he ▸ bitsLo
  have g0 : (t.isInt && g.aligned d && g.aligned a) = true := hwf
  refine (vectorAt op).trans ?_
  change ((
      let d : VReg := fld word 20 5
      let a : VReg := fld word 15 5
      let mk : MReg := fld word 3 3
      withCode (ETy.ofCode (fld word 6 4)) fun t =>
      withCode (Grp.ofCode (fld word 0 2)) fun g =>
      gate (t.isInt && g.aligned d && g.aligned a) <|
      rsv (fld word 2 1 == 0 && fld word 10 5 == 0) <|
      .ok (.vclz d a t mk g) : Except Reject Instr)) = _
  rw [f20_5, f15_5, f10_5, f6_4, f3_3, f2_1, f0_2, ETy.ofCode_code, Grp.ofCode_code]
  exact (gateOk g0).trans ((rsvOk (by rfl)).trans rfl)

theorem vpopc (d a : VReg) (t : ETy) (mk : MReg) (g : Grp) : Statement (.vpopc d a t mk g) := by
  intro hwf lane word henc
  obtain ⟨rfl, he⟩ := Prod.mk.inj (Option.some.inj henc)
  have op : fld word 25 7 = 22#7 := he ▸ bitsHi (bitsHi (bitsHi (bitsHi (bitsHi (bitsHi (bitsHi bitsAll))))))
  have f20_5 : fld word 20 5 = d := he ▸ bitsHi (bitsHi (bitsHi (bitsHi (bitsHi (bitsHi bitsLo)))))
  have f15_5 : fld word 15 5 = a := he ▸ bitsHi (bitsHi (bitsHi (bitsHi (bitsHi bitsLo))))
  have f10_5 : fld word 10 5 = 0#5 := he ▸ bitsHi (bitsHi (bitsHi (bitsHi bitsLo)))
  have f6_4 : fld word 6 4 = t.code := he ▸ bitsHi (bitsHi (bitsHi bitsLo))
  have f3_3 : fld word 3 3 = mk := he ▸ bitsHi (bitsHi bitsLo)
  have f2_1 : fld word 2 1 = 0#1 := he ▸ bitsHi bitsLo
  have f0_2 : fld word 0 2 = g.code := he ▸ bitsLo
  have g0 : (t.isInt && g.aligned d && g.aligned a) = true := hwf
  refine (vectorAt op).trans ?_
  change ((
      let d : VReg := fld word 20 5
      let a : VReg := fld word 15 5
      let mk : MReg := fld word 3 3
      withCode (ETy.ofCode (fld word 6 4)) fun t =>
      withCode (Grp.ofCode (fld word 0 2)) fun g =>
      gate (t.isInt && g.aligned d && g.aligned a) <|
      rsv (fld word 2 1 == 0 && fld word 10 5 == 0) <|
      .ok (.vpopc d a t mk g) : Except Reject Instr)) = _
  rw [f20_5, f15_5, f10_5, f6_4, f3_3, f2_1, f0_2, ETy.ofCode_code, Grp.ofCode_code]
  exact (gateOk g0).trans ((rsvOk (by rfl)).trans rfl)

theorem vcmp (c : Cond) (d : MReg) (a b : VReg) (t : ETy) (mk : MReg) : Statement (.vcmp c d a b t mk) := by
  intro hwf lane word henc
  obtain ⟨rfl, he⟩ := Prod.mk.inj (Option.some.inj henc)
  have op : fld word 25 7 = 23#7 := he ▸ bitsHi (bitsHi (bitsHi (bitsHi (bitsHi (bitsHi (bitsHi (bitsHi bitsAll)))))))
  have f24_1 : fld word 24 1 = 0#1 := he ▸ bitsHi (bitsHi (bitsHi (bitsHi (bitsHi (bitsHi (bitsHi bitsLo))))))
  have f23_1 : fld word 23 1 = c.code.extractLsb' 3 1 := he ▸ bitsHi (bitsHi (bitsHi (bitsHi (bitsHi (bitsHi bitsLo)))))
  have f20_3 : fld word 20 3 = d := he ▸ bitsHi (bitsHi (bitsHi (bitsHi (bitsHi bitsLo))))
  have f15_5 : fld word 15 5 = a := he ▸ bitsHi (bitsHi (bitsHi (bitsHi bitsLo)))
  have f10_5 : fld word 10 5 = b := he ▸ bitsHi (bitsHi (bitsHi bitsLo))
  have f6_4 : fld word 6 4 = t.code := he ▸ bitsHi (bitsHi bitsLo)
  have f3_3 : fld word 3 3 = mk := he ▸ bitsHi bitsLo
  have f0_3 : fld word 0 3 = c.code.extractLsb' 0 3 := he ▸ bitsLo
  have g0 : (c.isInt && t.isInt && d != 0) = true := hwf
  refine (vectorAt op).trans ?_
  change ((
      let d : MReg := fld word 20 3
      let a : VReg := fld word 15 5
      let b : VReg := fld word 10 5
      let mk : MReg := fld word 3 3
      withCode (Cond.ofCode ((fld word 23 1 ++ fld word 0 3))) fun c =>
      withCode (ETy.ofCode (fld word 6 4)) fun t =>
      gate (c.isInt && t.isInt && d != 0) <|
      rsv (fld word 24 1 == 0) <|
      .ok (.vcmp c d a b t mk) : Except Reject Instr)) = _
  rw [f24_1, f23_1, f20_3, f15_5, f10_5, f6_4, f3_3, f0_3, condJoin, Cond.ofCode_code, ETy.ofCode_code]
  exact (gateOk g0).trans ((rsvOk (by rfl)).trans rfl)

theorem vsel (d a b : VReg) (t : ETy) (mk : MReg) (g : Grp) (bc : Bool) : Statement (.vsel d a b t mk g bc) := by
  intro hwf lane word henc
  obtain ⟨rfl, he⟩ := Prod.mk.inj (Option.some.inj henc)
  have op : fld word 25 7 = 24#7 := he ▸ bitsHi (bitsHi (bitsHi (bitsHi (bitsHi (bitsHi (bitsHi bitsAll))))))
  have f20_5 : fld word 20 5 = d := he ▸ bitsHi (bitsHi (bitsHi (bitsHi (bitsHi (bitsHi bitsLo)))))
  have f15_5 : fld word 15 5 = a := he ▸ bitsHi (bitsHi (bitsHi (bitsHi (bitsHi bitsLo))))
  have f10_5 : fld word 10 5 = b := he ▸ bitsHi (bitsHi (bitsHi (bitsHi bitsLo)))
  have f6_4 : fld word 6 4 = t.code := he ▸ bitsHi (bitsHi (bitsHi bitsLo))
  have f3_3 : fld word 3 3 = mk := he ▸ bitsHi (bitsHi bitsLo)
  have f2_1 : fld word 2 1 = BitVec.ofBool bc := he ▸ bitsHi bitsLo
  have f0_2 : fld word 0 2 = g.code := he ▸ bitsLo
  have g0 : (g.aligned d && g.aligned a && (bc || g.aligned b)) = true := hwf
  refine (vectorAt op).trans ?_
  change ((
      let d : VReg := fld word 20 5
      let a : VReg := fld word 15 5
      let b : VReg := fld word 10 5
      let mk : MReg := fld word 3 3
      let bc : Bool := fld word 2 1 == 1
      withCode (ETy.ofCode (fld word 6 4)) fun t =>
      withCode (Grp.ofCode (fld word 0 2)) fun g =>
      gate (g.aligned d && g.aligned a && (bc || g.aligned b)) <|
      .ok (.vsel d a b t mk g bc) : Except Reject Instr)) = _
  rw [f20_5, f15_5, f10_5, f6_4, f3_3, f2_1, f0_2, ETy.ofCode_code, Grp.ofCode_code, ofBool_beq_one]
  exact (gateOk g0).trans rfl

theorem vfadd (d a b : VReg) (t : ETy) (mk : MReg) (r : RM) : Statement (.vfadd d a b t mk r) := by
  intro hwf lane word henc
  obtain ⟨rfl, he⟩ := Prod.mk.inj (Option.some.inj henc)
  have op : fld word 25 7 = 25#7 := he ▸ bitsHi (bitsHi (bitsHi (bitsHi (bitsHi (bitsHi bitsAll)))))
  have f20_5 : fld word 20 5 = d := he ▸ bitsHi (bitsHi (bitsHi (bitsHi (bitsHi bitsLo))))
  have f15_5 : fld word 15 5 = a := he ▸ bitsHi (bitsHi (bitsHi (bitsHi bitsLo)))
  have f10_5 : fld word 10 5 = b := he ▸ bitsHi (bitsHi (bitsHi bitsLo))
  have f6_4 : fld word 6 4 = t.code := he ▸ bitsHi (bitsHi bitsLo)
  have f3_3 : fld word 3 3 = mk := he ▸ bitsHi bitsLo
  have f0_3 : fld word 0 3 = r.code := he ▸ bitsLo
  have g0 : (t.isVecFloat && r.isArith) = true := hwf
  refine (vectorAt op).trans ?_
  change ((
      let d : VReg := fld word 20 5
      let a : VReg := fld word 15 5
      let b : VReg := fld word 10 5
      let mk : MReg := fld word 3 3
      withCode (ETy.ofCode (fld word 6 4)) fun t =>
      withCode (RM.ofCode (fld word 0 3)) fun r =>
      gate (t.isVecFloat && r.isArith) <|
      .ok (.vfadd d a b t mk r) : Except Reject Instr)) = _
  rw [f20_5, f15_5, f10_5, f6_4, f3_3, f0_3, ETy.ofCode_code, RM.ofCode_code]
  exact (gateOk g0).trans rfl

theorem vfsub (d a b : VReg) (t : ETy) (mk : MReg) (r : RM) : Statement (.vfsub d a b t mk r) := by
  intro hwf lane word henc
  obtain ⟨rfl, he⟩ := Prod.mk.inj (Option.some.inj henc)
  have op : fld word 25 7 = 26#7 := he ▸ bitsHi (bitsHi (bitsHi (bitsHi (bitsHi (bitsHi bitsAll)))))
  have f20_5 : fld word 20 5 = d := he ▸ bitsHi (bitsHi (bitsHi (bitsHi (bitsHi bitsLo))))
  have f15_5 : fld word 15 5 = a := he ▸ bitsHi (bitsHi (bitsHi (bitsHi bitsLo)))
  have f10_5 : fld word 10 5 = b := he ▸ bitsHi (bitsHi (bitsHi bitsLo))
  have f6_4 : fld word 6 4 = t.code := he ▸ bitsHi (bitsHi bitsLo)
  have f3_3 : fld word 3 3 = mk := he ▸ bitsHi bitsLo
  have f0_3 : fld word 0 3 = r.code := he ▸ bitsLo
  have g0 : (t.isVecFloat && r.isArith) = true := hwf
  refine (vectorAt op).trans ?_
  change ((
      let d : VReg := fld word 20 5
      let a : VReg := fld word 15 5
      let b : VReg := fld word 10 5
      let mk : MReg := fld word 3 3
      withCode (ETy.ofCode (fld word 6 4)) fun t =>
      withCode (RM.ofCode (fld word 0 3)) fun r =>
      gate (t.isVecFloat && r.isArith) <|
      .ok (.vfsub d a b t mk r) : Except Reject Instr)) = _
  rw [f20_5, f15_5, f10_5, f6_4, f3_3, f0_3, ETy.ofCode_code, RM.ofCode_code]
  exact (gateOk g0).trans rfl

theorem vfmul (d a b : VReg) (t : ETy) (mk : MReg) (r : RM) : Statement (.vfmul d a b t mk r) := by
  intro hwf lane word henc
  obtain ⟨rfl, he⟩ := Prod.mk.inj (Option.some.inj henc)
  have op : fld word 25 7 = 27#7 := he ▸ bitsHi (bitsHi (bitsHi (bitsHi (bitsHi (bitsHi bitsAll)))))
  have f20_5 : fld word 20 5 = d := he ▸ bitsHi (bitsHi (bitsHi (bitsHi (bitsHi bitsLo))))
  have f15_5 : fld word 15 5 = a := he ▸ bitsHi (bitsHi (bitsHi (bitsHi bitsLo)))
  have f10_5 : fld word 10 5 = b := he ▸ bitsHi (bitsHi (bitsHi bitsLo))
  have f6_4 : fld word 6 4 = t.code := he ▸ bitsHi (bitsHi bitsLo)
  have f3_3 : fld word 3 3 = mk := he ▸ bitsHi bitsLo
  have f0_3 : fld word 0 3 = r.code := he ▸ bitsLo
  have g0 : (t.isVecFloat && r.isArith) = true := hwf
  refine (vectorAt op).trans ?_
  change ((
      let d : VReg := fld word 20 5
      let a : VReg := fld word 15 5
      let b : VReg := fld word 10 5
      let mk : MReg := fld word 3 3
      withCode (ETy.ofCode (fld word 6 4)) fun t =>
      withCode (RM.ofCode (fld word 0 3)) fun r =>
      gate (t.isVecFloat && r.isArith) <|
      .ok (.vfmul d a b t mk r) : Except Reject Instr)) = _
  rw [f20_5, f15_5, f10_5, f6_4, f3_3, f0_3, ETy.ofCode_code, RM.ofCode_code]
  exact (gateOk g0).trans rfl

theorem vfma (d a b : VReg) (t : ETy) (mk : MReg) (r : RM) : Statement (.vfma d a b t mk r) := by
  intro hwf lane word henc
  obtain ⟨rfl, he⟩ := Prod.mk.inj (Option.some.inj henc)
  have op : fld word 25 7 = 28#7 := he ▸ bitsHi (bitsHi (bitsHi (bitsHi (bitsHi (bitsHi bitsAll)))))
  have f20_5 : fld word 20 5 = d := he ▸ bitsHi (bitsHi (bitsHi (bitsHi (bitsHi bitsLo))))
  have f15_5 : fld word 15 5 = a := he ▸ bitsHi (bitsHi (bitsHi (bitsHi bitsLo)))
  have f10_5 : fld word 10 5 = b := he ▸ bitsHi (bitsHi (bitsHi bitsLo))
  have f6_4 : fld word 6 4 = t.code := he ▸ bitsHi (bitsHi bitsLo)
  have f3_3 : fld word 3 3 = mk := he ▸ bitsHi bitsLo
  have f0_3 : fld word 0 3 = r.code := he ▸ bitsLo
  have g0 : (t.isVecFloat && r.isArith) = true := hwf
  refine (vectorAt op).trans ?_
  change ((
      let d : VReg := fld word 20 5
      let a : VReg := fld word 15 5
      let b : VReg := fld word 10 5
      let mk : MReg := fld word 3 3
      withCode (ETy.ofCode (fld word 6 4)) fun t =>
      withCode (RM.ofCode (fld word 0 3)) fun r =>
      gate (t.isVecFloat && r.isArith) <|
      .ok (.vfma d a b t mk r) : Except Reject Instr)) = _
  rw [f20_5, f15_5, f10_5, f6_4, f3_3, f0_3, ETy.ofCode_code, RM.ofCode_code]
  exact (gateOk g0).trans rfl

theorem vfmin (d a b : VReg) (t : ETy) (mk : MReg) : Statement (.vfmin d a b t mk) := by
  intro hwf lane word henc
  obtain ⟨rfl, he⟩ := Prod.mk.inj (Option.some.inj henc)
  have op : fld word 25 7 = 29#7 := he ▸ bitsHi (bitsHi (bitsHi (bitsHi (bitsHi (bitsHi bitsAll)))))
  have f20_5 : fld word 20 5 = d := he ▸ bitsHi (bitsHi (bitsHi (bitsHi (bitsHi bitsLo))))
  have f15_5 : fld word 15 5 = a := he ▸ bitsHi (bitsHi (bitsHi (bitsHi bitsLo)))
  have f10_5 : fld word 10 5 = b := he ▸ bitsHi (bitsHi (bitsHi bitsLo))
  have f6_4 : fld word 6 4 = t.code := he ▸ bitsHi (bitsHi bitsLo)
  have f3_3 : fld word 3 3 = mk := he ▸ bitsHi bitsLo
  have f0_3 : fld word 0 3 = 0#3 := he ▸ bitsLo
  have g0 : (t.isVecFloat) = true := hwf
  refine (vectorAt op).trans ?_
  change ((
      let d : VReg := fld word 20 5
      let a : VReg := fld word 15 5
      let b : VReg := fld word 10 5
      let mk : MReg := fld word 3 3
      withCode (ETy.ofCode (fld word 6 4)) fun t =>
      gate (t.isVecFloat) <|
      rsv (fld word 0 3 == 0) <|
      .ok (.vfmin d a b t mk) : Except Reject Instr)) = _
  rw [f20_5, f15_5, f10_5, f6_4, f3_3, f0_3, ETy.ofCode_code]
  exact (gateOk g0).trans ((rsvOk (by rfl)).trans rfl)

theorem vfmax (d a b : VReg) (t : ETy) (mk : MReg) : Statement (.vfmax d a b t mk) := by
  intro hwf lane word henc
  obtain ⟨rfl, he⟩ := Prod.mk.inj (Option.some.inj henc)
  have op : fld word 25 7 = 30#7 := he ▸ bitsHi (bitsHi (bitsHi (bitsHi (bitsHi (bitsHi bitsAll)))))
  have f20_5 : fld word 20 5 = d := he ▸ bitsHi (bitsHi (bitsHi (bitsHi (bitsHi bitsLo))))
  have f15_5 : fld word 15 5 = a := he ▸ bitsHi (bitsHi (bitsHi (bitsHi bitsLo)))
  have f10_5 : fld word 10 5 = b := he ▸ bitsHi (bitsHi (bitsHi bitsLo))
  have f6_4 : fld word 6 4 = t.code := he ▸ bitsHi (bitsHi bitsLo)
  have f3_3 : fld word 3 3 = mk := he ▸ bitsHi bitsLo
  have f0_3 : fld word 0 3 = 0#3 := he ▸ bitsLo
  have g0 : (t.isVecFloat) = true := hwf
  refine (vectorAt op).trans ?_
  change ((
      let d : VReg := fld word 20 5
      let a : VReg := fld word 15 5
      let b : VReg := fld word 10 5
      let mk : MReg := fld word 3 3
      withCode (ETy.ofCode (fld word 6 4)) fun t =>
      gate (t.isVecFloat) <|
      rsv (fld word 0 3 == 0) <|
      .ok (.vfmax d a b t mk) : Except Reject Instr)) = _
  rw [f20_5, f15_5, f10_5, f6_4, f3_3, f0_3, ETy.ofCode_code]
  exact (gateOk g0).trans ((rsvOk (by rfl)).trans rfl)

theorem vfsgn (d a b : VReg) (t : ETy) (mk : MReg) (f : SgnOp) : Statement (.vfsgn d a b t mk f) := by
  intro hwf lane word henc
  obtain ⟨rfl, he⟩ := Prod.mk.inj (Option.some.inj henc)
  have op : fld word 25 7 = 31#7 := he ▸ bitsHi (bitsHi (bitsHi (bitsHi (bitsHi (bitsHi (bitsHi bitsAll))))))
  have f20_5 : fld word 20 5 = d := he ▸ bitsHi (bitsHi (bitsHi (bitsHi (bitsHi (bitsHi bitsLo)))))
  have f15_5 : fld word 15 5 = a := he ▸ bitsHi (bitsHi (bitsHi (bitsHi (bitsHi bitsLo))))
  have f10_5 : fld word 10 5 = b := he ▸ bitsHi (bitsHi (bitsHi (bitsHi bitsLo)))
  have f6_4 : fld word 6 4 = t.code := he ▸ bitsHi (bitsHi (bitsHi bitsLo))
  have f3_3 : fld word 3 3 = mk := he ▸ bitsHi (bitsHi bitsLo)
  have f2_1 : fld word 2 1 = 0#1 := he ▸ bitsHi bitsLo
  have f0_2 : fld word 0 2 = f.code := he ▸ bitsLo
  have g0 : (t.isAnyFloat) = true := hwf
  refine (vectorAt op).trans ?_
  change ((
      let d : VReg := fld word 20 5
      let a : VReg := fld word 15 5
      let b : VReg := fld word 10 5
      let mk : MReg := fld word 3 3
      withCode (ETy.ofCode (fld word 6 4)) fun t =>
      withCode (SgnOp.ofCode (fld word 0 2)) fun f =>
      gate (t.isAnyFloat) <|
      rsv (fld word 2 1 == 0) <|
      .ok (.vfsgn d a b t mk f) : Except Reject Instr)) = _
  rw [f20_5, f15_5, f10_5, f6_4, f3_3, f2_1, f0_2, ETy.ofCode_code, SgnOp.ofCode_code]
  exact (gateOk g0).trans ((rsvOk (by rfl)).trans rfl)

theorem vfcmp (c : Cond) (d : MReg) (a b : VReg) (t : ETy) (mk : MReg) : Statement (.vfcmp c d a b t mk) := by
  intro hwf lane word henc
  obtain ⟨rfl, he⟩ := Prod.mk.inj (Option.some.inj henc)
  have op : fld word 25 7 = 32#7 := he ▸ bitsHi (bitsHi (bitsHi (bitsHi (bitsHi (bitsHi (bitsHi (bitsHi bitsAll)))))))
  have f24_1 : fld word 24 1 = 0#1 := he ▸ bitsHi (bitsHi (bitsHi (bitsHi (bitsHi (bitsHi (bitsHi bitsLo))))))
  have f23_1 : fld word 23 1 = c.code.extractLsb' 3 1 := he ▸ bitsHi (bitsHi (bitsHi (bitsHi (bitsHi (bitsHi bitsLo)))))
  have f20_3 : fld word 20 3 = d := he ▸ bitsHi (bitsHi (bitsHi (bitsHi (bitsHi bitsLo))))
  have f15_5 : fld word 15 5 = a := he ▸ bitsHi (bitsHi (bitsHi (bitsHi bitsLo)))
  have f10_5 : fld word 10 5 = b := he ▸ bitsHi (bitsHi (bitsHi bitsLo))
  have f6_4 : fld word 6 4 = t.code := he ▸ bitsHi (bitsHi bitsLo)
  have f3_3 : fld word 3 3 = mk := he ▸ bitsHi bitsLo
  have f0_3 : fld word 0 3 = c.code.extractLsb' 0 3 := he ▸ bitsLo
  have g0 : (c.isFloat && t.isVecFloat && d != 0) = true := hwf
  refine (vectorAt op).trans ?_
  change ((
      let d : MReg := fld word 20 3
      let a : VReg := fld word 15 5
      let b : VReg := fld word 10 5
      let mk : MReg := fld word 3 3
      withCode (Cond.ofCode ((fld word 23 1 ++ fld word 0 3))) fun c =>
      withCode (ETy.ofCode (fld word 6 4)) fun t =>
      gate (c.isFloat && t.isVecFloat && d != 0) <|
      rsv (fld word 24 1 == 0) <|
      .ok (.vfcmp c d a b t mk) : Except Reject Instr)) = _
  rw [f24_1, f23_1, f20_3, f15_5, f10_5, f6_4, f3_3, f0_3, condJoin, Cond.ofCode_code, ETy.ofCode_code]
  exact (gateOk g0).trans ((rsvOk (by rfl)).trans rfl)

theorem vfclass (d a : VReg) (t : ETy) (mk : MReg) : Statement (.vfclass d a t mk) := by
  intro hwf lane word henc
  obtain ⟨rfl, he⟩ := Prod.mk.inj (Option.some.inj henc)
  have op : fld word 25 7 = 33#7 := he ▸ bitsHi (bitsHi (bitsHi (bitsHi (bitsHi (bitsHi bitsAll)))))
  have f20_5 : fld word 20 5 = d := he ▸ bitsHi (bitsHi (bitsHi (bitsHi (bitsHi bitsLo))))
  have f15_5 : fld word 15 5 = a := he ▸ bitsHi (bitsHi (bitsHi (bitsHi bitsLo)))
  have f10_5 : fld word 10 5 = 0#5 := he ▸ bitsHi (bitsHi (bitsHi bitsLo))
  have f6_4 : fld word 6 4 = t.code := he ▸ bitsHi (bitsHi bitsLo)
  have f3_3 : fld word 3 3 = mk := he ▸ bitsHi bitsLo
  have f0_3 : fld word 0 3 = 0#3 := he ▸ bitsLo
  have g0 : (t.isScalarFloat) = true := hwf
  refine (vectorAt op).trans ?_
  change ((
      let d : VReg := fld word 20 5
      let a : VReg := fld word 15 5
      let mk : MReg := fld word 3 3
      withCode (ETy.ofCode (fld word 6 4)) fun t =>
      gate (t.isScalarFloat) <|
      rsv (fld word 0 3 == 0 && fld word 10 5 == 0) <|
      .ok (.vfclass d a t mk) : Except Reject Instr)) = _
  rw [f20_5, f15_5, f10_5, f6_4, f3_3, f0_3, ETy.ofCode_code]
  exact (gateOk g0).trans ((rsvOk (by rfl)).trans rfl)

theorem vcvt (d a : VReg) (sty t : ETy) (mk : MReg) (r : RM) : Statement (.vcvt d a sty t mk r) := by
  intro hwf lane word henc
  obtain ⟨rfl, he⟩ := Prod.mk.inj (Option.some.inj henc)
  have op : fld word 25 7 = 34#7 := he ▸ bitsHi (bitsHi (bitsHi (bitsHi (bitsHi (bitsHi (bitsHi bitsAll))))))
  have f20_5 : fld word 20 5 = d := he ▸ bitsHi (bitsHi (bitsHi (bitsHi (bitsHi (bitsHi bitsLo)))))
  have f15_5 : fld word 15 5 = a := he ▸ bitsHi (bitsHi (bitsHi (bitsHi (bitsHi bitsLo))))
  have f14_1 : fld word 14 1 = 0#1 := he ▸ bitsHi (bitsHi (bitsHi (bitsHi bitsLo)))
  have f10_4 : fld word 10 4 = sty.code := he ▸ bitsHi (bitsHi (bitsHi bitsLo))
  have f6_4 : fld word 6 4 = t.code := he ▸ bitsHi (bitsHi bitsLo)
  have f3_3 : fld word 3 3 = mk := he ▸ bitsHi bitsLo
  have f0_3 : fld word 0 3 = r.code := he ▸ bitsLo
  have g0 : (cvtRatioOk sty t) = true := hwf
  refine (vectorAt op).trans ?_
  change ((
      match (fld word 14 1).toNat with
      | 0 =>
        let d : VReg := fld word 20 5
        let a : VReg := fld word 15 5
        let mk : MReg := fld word 3 3
        withCode (ETy.ofCode (fld word 10 4)) fun sty =>
        withCode (ETy.ofCode (fld word 6 4)) fun t =>
        withCode (RM.ofCode (fld word 0 3)) fun r =>
        gate (cvtRatioOk sty t) <|
        .ok (.vcvt d a sty t mk r)
      | 1 =>
        let d : VReg := fld word 20 5
        let a : VReg := fld word 15 5
        let q : QReg := fld word 3 2
        withCode (ETy.ofCode (fld word 10 4)) fun sty =>
        withCode (ETy.ofCode (fld word 6 4)) fun t =>
        withCode (RM.ofCode (fld word 0 3)) fun r =>
        gate (cvtRatioOk sty t) <|
        rsv (fld word 5 1 == 0) <|
        .ok (.vcvtRes d a sty t q r)
      | _ => .error .illegalOp : Except Reject Instr)) = _
  rw [f20_5, f15_5, f14_1, f10_4, f6_4, f3_3, f0_3, ETy.ofCode_code, ETy.ofCode_code, RM.ofCode_code]
  exact (gateOk g0).trans rfl

theorem vcvtRes (d a : VReg) (sty t : ETy) (q : QReg) (r : RM) : Statement (.vcvtRes d a sty t q r) := by
  intro hwf lane word henc
  obtain ⟨rfl, he⟩ := Prod.mk.inj (Option.some.inj henc)
  have op : fld word 25 7 = 34#7 := he ▸ bitsHi (bitsHi (bitsHi (bitsHi (bitsHi (bitsHi (bitsHi (bitsHi bitsAll)))))))
  have f20_5 : fld word 20 5 = d := he ▸ bitsHi (bitsHi (bitsHi (bitsHi (bitsHi (bitsHi (bitsHi bitsLo))))))
  have f15_5 : fld word 15 5 = a := he ▸ bitsHi (bitsHi (bitsHi (bitsHi (bitsHi (bitsHi bitsLo)))))
  have f14_1 : fld word 14 1 = 1#1 := he ▸ bitsHi (bitsHi (bitsHi (bitsHi (bitsHi bitsLo))))
  have f10_4 : fld word 10 4 = sty.code := he ▸ bitsHi (bitsHi (bitsHi (bitsHi bitsLo)))
  have f6_4 : fld word 6 4 = t.code := he ▸ bitsHi (bitsHi (bitsHi bitsLo))
  have f5_1 : fld word 5 1 = 0#1 := he ▸ bitsHi (bitsHi bitsLo)
  have f3_2 : fld word 3 2 = q := he ▸ bitsHi bitsLo
  have f0_3 : fld word 0 3 = r.code := he ▸ bitsLo
  have g0 : (cvtRatioOk sty t) = true := hwf
  refine (vectorAt op).trans ?_
  change ((
      match (fld word 14 1).toNat with
      | 0 =>
        let d : VReg := fld word 20 5
        let a : VReg := fld word 15 5
        let mk : MReg := fld word 3 3
        withCode (ETy.ofCode (fld word 10 4)) fun sty =>
        withCode (ETy.ofCode (fld word 6 4)) fun t =>
        withCode (RM.ofCode (fld word 0 3)) fun r =>
        gate (cvtRatioOk sty t) <|
        .ok (.vcvt d a sty t mk r)
      | 1 =>
        let d : VReg := fld word 20 5
        let a : VReg := fld word 15 5
        let q : QReg := fld word 3 2
        withCode (ETy.ofCode (fld word 10 4)) fun sty =>
        withCode (ETy.ofCode (fld word 6 4)) fun t =>
        withCode (RM.ofCode (fld word 0 3)) fun r =>
        gate (cvtRatioOk sty t) <|
        rsv (fld word 5 1 == 0) <|
        .ok (.vcvtRes d a sty t q r)
      | _ => .error .illegalOp : Except Reject Instr)) = _
  rw [f20_5, f15_5, f14_1, f10_4, f6_4, f5_1, f3_2, f0_3, ETy.ofCode_code, ETy.ofCode_code, RM.ofCode_code]
  exact (gateOk g0).trans ((rsvOk (by rfl)).trans rfl)

theorem vpack (d a : VReg) (t : ETy) (mk : MReg) (sat : Bool) (x : XFac) : Statement (.vpack d a t mk sat x) := by
  intro hwf lane word henc
  obtain ⟨rfl, he⟩ := Prod.mk.inj (Option.some.inj henc)
  have op : fld word 25 7 = 35#7 := he ▸ bitsHi (bitsHi (bitsHi (bitsHi (bitsHi (bitsHi (bitsHi bitsAll))))))
  have f20_5 : fld word 20 5 = d := he ▸ bitsHi (bitsHi (bitsHi (bitsHi (bitsHi (bitsHi bitsLo)))))
  have f15_5 : fld word 15 5 = a := he ▸ bitsHi (bitsHi (bitsHi (bitsHi (bitsHi bitsLo))))
  have f10_5 : fld word 10 5 = 0#5 := he ▸ bitsHi (bitsHi (bitsHi (bitsHi bitsLo)))
  have f6_4 : fld word 6 4 = t.code := he ▸ bitsHi (bitsHi (bitsHi bitsLo))
  have f3_3 : fld word 3 3 = mk := he ▸ bitsHi (bitsHi bitsLo)
  have f2_1 : fld word 2 1 = BitVec.ofBool sat := he ▸ bitsHi bitsLo
  have f0_2 : fld word 0 2 = x.code := he ▸ bitsLo
  have g0 : (x.okTy t && x.grp.aligned a) = true := hwf
  refine (vectorAt op).trans ?_
  change ((
      let d : VReg := fld word 20 5
      let a : VReg := fld word 15 5
      let mk : MReg := fld word 3 3
      let sat : Bool := fld word 2 1 == 1
      withCode (ETy.ofCode (fld word 6 4)) fun t =>
      withCode (XFac.ofCode (fld word 0 2)) fun x =>
      gate (x.okTy t && x.grp.aligned a) <|
      rsv (fld word 10 5 == 0) <|
      .ok (.vpack d a t mk sat x) : Except Reject Instr)) = _
  rw [f20_5, f15_5, f10_5, f6_4, f3_3, f2_1, f0_2, ETy.ofCode_code, XFac.ofCode_code, ofBool_beq_one]
  exact (gateOk g0).trans ((rsvOk (by rfl)).trans rfl)

theorem vunpack (d a : VReg) (t : ETy) (mk : MReg) (x : XFac) : Statement (.vunpack d a t mk x) := by
  intro hwf lane word henc
  obtain ⟨rfl, he⟩ := Prod.mk.inj (Option.some.inj henc)
  have op : fld word 25 7 = 36#7 := he ▸ bitsHi (bitsHi (bitsHi (bitsHi (bitsHi (bitsHi (bitsHi bitsAll))))))
  have f20_5 : fld word 20 5 = d := he ▸ bitsHi (bitsHi (bitsHi (bitsHi (bitsHi (bitsHi bitsLo)))))
  have f15_5 : fld word 15 5 = a := he ▸ bitsHi (bitsHi (bitsHi (bitsHi (bitsHi bitsLo))))
  have f10_5 : fld word 10 5 = 0#5 := he ▸ bitsHi (bitsHi (bitsHi (bitsHi bitsLo)))
  have f6_4 : fld word 6 4 = t.code := he ▸ bitsHi (bitsHi (bitsHi bitsLo))
  have f3_3 : fld word 3 3 = mk := he ▸ bitsHi (bitsHi bitsLo)
  have f2_1 : fld word 2 1 = 0#1 := he ▸ bitsHi bitsLo
  have f0_2 : fld word 0 2 = x.code := he ▸ bitsLo
  have g0 : (x.okTy t && x.grp.aligned d) = true := hwf
  refine (vectorAt op).trans ?_
  change ((
      let d : VReg := fld word 20 5
      let a : VReg := fld word 15 5
      let mk : MReg := fld word 3 3
      withCode (ETy.ofCode (fld word 6 4)) fun t =>
      withCode (XFac.ofCode (fld word 0 2)) fun x =>
      gate (x.okTy t && x.grp.aligned d) <|
      rsv (fld word 2 1 == 0 && fld word 10 5 == 0) <|
      .ok (.vunpack d a t mk x) : Except Reject Instr)) = _
  rw [f20_5, f15_5, f10_5, f6_4, f3_3, f2_1, f0_2, ETy.ofCode_code, XFac.ofCode_code]
  exact (gateOk g0).trans ((rsvOk (by rfl)).trans rfl)

theorem vperm (d a b : VReg) (t : ETy) (mk : MReg) : Statement (.vperm d a b t mk) := by
  intro hwf lane word henc
  obtain ⟨rfl, he⟩ := Prod.mk.inj (Option.some.inj henc)
  have op : fld word 25 7 = 37#7 := he ▸ bitsHi (bitsHi (bitsHi (bitsHi (bitsHi (bitsHi bitsAll)))))
  have f20_5 : fld word 20 5 = d := he ▸ bitsHi (bitsHi (bitsHi (bitsHi (bitsHi bitsLo))))
  have f15_5 : fld word 15 5 = a := he ▸ bitsHi (bitsHi (bitsHi (bitsHi bitsLo)))
  have f10_5 : fld word 10 5 = b := he ▸ bitsHi (bitsHi (bitsHi bitsLo))
  have f6_4 : fld word 6 4 = t.code := he ▸ bitsHi (bitsHi bitsLo)
  have f3_3 : fld word 3 3 = mk := he ▸ bitsHi bitsLo
  have f0_3 : fld word 0 3 = 0#3 := he ▸ bitsLo
  refine (vectorAt op).trans ?_
  change ((
      let d : VReg := fld word 20 5
      let a : VReg := fld word 15 5
      let b : VReg := fld word 10 5
      let mk : MReg := fld word 3 3
      withCode (ETy.ofCode (fld word 6 4)) fun t =>
      rsv (fld word 0 3 == 0) <|
      .ok (.vperm d a b t mk) : Except Reject Instr)) = _
  rw [f20_5, f15_5, f10_5, f6_4, f3_3, f0_3, ETy.ofCode_code]
  exact (rsvOk (by rfl)).trans rfl

theorem vperm2 (d a b : VReg) (t : ETy) (mk : MReg) : Statement (.vperm2 d a b t mk) := by
  intro hwf lane word henc
  obtain ⟨rfl, he⟩ := Prod.mk.inj (Option.some.inj henc)
  have op : fld word 25 7 = 38#7 := he ▸ bitsHi (bitsHi (bitsHi (bitsHi (bitsHi (bitsHi bitsAll)))))
  have f20_5 : fld word 20 5 = d := he ▸ bitsHi (bitsHi (bitsHi (bitsHi (bitsHi bitsLo))))
  have f15_5 : fld word 15 5 = a := he ▸ bitsHi (bitsHi (bitsHi (bitsHi bitsLo)))
  have f10_5 : fld word 10 5 = b := he ▸ bitsHi (bitsHi (bitsHi bitsLo))
  have f6_4 : fld word 6 4 = t.code := he ▸ bitsHi (bitsHi bitsLo)
  have f3_3 : fld word 3 3 = mk := he ▸ bitsHi bitsLo
  have f0_3 : fld word 0 3 = 0#3 := he ▸ bitsLo
  have g0 : (Grp.g2.aligned a) = true := hwf
  refine (vectorAt op).trans ?_
  change ((
      let d : VReg := fld word 20 5
      let a : VReg := fld word 15 5
      let b : VReg := fld word 10 5
      let mk : MReg := fld word 3 3
      withCode (ETy.ofCode (fld word 6 4)) fun t =>
      gate (Grp.g2.aligned a) <|
      rsv (fld word 0 3 == 0) <|
      .ok (.vperm2 d a b t mk) : Except Reject Instr)) = _
  rw [f20_5, f15_5, f10_5, f6_4, f3_3, f0_3, ETy.ofCode_code]
  exact (gateOk g0).trans ((rsvOk (by rfl)).trans rfl)

theorem vslide (d a : VReg) (s : SReg) (t : ETy) (mk : MReg) (up : Bool) : Statement (.vslide d a s t mk up) := by
  intro hwf lane word henc
  obtain ⟨rfl, he⟩ := Prod.mk.inj (Option.some.inj henc)
  have op : fld word 25 7 = 39#7 := he ▸ bitsHi (bitsHi (bitsHi (bitsHi (bitsHi (bitsHi (bitsHi bitsAll))))))
  have f20_5 : fld word 20 5 = d := he ▸ bitsHi (bitsHi (bitsHi (bitsHi (bitsHi (bitsHi bitsLo)))))
  have f15_5 : fld word 15 5 = a := he ▸ bitsHi (bitsHi (bitsHi (bitsHi (bitsHi bitsLo))))
  have f9_6 : fld word 9 6 = s := he ▸ bitsHi (bitsHi (bitsHi (bitsHi bitsLo)))
  have f5_4 : fld word 5 4 = t.code := he ▸ bitsHi (bitsHi (bitsHi bitsLo))
  have f2_3 : fld word 2 3 = mk := he ▸ bitsHi (bitsHi bitsLo)
  have f1_1 : fld word 1 1 = 0#1 := he ▸ bitsHi bitsLo
  have f0_1 : fld word 0 1 = BitVec.ofBool up := he ▸ bitsLo
  refine (vectorAt op).trans ?_
  change ((
      let d : VReg := fld word 20 5
      let a : VReg := fld word 15 5
      let s : SReg := fld word 9 6
      let mk : MReg := fld word 2 3
      let up : Bool := fld word 0 1 == 1
      withCode (ETy.ofCode (fld word 5 4)) fun t =>
      rsv (fld word 1 1 == 0) <|
      .ok (.vslide d a s t mk up) : Except Reject Instr)) = _
  rw [f20_5, f15_5, f9_6, f5_4, f2_3, f1_1, f0_1, ETy.ofCode_code, ofBool_beq_one]
  exact (rsvOk (by rfl)).trans rfl

theorem vrot (d a : VReg) (s : SReg) (t : ETy) (mk : MReg) (up : Bool) : Statement (.vrot d a s t mk up) := by
  intro hwf lane word henc
  obtain ⟨rfl, he⟩ := Prod.mk.inj (Option.some.inj henc)
  have op : fld word 25 7 = 40#7 := he ▸ bitsHi (bitsHi (bitsHi (bitsHi (bitsHi (bitsHi (bitsHi bitsAll))))))
  have f20_5 : fld word 20 5 = d := he ▸ bitsHi (bitsHi (bitsHi (bitsHi (bitsHi (bitsHi bitsLo)))))
  have f15_5 : fld word 15 5 = a := he ▸ bitsHi (bitsHi (bitsHi (bitsHi (bitsHi bitsLo))))
  have f9_6 : fld word 9 6 = s := he ▸ bitsHi (bitsHi (bitsHi (bitsHi bitsLo)))
  have f5_4 : fld word 5 4 = t.code := he ▸ bitsHi (bitsHi (bitsHi bitsLo))
  have f2_3 : fld word 2 3 = mk := he ▸ bitsHi (bitsHi bitsLo)
  have f1_1 : fld word 1 1 = 0#1 := he ▸ bitsHi bitsLo
  have f0_1 : fld word 0 1 = BitVec.ofBool up := he ▸ bitsLo
  refine (vectorAt op).trans ?_
  change ((
      let d : VReg := fld word 20 5
      let a : VReg := fld word 15 5
      let s : SReg := fld word 9 6
      let mk : MReg := fld word 2 3
      let up : Bool := fld word 0 1 == 1
      withCode (ETy.ofCode (fld word 5 4)) fun t =>
      rsv (fld word 1 1 == 0) <|
      .ok (.vrot d a s t mk up) : Except Reject Instr)) = _
  rw [f20_5, f15_5, f9_6, f5_4, f2_3, f1_1, f0_1, ETy.ofCode_code, ofBool_beq_one]
  exact (rsvOk (by rfl)).trans rfl

theorem vbcast (d : VReg) (s : SReg) (t : ETy) (mk : MReg) : Statement (.vbcast d s t mk) := by
  intro hwf lane word henc
  obtain ⟨rfl, he⟩ := Prod.mk.inj (Option.some.inj henc)
  have op : fld word 25 7 = 41#7 := he ▸ bitsHi (bitsHi (bitsHi (bitsHi (bitsHi (bitsHi (bitsHi bitsAll))))))
  have f20_5 : fld word 20 5 = d := he ▸ bitsHi (bitsHi (bitsHi (bitsHi (bitsHi (bitsHi bitsLo)))))
  have f15_5 : fld word 15 5 = 0#5 := he ▸ bitsHi (bitsHi (bitsHi (bitsHi (bitsHi bitsLo))))
  have f9_6 : fld word 9 6 = s := he ▸ bitsHi (bitsHi (bitsHi (bitsHi bitsLo)))
  have f5_4 : fld word 5 4 = t.code := he ▸ bitsHi (bitsHi (bitsHi bitsLo))
  have f2_3 : fld word 2 3 = mk := he ▸ bitsHi (bitsHi bitsLo)
  have f1_1 : fld word 1 1 = 0#1 := he ▸ bitsHi bitsLo
  have f0_1 : fld word 0 1 = 0#1 := he ▸ bitsLo
  refine (vectorAt op).trans ?_
  change ((
      match (fld word 0 1).toNat with
      | 0 =>
        let d : VReg := fld word 20 5
        let s : SReg := fld word 9 6
        let mk : MReg := fld word 2 3
        withCode (ETy.ofCode (fld word 5 4)) fun t =>
        rsv (fld word 1 1 == 0 && fld word 15 5 == 0) <|
        .ok (.vbcast d s t mk)
      | 1 =>
        let d : VReg := fld word 20 5
        let a : VReg := fld word 15 5
        let s : SReg := fld word 9 6
        let mk : MReg := fld word 2 3
        withCode (ETy.ofCode (fld word 5 4)) fun t =>
        rsv (fld word 1 1 == 0) <|
        .ok (.vbcastEl d a s t mk)
      | _ => .error .illegalOp : Except Reject Instr)) = _
  rw [f20_5, f15_5, f9_6, f5_4, f2_3, f1_1, f0_1, ETy.ofCode_code]
  exact (rsvOk (by rfl)).trans rfl

theorem vbcastEl (d a : VReg) (s : SReg) (t : ETy) (mk : MReg) : Statement (.vbcastEl d a s t mk) := by
  intro hwf lane word henc
  obtain ⟨rfl, he⟩ := Prod.mk.inj (Option.some.inj henc)
  have op : fld word 25 7 = 41#7 := he ▸ bitsHi (bitsHi (bitsHi (bitsHi (bitsHi (bitsHi (bitsHi bitsAll))))))
  have f20_5 : fld word 20 5 = d := he ▸ bitsHi (bitsHi (bitsHi (bitsHi (bitsHi (bitsHi bitsLo)))))
  have f15_5 : fld word 15 5 = a := he ▸ bitsHi (bitsHi (bitsHi (bitsHi (bitsHi bitsLo))))
  have f9_6 : fld word 9 6 = s := he ▸ bitsHi (bitsHi (bitsHi (bitsHi bitsLo)))
  have f5_4 : fld word 5 4 = t.code := he ▸ bitsHi (bitsHi (bitsHi bitsLo))
  have f2_3 : fld word 2 3 = mk := he ▸ bitsHi (bitsHi bitsLo)
  have f1_1 : fld word 1 1 = 0#1 := he ▸ bitsHi bitsLo
  have f0_1 : fld word 0 1 = 1#1 := he ▸ bitsLo
  refine (vectorAt op).trans ?_
  change ((
      match (fld word 0 1).toNat with
      | 0 =>
        let d : VReg := fld word 20 5
        let s : SReg := fld word 9 6
        let mk : MReg := fld word 2 3
        withCode (ETy.ofCode (fld word 5 4)) fun t =>
        rsv (fld word 1 1 == 0 && fld word 15 5 == 0) <|
        .ok (.vbcast d s t mk)
      | 1 =>
        let d : VReg := fld word 20 5
        let a : VReg := fld word 15 5
        let s : SReg := fld word 9 6
        let mk : MReg := fld word 2 3
        withCode (ETy.ofCode (fld word 5 4)) fun t =>
        rsv (fld word 1 1 == 0) <|
        .ok (.vbcastEl d a s t mk)
      | _ => .error .illegalOp : Except Reject Instr)) = _
  rw [f20_5, f15_5, f9_6, f5_4, f2_3, f1_1, f0_1, ETy.ofCode_code]
  exact (rsvOk (by rfl)).trans rfl

theorem vextr (k : BitVec 10) (a : VReg) (s : SReg) (t : ETy) : Statement (.vextr k a s t) := by
  intro hwf lane word henc
  obtain ⟨rfl, he⟩ := Prod.mk.inj (Option.some.inj henc)
  have op : fld word 25 7 = 42#7 := he ▸ bitsHi (bitsHi (bitsHi (bitsHi (bitsHi bitsAll))))
  have f20_5 : fld word 20 5 = k.extractLsb' 5 5 := he ▸ bitsHi (bitsHi (bitsHi (bitsHi bitsLo)))
  have f15_5 : fld word 15 5 = a := he ▸ bitsHi (bitsHi (bitsHi bitsLo))
  have f9_6 : fld word 9 6 = s := he ▸ bitsHi (bitsHi bitsLo)
  have f5_4 : fld word 5 4 = t.code := he ▸ bitsHi bitsLo
  have f0_5 : fld word 0 5 = k.extractLsb' 0 5 := he ▸ bitsLo
  have g0 : (t.indexOk k) = true := hwf
  refine (vectorAt op).trans ?_
  change ((
      let k : BitVec 10 := (fld word 20 5 ++ fld word 0 5)
      let a : VReg := fld word 15 5
      let s : SReg := fld word 9 6
      withCode (ETy.ofCode (fld word 5 4)) fun t =>
      gate (t.indexOk k) <|
      .ok (.vextr k a s t) : Except Reject Instr)) = _
  rw [f20_5, f15_5, f9_6, f5_4, f0_5, ETy.ofCode_code, indexJoin]
  exact (gateOk g0).trans rfl

theorem vins (d : VReg) (k : BitVec 10) (s : SReg) (t : ETy) : Statement (.vins d k s t) := by
  intro hwf lane word henc
  obtain ⟨rfl, he⟩ := Prod.mk.inj (Option.some.inj henc)
  have op : fld word 25 7 = 43#7 := he ▸ bitsHi (bitsHi (bitsHi (bitsHi (bitsHi bitsAll))))
  have f20_5 : fld word 20 5 = d := he ▸ bitsHi (bitsHi (bitsHi (bitsHi bitsLo)))
  have f15_5 : fld word 15 5 = k.extractLsb' 5 5 := he ▸ bitsHi (bitsHi (bitsHi bitsLo))
  have f9_6 : fld word 9 6 = s := he ▸ bitsHi (bitsHi bitsLo)
  have f5_4 : fld word 5 4 = t.code := he ▸ bitsHi bitsLo
  have f0_5 : fld word 0 5 = k.extractLsb' 0 5 := he ▸ bitsLo
  have g0 : (t.indexOk k) = true := hwf
  refine (vectorAt op).trans ?_
  change ((
      let d : VReg := fld word 20 5
      let k : BitVec 10 := (fld word 15 5 ++ fld word 0 5)
      let s : SReg := fld word 9 6
      withCode (ETy.ofCode (fld word 5 4)) fun t =>
      gate (t.indexOk k) <|
      .ok (.vins d k s t) : Except Reject Instr)) = _
  rw [f20_5, f15_5, f9_6, f5_4, f0_5, ETy.ofCode_code, indexJoin]
  exact (gateOk g0).trans rfl

theorem viota (d : VReg) (t : ETy) (mk : MReg) : Statement (.viota d t mk) := by
  intro hwf lane word henc
  obtain ⟨rfl, he⟩ := Prod.mk.inj (Option.some.inj henc)
  have op : fld word 25 7 = 44#7 := he ▸ bitsHi (bitsHi (bitsHi (bitsHi (bitsHi (bitsHi bitsAll)))))
  have f20_5 : fld word 20 5 = d := he ▸ bitsHi (bitsHi (bitsHi (bitsHi (bitsHi bitsLo))))
  have f10_10 : fld word 10 10 = 0#10 := he ▸ bitsHi (bitsHi (bitsHi (bitsHi bitsLo)))
  have f6_4 : fld word 6 4 = t.code := he ▸ bitsHi (bitsHi (bitsHi bitsLo))
  have f3_3 : fld word 3 3 = mk := he ▸ bitsHi (bitsHi bitsLo)
  have f1_2 : fld word 1 2 = 0#2 := he ▸ bitsHi bitsLo
  have f0_1 : fld word 0 1 = 0#1 := he ▸ bitsLo
  have g0 : (t.isInt) = true := hwf
  refine (vectorAt op).trans ?_
  change ((
      match (fld word 0 1).toNat with
      | 0 =>
        let d : VReg := fld word 20 5
        let mk : MReg := fld word 3 3
        withCode (ETy.ofCode (fld word 6 4)) fun t =>
        gate (t.isInt) <|
        rsv (fld word 1 2 == 0 && fld word 10 10 == 0) <|
        .ok (.viota d t mk)
      | 1 =>
        let d : VReg := fld word 20 5
        withCode (ETy.ofCode (fld word 6 4)) fun t =>
        gate (t.isInt) <|
        rsv (fld word 1 5 == 0 && fld word 10 10 == 0) <|
        .ok (.viotaIdx d t)
      | _ => .error .illegalOp : Except Reject Instr)) = _
  rw [f20_5, f10_10, f6_4, f3_3, f1_2, f0_1, ETy.ofCode_code]
  exact (gateOk g0).trans ((rsvOk (by rfl)).trans rfl)

theorem viotaIdx (d : VReg) (t : ETy) : Statement (.viotaIdx d t) := by
  intro hwf lane word henc
  obtain ⟨rfl, he⟩ := Prod.mk.inj (Option.some.inj henc)
  have op : fld word 25 7 = 44#7 := he ▸ bitsHi (bitsHi (bitsHi (bitsHi (bitsHi bitsAll))))
  have f20_5 : fld word 20 5 = d := he ▸ bitsHi (bitsHi (bitsHi (bitsHi bitsLo)))
  have f10_10 : fld word 10 10 = 0#10 := he ▸ bitsHi (bitsHi (bitsHi bitsLo))
  have f6_4 : fld word 6 4 = t.code := he ▸ bitsHi (bitsHi bitsLo)
  have f1_5 : fld word 1 5 = 0#5 := he ▸ bitsHi bitsLo
  have f0_1 : fld word 0 1 = 1#1 := he ▸ bitsLo
  have g0 : (t.isInt) = true := hwf
  refine (vectorAt op).trans ?_
  change ((
      match (fld word 0 1).toNat with
      | 0 =>
        let d : VReg := fld word 20 5
        let mk : MReg := fld word 3 3
        withCode (ETy.ofCode (fld word 6 4)) fun t =>
        gate (t.isInt) <|
        rsv (fld word 1 2 == 0 && fld word 10 10 == 0) <|
        .ok (.viota d t mk)
      | 1 =>
        let d : VReg := fld word 20 5
        withCode (ETy.ofCode (fld word 6 4)) fun t =>
        gate (t.isInt) <|
        rsv (fld word 1 5 == 0 && fld word 10 10 == 0) <|
        .ok (.viotaIdx d t)
      | _ => .error .illegalOp : Except Reject Instr)) = _
  rw [f20_5, f10_10, f6_4, f1_5, f0_1, ETy.ofCode_code]
  exact (gateOk g0).trans ((rsvOk (by rfl)).trans rfl)

theorem vcompress (d a : VReg) (t : ETy) (mk : MReg) : Statement (.vcompress d a t mk) := by
  intro hwf lane word henc
  obtain ⟨rfl, he⟩ := Prod.mk.inj (Option.some.inj henc)
  have op : fld word 25 7 = 45#7 := he ▸ bitsHi (bitsHi (bitsHi (bitsHi (bitsHi (bitsHi bitsAll)))))
  have f20_5 : fld word 20 5 = d := he ▸ bitsHi (bitsHi (bitsHi (bitsHi (bitsHi bitsLo))))
  have f15_5 : fld word 15 5 = a := he ▸ bitsHi (bitsHi (bitsHi (bitsHi bitsLo)))
  have f10_5 : fld word 10 5 = 0#5 := he ▸ bitsHi (bitsHi (bitsHi bitsLo))
  have f6_4 : fld word 6 4 = t.code := he ▸ bitsHi (bitsHi bitsLo)
  have f3_3 : fld word 3 3 = mk := he ▸ bitsHi bitsLo
  have f0_3 : fld word 0 3 = 0#3 := he ▸ bitsLo
  refine (vectorAt op).trans ?_
  change ((
      let d : VReg := fld word 20 5
      let a : VReg := fld word 15 5
      let mk : MReg := fld word 3 3
      withCode (ETy.ofCode (fld word 6 4)) fun t =>
      rsv (fld word 0 3 == 0 && fld word 10 5 == 0) <|
      .ok (.vcompress d a t mk) : Except Reject Instr)) = _
  rw [f20_5, f15_5, f10_5, f6_4, f3_3, f0_3, ETy.ofCode_code]
  exact (rsvOk (by rfl)).trans rfl

theorem vexpand (d a : VReg) (t : ETy) (mk : MReg) : Statement (.vexpand d a t mk) := by
  intro hwf lane word henc
  obtain ⟨rfl, he⟩ := Prod.mk.inj (Option.some.inj henc)
  have op : fld word 25 7 = 46#7 := he ▸ bitsHi (bitsHi (bitsHi (bitsHi (bitsHi (bitsHi bitsAll)))))
  have f20_5 : fld word 20 5 = d := he ▸ bitsHi (bitsHi (bitsHi (bitsHi (bitsHi bitsLo))))
  have f15_5 : fld word 15 5 = a := he ▸ bitsHi (bitsHi (bitsHi (bitsHi bitsLo)))
  have f10_5 : fld word 10 5 = 0#5 := he ▸ bitsHi (bitsHi (bitsHi bitsLo))
  have f6_4 : fld word 6 4 = t.code := he ▸ bitsHi (bitsHi bitsLo)
  have f3_3 : fld word 3 3 = mk := he ▸ bitsHi bitsLo
  have f0_3 : fld word 0 3 = 0#3 := he ▸ bitsLo
  refine (vectorAt op).trans ?_
  change ((
      let d : VReg := fld word 20 5
      let a : VReg := fld word 15 5
      let mk : MReg := fld word 3 3
      withCode (ETy.ofCode (fld word 6 4)) fun t =>
      rsv (fld word 0 3 == 0 && fld word 10 5 == 0) <|
      .ok (.vexpand d a t mk) : Except Reject Instr)) = _
  rw [f20_5, f15_5, f10_5, f6_4, f3_3, f0_3, ETy.ofCode_code]
  exact (rsvOk (by rfl)).trans rfl

theorem vmov (d a : VReg) (t : ETy) (mk : MReg) (g : Grp) (bc : Bool) : Statement (.vmov d a t mk g bc) := by
  intro hwf lane word henc
  obtain ⟨rfl, he⟩ := Prod.mk.inj (Option.some.inj henc)
  have op : fld word 25 7 = 47#7 := he ▸ bitsHi (bitsHi (bitsHi (bitsHi (bitsHi (bitsHi (bitsHi bitsAll))))))
  have f20_5 : fld word 20 5 = d := he ▸ bitsHi (bitsHi (bitsHi (bitsHi (bitsHi (bitsHi bitsLo)))))
  have f15_5 : fld word 15 5 = a := he ▸ bitsHi (bitsHi (bitsHi (bitsHi (bitsHi bitsLo))))
  have f10_5 : fld word 10 5 = 0#5 := he ▸ bitsHi (bitsHi (bitsHi (bitsHi bitsLo)))
  have f6_4 : fld word 6 4 = t.code := he ▸ bitsHi (bitsHi (bitsHi bitsLo))
  have f3_3 : fld word 3 3 = mk := he ▸ bitsHi (bitsHi bitsLo)
  have f2_1 : fld word 2 1 = BitVec.ofBool bc := he ▸ bitsHi bitsLo
  have f0_2 : fld word 0 2 = g.code := he ▸ bitsLo
  have g0 : (g.aligned d && (bc || g.aligned a)) = true := hwf
  refine (vectorAt op).trans ?_
  change ((
      let d : VReg := fld word 20 5
      let a : VReg := fld word 15 5
      let mk : MReg := fld word 3 3
      let bc : Bool := fld word 2 1 == 1
      withCode (ETy.ofCode (fld word 6 4)) fun t =>
      withCode (Grp.ofCode (fld word 0 2)) fun g =>
      gate (g.aligned d && (bc || g.aligned a)) <|
      rsv (fld word 10 5 == 0) <|
      .ok (.vmov d a t mk g bc) : Except Reject Instr)) = _
  rw [f20_5, f15_5, f10_5, f6_4, f3_3, f2_1, f0_2, ETy.ofCode_code, Grp.ofCode_code, ofBool_beq_one]
  exact (gateOk g0).trans ((rsvOk (by rfl)).trans rfl)

theorem vzip (d a b : VReg) (t : ETy) : Statement (.vzip d a b t) := by
  intro hwf lane word henc
  obtain ⟨rfl, he⟩ := Prod.mk.inj (Option.some.inj henc)
  have op : fld word 25 7 = 48#7 := he ▸ bitsHi (bitsHi (bitsHi (bitsHi (bitsHi bitsAll))))
  have f20_5 : fld word 20 5 = d := he ▸ bitsHi (bitsHi (bitsHi (bitsHi bitsLo)))
  have f15_5 : fld word 15 5 = a := he ▸ bitsHi (bitsHi (bitsHi bitsLo))
  have f10_5 : fld word 10 5 = b := he ▸ bitsHi (bitsHi bitsLo)
  have f6_4 : fld word 6 4 = t.code := he ▸ bitsHi bitsLo
  have f0_6 : fld word 0 6 = 0#6 := he ▸ bitsLo
  have g0 : (Grp.g2.aligned d) = true := hwf
  refine (vectorAt op).trans ?_
  change ((
      let d : VReg := fld word 20 5
      let a : VReg := fld word 15 5
      let b : VReg := fld word 10 5
      withCode (ETy.ofCode (fld word 6 4)) fun t =>
      gate (Grp.g2.aligned d) <|
      rsv (fld word 0 6 == 0) <|
      .ok (.vzip d a b t) : Except Reject Instr)) = _
  rw [f20_5, f15_5, f10_5, f6_4, f0_6, ETy.ofCode_code]
  exact (gateOk g0).trans ((rsvOk (by rfl)).trans rfl)

theorem vunzip (d a : VReg) (t : ETy) : Statement (.vunzip d a t) := by
  intro hwf lane word henc
  obtain ⟨rfl, he⟩ := Prod.mk.inj (Option.some.inj henc)
  have op : fld word 25 7 = 49#7 := he ▸ bitsHi (bitsHi (bitsHi (bitsHi (bitsHi bitsAll))))
  have f20_5 : fld word 20 5 = d := he ▸ bitsHi (bitsHi (bitsHi (bitsHi bitsLo)))
  have f15_5 : fld word 15 5 = a := he ▸ bitsHi (bitsHi (bitsHi bitsLo))
  have f10_5 : fld word 10 5 = 0#5 := he ▸ bitsHi (bitsHi bitsLo)
  have f6_4 : fld word 6 4 = t.code := he ▸ bitsHi bitsLo
  have f0_6 : fld word 0 6 = 0#6 := he ▸ bitsLo
  have g0 : (Grp.g2.aligned d && Grp.g2.aligned a) = true := hwf
  refine (vectorAt op).trans ?_
  change ((
      let d : VReg := fld word 20 5
      let a : VReg := fld word 15 5
      withCode (ETy.ofCode (fld word 6 4)) fun t =>
      gate (Grp.g2.aligned d && Grp.g2.aligned a) <|
      rsv (fld word 0 6 == 0 && fld word 10 5 == 0) <|
      .ok (.vunzip d a t) : Except Reject Instr)) = _
  rw [f20_5, f15_5, f10_5, f6_4, f0_6, ETy.ofCode_code]
  exact (gateOk g0).trans ((rsvOk (by rfl)).trans rfl)

theorem mlog (d a b : MReg) (tb : BitVec 4) : Statement (.mlog d a b tb) := by
  intro hwf lane word henc
  obtain ⟨rfl, he⟩ := Prod.mk.inj (Option.some.inj henc)
  have op : fld word 25 7 = 50#7 := he ▸ bitsHi (bitsHi (bitsHi (bitsHi (bitsHi (bitsHi (bitsHi (bitsHi bitsAll)))))))
  have f23_2 : fld word 23 2 = 0#2 := he ▸ bitsHi (bitsHi (bitsHi (bitsHi (bitsHi (bitsHi (bitsHi bitsLo))))))
  have f20_3 : fld word 20 3 = d := he ▸ bitsHi (bitsHi (bitsHi (bitsHi (bitsHi (bitsHi bitsLo)))))
  have f18_2 : fld word 18 2 = 0#2 := he ▸ bitsHi (bitsHi (bitsHi (bitsHi (bitsHi bitsLo))))
  have f15_3 : fld word 15 3 = a := he ▸ bitsHi (bitsHi (bitsHi (bitsHi bitsLo)))
  have f13_2 : fld word 13 2 = 0#2 := he ▸ bitsHi (bitsHi (bitsHi bitsLo))
  have f10_3 : fld word 10 3 = b := he ▸ bitsHi (bitsHi bitsLo)
  have f6_4 : fld word 6 4 = tb := he ▸ bitsHi bitsLo
  have f0_6 : fld word 0 6 = 0#6 := he ▸ bitsLo
  have g0 : (d != 0) = true := hwf
  refine (vectorAt op).trans ?_
  change ((
      let d : MReg := fld word 20 3
      let a : MReg := fld word 15 3
      let b : MReg := fld word 10 3
      let tb : BitVec 4 := fld word 6 4
      gate (d != 0) <|
      rsv (fld word 0 6 == 0 && fld word 13 2 == 0 && fld word 18 2 == 0 && fld word 23 2 == 0) <|
      .ok (.mlog d a b tb) : Except Reject Instr)) = _
  rw [f23_2, f20_3, f18_2, f15_3, f13_2, f10_3, f6_4, f0_6]
  exact (gateOk g0).trans ((rsvOk (by rfl)).trans rfl)

theorem mpopc (a : MReg) (s : SReg) (t : ETy) (mk : MReg) : Statement (.mpopc a s t mk) := by
  intro hwf lane word henc
  obtain ⟨rfl, he⟩ := Prod.mk.inj (Option.some.inj henc)
  have op : fld word 25 7 = 51#7 := he ▸ bitsHi (bitsHi (bitsHi (bitsHi (bitsHi (bitsHi bitsAll)))))
  have f18_7 : fld word 18 7 = 0#7 := he ▸ bitsHi (bitsHi (bitsHi (bitsHi (bitsHi bitsLo))))
  have f15_3 : fld word 15 3 = a := he ▸ bitsHi (bitsHi (bitsHi (bitsHi bitsLo)))
  have f9_6 : fld word 9 6 = s := he ▸ bitsHi (bitsHi (bitsHi bitsLo))
  have f5_4 : fld word 5 4 = t.code := he ▸ bitsHi (bitsHi bitsLo)
  have f2_3 : fld word 2 3 = mk := he ▸ bitsHi bitsLo
  have f0_2 : fld word 0 2 = 0#2 := he ▸ bitsLo
  refine (vectorAt op).trans ?_
  change ((
      let a : MReg := fld word 15 3
      let s : SReg := fld word 9 6
      let mk : MReg := fld word 2 3
      withCode (ETy.ofCode (fld word 5 4)) fun t =>
      rsv (fld word 0 2 == 0 && fld word 18 7 == 0) <|
      .ok (.mpopc a s t mk) : Except Reject Instr)) = _
  rw [f18_7, f15_3, f9_6, f5_4, f2_3, f0_2, ETy.ofCode_code]
  exact (rsvOk (by rfl)).trans rfl

theorem mfirst (a : MReg) (s : SReg) (t : ETy) (mk : MReg) (last : Bool) : Statement (.mfirst a s t mk last) := by
  intro hwf lane word henc
  obtain ⟨rfl, he⟩ := Prod.mk.inj (Option.some.inj henc)
  have op : fld word 25 7 = 52#7 := he ▸ bitsHi (bitsHi (bitsHi (bitsHi (bitsHi (bitsHi (bitsHi bitsAll))))))
  have f18_7 : fld word 18 7 = 0#7 := he ▸ bitsHi (bitsHi (bitsHi (bitsHi (bitsHi (bitsHi bitsLo)))))
  have f15_3 : fld word 15 3 = a := he ▸ bitsHi (bitsHi (bitsHi (bitsHi (bitsHi bitsLo))))
  have f9_6 : fld word 9 6 = s := he ▸ bitsHi (bitsHi (bitsHi (bitsHi bitsLo)))
  have f5_4 : fld word 5 4 = t.code := he ▸ bitsHi (bitsHi (bitsHi bitsLo))
  have f2_3 : fld word 2 3 = mk := he ▸ bitsHi (bitsHi bitsLo)
  have f1_1 : fld word 1 1 = 0#1 := he ▸ bitsHi bitsLo
  have f0_1 : fld word 0 1 = BitVec.ofBool last := he ▸ bitsLo
  refine (vectorAt op).trans ?_
  change ((
      let a : MReg := fld word 15 3
      let s : SReg := fld word 9 6
      let mk : MReg := fld word 2 3
      let last : Bool := fld word 0 1 == 1
      withCode (ETy.ofCode (fld word 5 4)) fun t =>
      rsv (fld word 1 1 == 0 && fld word 18 7 == 0) <|
      .ok (.mfirst a s t mk last) : Except Reject Instr)) = _
  rw [f18_7, f15_3, f9_6, f5_4, f2_3, f1_1, f0_1, ETy.ofCode_code, ofBool_beq_one]
  exact (rsvOk (by rfl)).trans rfl

theorem mfromNz (d : MReg) (a : VReg) (t : ETy) (mk : MReg) : Statement (.mfromNz d a t mk) := by
  intro hwf lane word henc
  obtain ⟨rfl, he⟩ := Prod.mk.inj (Option.some.inj henc)
  have op : fld word 25 7 = 53#7 := he ▸ bitsHi (bitsHi (bitsHi (bitsHi (bitsHi (bitsHi (bitsHi bitsAll))))))
  have f23_2 : fld word 23 2 = 0#2 := he ▸ bitsHi (bitsHi (bitsHi (bitsHi (bitsHi (bitsHi bitsLo)))))
  have f20_3 : fld word 20 3 = d := he ▸ bitsHi (bitsHi (bitsHi (bitsHi (bitsHi bitsLo))))
  have f15_5 : fld word 15 5 = a := he ▸ bitsHi (bitsHi (bitsHi (bitsHi bitsLo)))
  have f9_6 : fld word 9 6 = 0#6 := he ▸ bitsHi (bitsHi (bitsHi bitsLo))
  have f5_4 : fld word 5 4 = t.code := he ▸ bitsHi (bitsHi bitsLo)
  have f2_3 : fld word 2 3 = mk := he ▸ bitsHi bitsLo
  have f0_2 : fld word 0 2 = 0#2 := he ▸ bitsLo
  have g0 : (d != 0) = true := hwf
  refine (vectorAt op).trans ?_
  change ((
      match (fld word 0 2).toNat with
      | 0 =>
        let d : MReg := fld word 20 3
        let a : VReg := fld word 15 5
        let mk : MReg := fld word 2 3
        withCode (ETy.ofCode (fld word 5 4)) fun t =>
        gate (d != 0) <|
        rsv (fld word 9 6 == 0 && fld word 23 2 == 0) <|
        .ok (.mfromNz d a t mk)
      | 1 =>
        let d : MReg := fld word 20 3
        let s : SReg := fld word 9 6
        let mk : MReg := fld word 2 3
        withCode (ETy.ofCode (fld word 5 4)) fun t =>
        gate (d != 0) <|
        rsv (fld word 15 5 == 0 && fld word 23 2 == 0) <|
        .ok (.mfromPre d s t mk)
      | 2 =>
        let d : MReg := fld word 20 3
        let s : SReg := fld word 9 6
        let mk : MReg := fld word 2 3
        withCode (ETy.ofCode (fld word 5 4)) fun t =>
        gate (d != 0) <|
        rsv (fld word 15 5 == 0 && fld word 23 2 == 0) <|
        .ok (.mfromSuf d s t mk)
      | _ => .error .illegalOp : Except Reject Instr)) = _
  rw [f23_2, f20_3, f15_5, f9_6, f5_4, f2_3, f0_2, ETy.ofCode_code]
  exact (gateOk g0).trans ((rsvOk (by rfl)).trans rfl)

theorem mfromPre (d : MReg) (s : SReg) (t : ETy) (mk : MReg) : Statement (.mfromPre d s t mk) := by
  intro hwf lane word henc
  obtain ⟨rfl, he⟩ := Prod.mk.inj (Option.some.inj henc)
  have op : fld word 25 7 = 53#7 := he ▸ bitsHi (bitsHi (bitsHi (bitsHi (bitsHi (bitsHi (bitsHi bitsAll))))))
  have f23_2 : fld word 23 2 = 0#2 := he ▸ bitsHi (bitsHi (bitsHi (bitsHi (bitsHi (bitsHi bitsLo)))))
  have f20_3 : fld word 20 3 = d := he ▸ bitsHi (bitsHi (bitsHi (bitsHi (bitsHi bitsLo))))
  have f15_5 : fld word 15 5 = 0#5 := he ▸ bitsHi (bitsHi (bitsHi (bitsHi bitsLo)))
  have f9_6 : fld word 9 6 = s := he ▸ bitsHi (bitsHi (bitsHi bitsLo))
  have f5_4 : fld word 5 4 = t.code := he ▸ bitsHi (bitsHi bitsLo)
  have f2_3 : fld word 2 3 = mk := he ▸ bitsHi bitsLo
  have f0_2 : fld word 0 2 = 1#2 := he ▸ bitsLo
  have g0 : (d != 0) = true := hwf
  refine (vectorAt op).trans ?_
  change ((
      match (fld word 0 2).toNat with
      | 0 =>
        let d : MReg := fld word 20 3
        let a : VReg := fld word 15 5
        let mk : MReg := fld word 2 3
        withCode (ETy.ofCode (fld word 5 4)) fun t =>
        gate (d != 0) <|
        rsv (fld word 9 6 == 0 && fld word 23 2 == 0) <|
        .ok (.mfromNz d a t mk)
      | 1 =>
        let d : MReg := fld word 20 3
        let s : SReg := fld word 9 6
        let mk : MReg := fld word 2 3
        withCode (ETy.ofCode (fld word 5 4)) fun t =>
        gate (d != 0) <|
        rsv (fld word 15 5 == 0 && fld word 23 2 == 0) <|
        .ok (.mfromPre d s t mk)
      | 2 =>
        let d : MReg := fld word 20 3
        let s : SReg := fld word 9 6
        let mk : MReg := fld word 2 3
        withCode (ETy.ofCode (fld word 5 4)) fun t =>
        gate (d != 0) <|
        rsv (fld word 15 5 == 0 && fld word 23 2 == 0) <|
        .ok (.mfromSuf d s t mk)
      | _ => .error .illegalOp : Except Reject Instr)) = _
  rw [f23_2, f20_3, f15_5, f9_6, f5_4, f2_3, f0_2, ETy.ofCode_code]
  exact (gateOk g0).trans ((rsvOk (by rfl)).trans rfl)

theorem mfromSuf (d : MReg) (s : SReg) (t : ETy) (mk : MReg) : Statement (.mfromSuf d s t mk) := by
  intro hwf lane word henc
  obtain ⟨rfl, he⟩ := Prod.mk.inj (Option.some.inj henc)
  have op : fld word 25 7 = 53#7 := he ▸ bitsHi (bitsHi (bitsHi (bitsHi (bitsHi (bitsHi (bitsHi bitsAll))))))
  have f23_2 : fld word 23 2 = 0#2 := he ▸ bitsHi (bitsHi (bitsHi (bitsHi (bitsHi (bitsHi bitsLo)))))
  have f20_3 : fld word 20 3 = d := he ▸ bitsHi (bitsHi (bitsHi (bitsHi (bitsHi bitsLo))))
  have f15_5 : fld word 15 5 = 0#5 := he ▸ bitsHi (bitsHi (bitsHi (bitsHi bitsLo)))
  have f9_6 : fld word 9 6 = s := he ▸ bitsHi (bitsHi (bitsHi bitsLo))
  have f5_4 : fld word 5 4 = t.code := he ▸ bitsHi (bitsHi bitsLo)
  have f2_3 : fld word 2 3 = mk := he ▸ bitsHi bitsLo
  have f0_2 : fld word 0 2 = 2#2 := he ▸ bitsLo
  have g0 : (d != 0) = true := hwf
  refine (vectorAt op).trans ?_
  change ((
      match (fld word 0 2).toNat with
      | 0 =>
        let d : MReg := fld word 20 3
        let a : VReg := fld word 15 5
        let mk : MReg := fld word 2 3
        withCode (ETy.ofCode (fld word 5 4)) fun t =>
        gate (d != 0) <|
        rsv (fld word 9 6 == 0 && fld word 23 2 == 0) <|
        .ok (.mfromNz d a t mk)
      | 1 =>
        let d : MReg := fld word 20 3
        let s : SReg := fld word 9 6
        let mk : MReg := fld word 2 3
        withCode (ETy.ofCode (fld word 5 4)) fun t =>
        gate (d != 0) <|
        rsv (fld word 15 5 == 0 && fld word 23 2 == 0) <|
        .ok (.mfromPre d s t mk)
      | 2 =>
        let d : MReg := fld word 20 3
        let s : SReg := fld word 9 6
        let mk : MReg := fld word 2 3
        withCode (ETy.ofCode (fld word 5 4)) fun t =>
        gate (d != 0) <|
        rsv (fld word 15 5 == 0 && fld word 23 2 == 0) <|
        .ok (.mfromSuf d s t mk)
      | _ => .error .illegalOp : Except Reject Instr)) = _
  rw [f23_2, f20_3, f15_5, f9_6, f5_4, f2_3, f0_2, ETy.ofCode_code]
  exact (gateOk g0).trans ((rsvOk (by rfl)).trans rfl)

theorem vexp2 (d a : VReg) (t : ETy) (mk : MReg) : Statement (.vexp2 d a t mk) := by
  intro hwf lane word henc
  obtain ⟨rfl, he⟩ := Prod.mk.inj (Option.some.inj henc)
  have op : fld word 25 7 = 54#7 := he ▸ bitsHi (bitsHi (bitsHi (bitsHi (bitsHi (bitsHi bitsAll)))))
  have f20_5 : fld word 20 5 = d := he ▸ bitsHi (bitsHi (bitsHi (bitsHi (bitsHi bitsLo))))
  have f15_5 : fld word 15 5 = a := he ▸ bitsHi (bitsHi (bitsHi (bitsHi bitsLo)))
  have f10_5 : fld word 10 5 = 0#5 := he ▸ bitsHi (bitsHi (bitsHi bitsLo))
  have f6_4 : fld word 6 4 = t.code := he ▸ bitsHi (bitsHi bitsLo)
  have f3_3 : fld word 3 3 = mk := he ▸ bitsHi bitsLo
  have f0_3 : fld word 0 3 = 0#3 := he ▸ bitsLo
  have g0 : (t.isVecFloat) = true := hwf
  refine (vectorAt op).trans ?_
  change ((
      let d : VReg := fld word 20 5
      let a : VReg := fld word 15 5
      let mk : MReg := fld word 3 3
      withCode (ETy.ofCode (fld word 6 4)) fun t =>
      gate (t.isVecFloat) <|
      rsv (fld word 0 3 == 0 && fld word 10 5 == 0) <|
      .ok (.vexp2 d a t mk) : Except Reject Instr)) = _
  rw [f20_5, f15_5, f10_5, f6_4, f3_3, f0_3, ETy.ofCode_code]
  exact (gateOk g0).trans ((rsvOk (by rfl)).trans rfl)

theorem vlog2 (d a : VReg) (t : ETy) (mk : MReg) : Statement (.vlog2 d a t mk) := by
  intro hwf lane word henc
  obtain ⟨rfl, he⟩ := Prod.mk.inj (Option.some.inj henc)
  have op : fld word 25 7 = 55#7 := he ▸ bitsHi (bitsHi (bitsHi (bitsHi (bitsHi (bitsHi bitsAll)))))
  have f20_5 : fld word 20 5 = d := he ▸ bitsHi (bitsHi (bitsHi (bitsHi (bitsHi bitsLo))))
  have f15_5 : fld word 15 5 = a := he ▸ bitsHi (bitsHi (bitsHi (bitsHi bitsLo)))
  have f10_5 : fld word 10 5 = 0#5 := he ▸ bitsHi (bitsHi (bitsHi bitsLo))
  have f6_4 : fld word 6 4 = t.code := he ▸ bitsHi (bitsHi bitsLo)
  have f3_3 : fld word 3 3 = mk := he ▸ bitsHi bitsLo
  have f0_3 : fld word 0 3 = 0#3 := he ▸ bitsLo
  have g0 : (t.isVecFloat) = true := hwf
  refine (vectorAt op).trans ?_
  change ((
      let d : VReg := fld word 20 5
      let a : VReg := fld word 15 5
      let mk : MReg := fld word 3 3
      withCode (ETy.ofCode (fld word 6 4)) fun t =>
      gate (t.isVecFloat) <|
      rsv (fld word 0 3 == 0 && fld word 10 5 == 0) <|
      .ok (.vlog2 d a t mk) : Except Reject Instr)) = _
  rw [f20_5, f15_5, f10_5, f6_4, f3_3, f0_3, ETy.ofCode_code]
  exact (gateOk g0).trans ((rsvOk (by rfl)).trans rfl)

theorem vrcp (d a : VReg) (t : ETy) (mk : MReg) : Statement (.vrcp d a t mk) := by
  intro hwf lane word henc
  obtain ⟨rfl, he⟩ := Prod.mk.inj (Option.some.inj henc)
  have op : fld word 25 7 = 56#7 := he ▸ bitsHi (bitsHi (bitsHi (bitsHi (bitsHi (bitsHi bitsAll)))))
  have f20_5 : fld word 20 5 = d := he ▸ bitsHi (bitsHi (bitsHi (bitsHi (bitsHi bitsLo))))
  have f15_5 : fld word 15 5 = a := he ▸ bitsHi (bitsHi (bitsHi (bitsHi bitsLo)))
  have f10_5 : fld word 10 5 = 0#5 := he ▸ bitsHi (bitsHi (bitsHi bitsLo))
  have f6_4 : fld word 6 4 = t.code := he ▸ bitsHi (bitsHi bitsLo)
  have f3_3 : fld word 3 3 = mk := he ▸ bitsHi bitsLo
  have f0_3 : fld word 0 3 = 0#3 := he ▸ bitsLo
  have g0 : (t.isVecFloat) = true := hwf
  refine (vectorAt op).trans ?_
  change ((
      let d : VReg := fld word 20 5
      let a : VReg := fld word 15 5
      let mk : MReg := fld word 3 3
      withCode (ETy.ofCode (fld word 6 4)) fun t =>
      gate (t.isVecFloat) <|
      rsv (fld word 0 3 == 0 && fld word 10 5 == 0) <|
      .ok (.vrcp d a t mk) : Except Reject Instr)) = _
  rw [f20_5, f15_5, f10_5, f6_4, f3_3, f0_3, ETy.ofCode_code]
  exact (gateOk g0).trans ((rsvOk (by rfl)).trans rfl)

theorem vrsqrt (d a : VReg) (t : ETy) (mk : MReg) : Statement (.vrsqrt d a t mk) := by
  intro hwf lane word henc
  obtain ⟨rfl, he⟩ := Prod.mk.inj (Option.some.inj henc)
  have op : fld word 25 7 = 57#7 := he ▸ bitsHi (bitsHi (bitsHi (bitsHi (bitsHi (bitsHi bitsAll)))))
  have f20_5 : fld word 20 5 = d := he ▸ bitsHi (bitsHi (bitsHi (bitsHi (bitsHi bitsLo))))
  have f15_5 : fld word 15 5 = a := he ▸ bitsHi (bitsHi (bitsHi (bitsHi bitsLo)))
  have f10_5 : fld word 10 5 = 0#5 := he ▸ bitsHi (bitsHi (bitsHi bitsLo))
  have f6_4 : fld word 6 4 = t.code := he ▸ bitsHi (bitsHi bitsLo)
  have f3_3 : fld word 3 3 = mk := he ▸ bitsHi bitsLo
  have f0_3 : fld word 0 3 = 0#3 := he ▸ bitsLo
  have g0 : (t.isVecFloat) = true := hwf
  refine (vectorAt op).trans ?_
  change ((
      let d : VReg := fld word 20 5
      let a : VReg := fld word 15 5
      let mk : MReg := fld word 3 3
      withCode (ETy.ofCode (fld word 6 4)) fun t =>
      gate (t.isVecFloat) <|
      rsv (fld word 0 3 == 0 && fld word 10 5 == 0) <|
      .ok (.vrsqrt d a t mk) : Except Reject Instr)) = _
  rw [f20_5, f15_5, f10_5, f6_4, f3_3, f0_3, ETy.ofCode_code]
  exact (gateOk g0).trans ((rsvOk (by rfl)).trans rfl)

theorem vsqrt (d a : VReg) (t : ETy) (mk : MReg) : Statement (.vsqrt d a t mk) := by
  intro hwf lane word henc
  obtain ⟨rfl, he⟩ := Prod.mk.inj (Option.some.inj henc)
  have op : fld word 25 7 = 58#7 := he ▸ bitsHi (bitsHi (bitsHi (bitsHi (bitsHi (bitsHi bitsAll)))))
  have f20_5 : fld word 20 5 = d := he ▸ bitsHi (bitsHi (bitsHi (bitsHi (bitsHi bitsLo))))
  have f15_5 : fld word 15 5 = a := he ▸ bitsHi (bitsHi (bitsHi (bitsHi bitsLo)))
  have f10_5 : fld word 10 5 = 0#5 := he ▸ bitsHi (bitsHi (bitsHi bitsLo))
  have f6_4 : fld word 6 4 = t.code := he ▸ bitsHi (bitsHi bitsLo)
  have f3_3 : fld word 3 3 = mk := he ▸ bitsHi bitsLo
  have f0_3 : fld word 0 3 = 0#3 := he ▸ bitsLo
  have g0 : (t.isVecFloat) = true := hwf
  refine (vectorAt op).trans ?_
  change ((
      let d : VReg := fld word 20 5
      let a : VReg := fld word 15 5
      let mk : MReg := fld word 3 3
      withCode (ETy.ofCode (fld word 6 4)) fun t =>
      gate (t.isVecFloat) <|
      rsv (fld word 0 3 == 0 && fld word 10 5 == 0) <|
      .ok (.vsqrt d a t mk) : Except Reject Instr)) = _
  rw [f20_5, f15_5, f10_5, f6_4, f3_3, f0_3, ETy.ofCode_code]
  exact (gateOk g0).trans ((rsvOk (by rfl)).trans rfl)

theorem vsincos (d a : VReg) (t : ETy) (mk : MReg) (cs : Bool) : Statement (.vsincos d a t mk cs) := by
  intro hwf lane word henc
  obtain ⟨rfl, he⟩ := Prod.mk.inj (Option.some.inj henc)
  have op : fld word 25 7 = 59#7 := he ▸ bitsHi (bitsHi (bitsHi (bitsHi (bitsHi (bitsHi (bitsHi bitsAll))))))
  have f20_5 : fld word 20 5 = d := he ▸ bitsHi (bitsHi (bitsHi (bitsHi (bitsHi (bitsHi bitsLo)))))
  have f15_5 : fld word 15 5 = a := he ▸ bitsHi (bitsHi (bitsHi (bitsHi (bitsHi bitsLo))))
  have f10_5 : fld word 10 5 = 0#5 := he ▸ bitsHi (bitsHi (bitsHi (bitsHi bitsLo)))
  have f6_4 : fld word 6 4 = t.code := he ▸ bitsHi (bitsHi (bitsHi bitsLo))
  have f3_3 : fld word 3 3 = mk := he ▸ bitsHi (bitsHi bitsLo)
  have f1_2 : fld word 1 2 = 0#2 := he ▸ bitsHi bitsLo
  have f0_1 : fld word 0 1 = BitVec.ofBool cs := he ▸ bitsLo
  have g0 : (t.isVecFloat) = true := hwf
  refine (vectorAt op).trans ?_
  change ((
      let d : VReg := fld word 20 5
      let a : VReg := fld word 15 5
      let mk : MReg := fld word 3 3
      let cs : Bool := fld word 0 1 == 1
      withCode (ETy.ofCode (fld word 6 4)) fun t =>
      gate (t.isVecFloat) <|
      rsv (fld word 1 2 == 0 && fld word 10 5 == 0) <|
      .ok (.vsincos d a t mk cs) : Except Reject Instr)) = _
  rw [f20_5, f15_5, f10_5, f6_4, f3_3, f1_2, f0_1, ETy.ofCode_code, ofBool_beq_one]
  exact (gateOk g0).trans ((rsvOk (by rfl)).trans rfl)

theorem vtanh (d a : VReg) (t : ETy) (mk : MReg) : Statement (.vtanh d a t mk) := by
  intro hwf lane word henc
  obtain ⟨rfl, he⟩ := Prod.mk.inj (Option.some.inj henc)
  have op : fld word 25 7 = 60#7 := he ▸ bitsHi (bitsHi (bitsHi (bitsHi (bitsHi (bitsHi bitsAll)))))
  have f20_5 : fld word 20 5 = d := he ▸ bitsHi (bitsHi (bitsHi (bitsHi (bitsHi bitsLo))))
  have f15_5 : fld word 15 5 = a := he ▸ bitsHi (bitsHi (bitsHi (bitsHi bitsLo)))
  have f10_5 : fld word 10 5 = 0#5 := he ▸ bitsHi (bitsHi (bitsHi bitsLo))
  have f6_4 : fld word 6 4 = t.code := he ▸ bitsHi (bitsHi bitsLo)
  have f3_3 : fld word 3 3 = mk := he ▸ bitsHi bitsLo
  have f0_3 : fld word 0 3 = 0#3 := he ▸ bitsLo
  have g0 : (t.isVecFloat) = true := hwf
  refine (vectorAt op).trans ?_
  change ((
      let d : VReg := fld word 20 5
      let a : VReg := fld word 15 5
      let mk : MReg := fld word 3 3
      withCode (ETy.ofCode (fld word 6 4)) fun t =>
      gate (t.isVecFloat) <|
      rsv (fld word 0 3 == 0 && fld word 10 5 == 0) <|
      .ok (.vtanh d a t mk) : Except Reject Instr)) = _
  rw [f20_5, f15_5, f10_5, f6_4, f3_3, f0_3, ETy.ofCode_code]
  exact (gateOk g0).trans ((rsvOk (by rfl)).trans rfl)

theorem redSum (q : QReg) (a : VReg) (t : ETy) (mk : MReg) (sq : Bool) : Statement (.redSum q a t mk sq) := by
  intro hwf lane word henc
  obtain ⟨rfl, he⟩ := Prod.mk.inj (Option.some.inj henc)
  have op : fld word 25 7 = 61#7 := he ▸ bitsHi (bitsHi (bitsHi (bitsHi (bitsHi (bitsHi (bitsHi bitsAll))))))
  have f22_3 : fld word 22 3 = 0#3 := he ▸ bitsHi (bitsHi (bitsHi (bitsHi (bitsHi (bitsHi bitsLo)))))
  have f20_2 : fld word 20 2 = q := he ▸ bitsHi (bitsHi (bitsHi (bitsHi (bitsHi bitsLo))))
  have f15_5 : fld word 15 5 = a := he ▸ bitsHi (bitsHi (bitsHi (bitsHi bitsLo)))
  have f10_5 : fld word 10 5 = 0#5 := he ▸ bitsHi (bitsHi (bitsHi bitsLo))
  have f6_4 : fld word 6 4 = t.code := he ▸ bitsHi (bitsHi bitsLo)
  have f3_3 : fld word 3 3 = mk := he ▸ bitsHi bitsLo
  have f0_3 : fld word 0 3 = (if sq then 3#3 else 0#3) := he ▸ bitsLo
  cases sq <;> (
    refine (vectorAt op).trans ?_
    change ((
        match (fld word 0 3).toNat with
        | 0 =>
          let q : QReg := fld word 20 2
          let a : VReg := fld word 15 5
          let mk : MReg := fld word 3 3
          withCode (ETy.ofCode (fld word 6 4)) fun t =>
          rsv (fld word 10 5 == 0 && fld word 22 3 == 0) <|
          .ok (.redSum q a t mk false)
        | 1 =>
          let q : QReg := fld word 20 2
          let a : VReg := fld word 15 5
          let b : VReg := fld word 10 5
          let mk : MReg := fld word 3 3
          withCode (ETy.ofCode (fld word 6 4)) fun t =>
          gate (t.isRedMax) <|
          rsv (fld word 22 3 == 0) <|
          .ok (.redMax q a b t mk false)
        | 2 =>
          let q : QReg := fld word 20 2
          let a : VReg := fld word 15 5
          let b : VReg := fld word 10 5
          let mk : MReg := fld word 3 3
          withCode (ETy.ofCode (fld word 6 4)) fun t =>
          gate (t.isRedMax) <|
          rsv (fld word 22 3 == 0) <|
          .ok (.redMax q a b t mk true)
        | 3 =>
          let q : QReg := fld word 20 2
          let a : VReg := fld word 15 5
          let mk : MReg := fld word 3 3
          withCode (ETy.ofCode (fld word 6 4)) fun t =>
          rsv (fld word 10 5 == 0 && fld word 22 3 == 0) <|
          .ok (.redSum q a t mk true)
        | _ => .error .illegalOp : Except Reject Instr)) = _
    rw [f22_3, f20_2, f15_5, f10_5, f6_4, f3_3, f0_3, ETy.ofCode_code]
    exact (rsvOk (by rfl)).trans rfl)

theorem redMax (q : QReg) (a b : VReg) (t : ETy) (mk : MReg) (mn : Bool) : Statement (.redMax q a b t mk mn) := by
  intro hwf lane word henc
  obtain ⟨rfl, he⟩ := Prod.mk.inj (Option.some.inj henc)
  have op : fld word 25 7 = 61#7 := he ▸ bitsHi (bitsHi (bitsHi (bitsHi (bitsHi (bitsHi (bitsHi bitsAll))))))
  have f22_3 : fld word 22 3 = 0#3 := he ▸ bitsHi (bitsHi (bitsHi (bitsHi (bitsHi (bitsHi bitsLo)))))
  have f20_2 : fld word 20 2 = q := he ▸ bitsHi (bitsHi (bitsHi (bitsHi (bitsHi bitsLo))))
  have f15_5 : fld word 15 5 = a := he ▸ bitsHi (bitsHi (bitsHi (bitsHi bitsLo)))
  have f10_5 : fld word 10 5 = b := he ▸ bitsHi (bitsHi (bitsHi bitsLo))
  have f6_4 : fld word 6 4 = t.code := he ▸ bitsHi (bitsHi bitsLo)
  have f3_3 : fld word 3 3 = mk := he ▸ bitsHi bitsLo
  have f0_3 : fld word 0 3 = (if mn then 2#3 else 1#3) := he ▸ bitsLo
  have g0 : (t.isRedMax) = true := hwf
  cases mn <;> (
    refine (vectorAt op).trans ?_
    change ((
        match (fld word 0 3).toNat with
        | 0 =>
          let q : QReg := fld word 20 2
          let a : VReg := fld word 15 5
          let mk : MReg := fld word 3 3
          withCode (ETy.ofCode (fld word 6 4)) fun t =>
          rsv (fld word 10 5 == 0 && fld word 22 3 == 0) <|
          .ok (.redSum q a t mk false)
        | 1 =>
          let q : QReg := fld word 20 2
          let a : VReg := fld word 15 5
          let b : VReg := fld word 10 5
          let mk : MReg := fld word 3 3
          withCode (ETy.ofCode (fld word 6 4)) fun t =>
          gate (t.isRedMax) <|
          rsv (fld word 22 3 == 0) <|
          .ok (.redMax q a b t mk false)
        | 2 =>
          let q : QReg := fld word 20 2
          let a : VReg := fld word 15 5
          let b : VReg := fld word 10 5
          let mk : MReg := fld word 3 3
          withCode (ETy.ofCode (fld word 6 4)) fun t =>
          gate (t.isRedMax) <|
          rsv (fld word 22 3 == 0) <|
          .ok (.redMax q a b t mk true)
        | 3 =>
          let q : QReg := fld word 20 2
          let a : VReg := fld word 15 5
          let mk : MReg := fld word 3 3
          withCode (ETy.ofCode (fld word 6 4)) fun t =>
          rsv (fld word 10 5 == 0 && fld word 22 3 == 0) <|
          .ok (.redSum q a t mk true)
        | _ => .error .illegalOp : Except Reject Instr)) = _
    rw [f22_3, f20_2, f15_5, f10_5, f6_4, f3_3, f0_3, ETy.ofCode_code]
    exact (gateOk g0).trans ((rsvOk (by rfl)).trans rfl))

theorem redmvGet (q : QReg) (s : SReg) (t : ETy) : Statement (.redmvGet q s t) := by
  intro hwf lane word henc
  obtain ⟨rfl, he⟩ := Prod.mk.inj (Option.some.inj henc)
  have op : fld word 25 7 = 62#7 := he ▸ bitsHi (bitsHi (bitsHi (bitsHi (bitsHi (bitsHi (bitsHi bitsAll))))))
  have f22_3 : fld word 22 3 = 0#3 := he ▸ bitsHi (bitsHi (bitsHi (bitsHi (bitsHi (bitsHi bitsLo)))))
  have f20_2 : fld word 20 2 = q := he ▸ bitsHi (bitsHi (bitsHi (bitsHi (bitsHi bitsLo))))
  have f15_5 : fld word 15 5 = 0#5 := he ▸ bitsHi (bitsHi (bitsHi (bitsHi bitsLo)))
  have f9_6 : fld word 9 6 = s := he ▸ bitsHi (bitsHi (bitsHi bitsLo))
  have f5_4 : fld word 5 4 = t.code := he ▸ bitsHi (bitsHi bitsLo)
  have f2_3 : fld word 2 3 = 0#3 := he ▸ bitsHi bitsLo
  have f0_2 : fld word 0 2 = 0#2 := he ▸ bitsLo
  have g0 : ((t == .a56 || t == .f32)) = true := hwf
  refine (vectorAt op).trans ?_
  change ((
      match (fld word 0 2).toNat with
      | 0 =>
        let q : QReg := fld word 20 2
        let s : SReg := fld word 9 6
        withCode (ETy.ofCode (fld word 5 4)) fun t =>
        gate ((t == .a56 || t == .f32)) <|
        rsv (fld word 2 3 == 0 && fld word 15 5 == 0 && fld word 22 3 == 0) <|
        .ok (.redmvGet q s t)
      | 1 =>
        let q : QReg := fld word 20 2
        let s : SReg := fld word 9 6
        rsv (fld word 2 7 == 0 && fld word 15 5 == 0 && fld word 22 3 == 0) <|
        .ok (.redmvIdx q s)
      | 2 =>
        let q : QReg := fld word 20 2
        let qa : QReg := fld word 15 2
        rsv (fld word 2 13 == 0 && fld word 17 3 == 0 && fld word 22 3 == 0) <|
        .ok (.redmvAdd q qa)
      | 3 =>
        let q : QReg := fld word 20 2
        let s : SReg := fld word 9 6
        rsv (fld word 2 7 == 0 && fld word 15 5 == 0 && fld word 22 3 == 0) <|
        .ok (.redmvSet q s)
      | _ => .error .illegalOp : Except Reject Instr)) = _
  rw [f22_3, f20_2, f15_5, f9_6, f5_4, f2_3, f0_2, ETy.ofCode_code]
  exact (gateOk g0).trans ((rsvOk (by rfl)).trans rfl)

theorem redmvIdx (q : QReg) (s : SReg) : Statement (.redmvIdx q s) := by
  intro hwf lane word henc
  obtain ⟨rfl, he⟩ := Prod.mk.inj (Option.some.inj henc)
  have op : fld word 25 7 = 62#7 := he ▸ bitsHi (bitsHi (bitsHi (bitsHi (bitsHi (bitsHi bitsAll)))))
  have f22_3 : fld word 22 3 = 0#3 := he ▸ bitsHi (bitsHi (bitsHi (bitsHi (bitsHi bitsLo))))
  have f20_2 : fld word 20 2 = q := he ▸ bitsHi (bitsHi (bitsHi (bitsHi bitsLo)))
  have f15_5 : fld word 15 5 = 0#5 := he ▸ bitsHi (bitsHi (bitsHi bitsLo))
  have f9_6 : fld word 9 6 = s := he ▸ bitsHi (bitsHi bitsLo)
  have f2_7 : fld word 2 7 = 0#7 := he ▸ bitsHi bitsLo
  have f0_2 : fld word 0 2 = 1#2 := he ▸ bitsLo
  refine (vectorAt op).trans ?_
  change ((
      match (fld word 0 2).toNat with
      | 0 =>
        let q : QReg := fld word 20 2
        let s : SReg := fld word 9 6
        withCode (ETy.ofCode (fld word 5 4)) fun t =>
        gate ((t == .a56 || t == .f32)) <|
        rsv (fld word 2 3 == 0 && fld word 15 5 == 0 && fld word 22 3 == 0) <|
        .ok (.redmvGet q s t)
      | 1 =>
        let q : QReg := fld word 20 2
        let s : SReg := fld word 9 6
        rsv (fld word 2 7 == 0 && fld word 15 5 == 0 && fld word 22 3 == 0) <|
        .ok (.redmvIdx q s)
      | 2 =>
        let q : QReg := fld word 20 2
        let qa : QReg := fld word 15 2
        rsv (fld word 2 13 == 0 && fld word 17 3 == 0 && fld word 22 3 == 0) <|
        .ok (.redmvAdd q qa)
      | 3 =>
        let q : QReg := fld word 20 2
        let s : SReg := fld word 9 6
        rsv (fld word 2 7 == 0 && fld word 15 5 == 0 && fld word 22 3 == 0) <|
        .ok (.redmvSet q s)
      | _ => .error .illegalOp : Except Reject Instr)) = _
  rw [f22_3, f20_2, f15_5, f9_6, f2_7, f0_2]
  exact (rsvOk (by rfl)).trans rfl

theorem redmvAdd (q qa : QReg) : Statement (.redmvAdd q qa) := by
  intro hwf lane word henc
  obtain ⟨rfl, he⟩ := Prod.mk.inj (Option.some.inj henc)
  have op : fld word 25 7 = 62#7 := he ▸ bitsHi (bitsHi (bitsHi (bitsHi (bitsHi (bitsHi bitsAll)))))
  have f22_3 : fld word 22 3 = 0#3 := he ▸ bitsHi (bitsHi (bitsHi (bitsHi (bitsHi bitsLo))))
  have f20_2 : fld word 20 2 = q := he ▸ bitsHi (bitsHi (bitsHi (bitsHi bitsLo)))
  have f17_3 : fld word 17 3 = 0#3 := he ▸ bitsHi (bitsHi (bitsHi bitsLo))
  have f15_2 : fld word 15 2 = qa := he ▸ bitsHi (bitsHi bitsLo)
  have f2_13 : fld word 2 13 = 0#13 := he ▸ bitsHi bitsLo
  have f0_2 : fld word 0 2 = 2#2 := he ▸ bitsLo
  refine (vectorAt op).trans ?_
  change ((
      match (fld word 0 2).toNat with
      | 0 =>
        let q : QReg := fld word 20 2
        let s : SReg := fld word 9 6
        withCode (ETy.ofCode (fld word 5 4)) fun t =>
        gate ((t == .a56 || t == .f32)) <|
        rsv (fld word 2 3 == 0 && fld word 15 5 == 0 && fld word 22 3 == 0) <|
        .ok (.redmvGet q s t)
      | 1 =>
        let q : QReg := fld word 20 2
        let s : SReg := fld word 9 6
        rsv (fld word 2 7 == 0 && fld word 15 5 == 0 && fld word 22 3 == 0) <|
        .ok (.redmvIdx q s)
      | 2 =>
        let q : QReg := fld word 20 2
        let qa : QReg := fld word 15 2
        rsv (fld word 2 13 == 0 && fld word 17 3 == 0 && fld word 22 3 == 0) <|
        .ok (.redmvAdd q qa)
      | 3 =>
        let q : QReg := fld word 20 2
        let s : SReg := fld word 9 6
        rsv (fld word 2 7 == 0 && fld word 15 5 == 0 && fld word 22 3 == 0) <|
        .ok (.redmvSet q s)
      | _ => .error .illegalOp : Except Reject Instr)) = _
  rw [f22_3, f20_2, f17_3, f15_2, f2_13, f0_2]
  exact (rsvOk (by rfl)).trans rfl

theorem redmvSet (q : QReg) (s : SReg) : Statement (.redmvSet q s) := by
  intro hwf lane word henc
  obtain ⟨rfl, he⟩ := Prod.mk.inj (Option.some.inj henc)
  have op : fld word 25 7 = 62#7 := he ▸ bitsHi (bitsHi (bitsHi (bitsHi (bitsHi (bitsHi bitsAll)))))
  have f22_3 : fld word 22 3 = 0#3 := he ▸ bitsHi (bitsHi (bitsHi (bitsHi (bitsHi bitsLo))))
  have f20_2 : fld word 20 2 = q := he ▸ bitsHi (bitsHi (bitsHi (bitsHi bitsLo)))
  have f15_5 : fld word 15 5 = 0#5 := he ▸ bitsHi (bitsHi (bitsHi bitsLo))
  have f9_6 : fld word 9 6 = s := he ▸ bitsHi (bitsHi bitsLo)
  have f2_7 : fld word 2 7 = 0#7 := he ▸ bitsHi bitsLo
  have f0_2 : fld word 0 2 = 3#2 := he ▸ bitsLo
  refine (vectorAt op).trans ?_
  change ((
      match (fld word 0 2).toNat with
      | 0 =>
        let q : QReg := fld word 20 2
        let s : SReg := fld word 9 6
        withCode (ETy.ofCode (fld word 5 4)) fun t =>
        gate ((t == .a56 || t == .f32)) <|
        rsv (fld word 2 3 == 0 && fld word 15 5 == 0 && fld word 22 3 == 0) <|
        .ok (.redmvGet q s t)
      | 1 =>
        let q : QReg := fld word 20 2
        let s : SReg := fld word 9 6
        rsv (fld word 2 7 == 0 && fld word 15 5 == 0 && fld word 22 3 == 0) <|
        .ok (.redmvIdx q s)
      | 2 =>
        let q : QReg := fld word 20 2
        let qa : QReg := fld word 15 2
        rsv (fld word 2 13 == 0 && fld word 17 3 == 0 && fld word 22 3 == 0) <|
        .ok (.redmvAdd q qa)
      | 3 =>
        let q : QReg := fld word 20 2
        let s : SReg := fld word 9 6
        rsv (fld word 2 7 == 0 && fld word 15 5 == 0 && fld word 22 3 == 0) <|
        .ok (.redmvSet q s)
      | _ => .error .illegalOp : Except Reject Instr)) = _
  rw [f22_3, f20_2, f15_5, f9_6, f2_7, f0_2]
  exact (rsvOk (by rfl)).trans rfl

theorem redclr (l : BitVec 4) (v : ClrVal) : Statement (.redclr l v) := by
  intro hwf lane word henc
  obtain ⟨rfl, he⟩ := Prod.mk.inj (Option.some.inj henc)
  have op : fld word 25 7 = 63#7 := he ▸ bitsHi (bitsHi (bitsHi (bitsHi bitsAll)))
  have f24_1 : fld word 24 1 = 0#1 := he ▸ bitsHi (bitsHi (bitsHi bitsLo))
  have f20_4 : fld word 20 4 = l := he ▸ bitsHi (bitsHi bitsLo)
  have f2_18 : fld word 2 18 = 0#18 := he ▸ bitsHi bitsLo
  have f0_2 : fld word 0 2 = v.code := he ▸ bitsLo
  have g0 : (l != 0) = true := hwf
  refine (vectorAt op).trans ?_
  change ((
      let l : BitVec 4 := fld word 20 4
      withCode (ClrVal.ofCode (fld word 0 2)) fun v =>
      gate (l != 0) <|
      rsv (fld word 2 18 == 0 && fld word 24 1 == 0) <|
      .ok (.redclr l v) : Except Reject Instr)) = _
  rw [f24_1, f20_4, f2_18, f0_2, ClrVal.ofCode_code]
  exact (gateOk g0).trans ((rsvOk (by rfl)).trans rfl)

theorem vcvtsxTo (d a : VReg) (t : ETy) (mk : MReg) (f : SxFmt) : Statement (.vcvtsxTo d a t mk f) := by
  intro hwf lane word henc
  obtain ⟨rfl, he⟩ := Prod.mk.inj (Option.some.inj henc)
  have op : fld word 25 7 = 64#7 := he ▸ bitsHi (bitsHi (bitsHi (bitsHi (bitsHi (bitsHi (bitsHi bitsAll))))))
  have f20_5 : fld word 20 5 = d := he ▸ bitsHi (bitsHi (bitsHi (bitsHi (bitsHi (bitsHi bitsLo)))))
  have f15_5 : fld word 15 5 = a := he ▸ bitsHi (bitsHi (bitsHi (bitsHi (bitsHi bitsLo))))
  have f10_5 : fld word 10 5 = 0#5 := he ▸ bitsHi (bitsHi (bitsHi (bitsHi bitsLo)))
  have f6_4 : fld word 6 4 = t.code := he ▸ bitsHi (bitsHi (bitsHi bitsLo))
  have f3_3 : fld word 3 3 = mk := he ▸ bitsHi (bitsHi bitsLo)
  have f2_1 : fld word 2 1 = 0#1 := he ▸ bitsHi bitsLo
  have f0_2 : fld word 0 2 = f.code := he ▸ bitsLo
  have g0 : (t.isVecFloat) = true := hwf
  refine (vectorAt op).trans ?_
  change ((
      match (fld word 2 1).toNat with
      | 0 =>
        let d : VReg := fld word 20 5
        let a : VReg := fld word 15 5
        let mk : MReg := fld word 3 3
        withCode (ETy.ofCode (fld word 6 4)) fun t =>
        withCode (SxFmt.ofCode (fld word 0 2)) fun f =>
        gate (t.isVecFloat) <|
        rsv (fld word 10 5 == 0) <|
        .ok (.vcvtsxTo d a t mk f)
      | 1 =>
        let d : VReg := fld word 20 5
        let a : VReg := fld word 15 5
        let h : Bool := fld word 10 1 == 1
        let mk : MReg := fld word 3 3
        withCode (ETy.ofCode (fld word 6 4)) fun t =>
        withCode (SxFmt.ofCode (fld word 0 2)) fun f =>
        gate (t == .f32) <|
        rsv (fld word 11 4 == 0) <|
        .ok (.vcvtsxFrom d a h t mk f)
      | _ => .error .illegalOp : Except Reject Instr)) = _
  rw [f20_5, f15_5, f10_5, f6_4, f3_3, f2_1, f0_2, ETy.ofCode_code, SxFmt.ofCode_code]
  exact (gateOk g0).trans ((rsvOk (by rfl)).trans rfl)

theorem vcvtsxFrom (d a : VReg) (h : Bool) (t : ETy) (mk : MReg) (f : SxFmt) : Statement (.vcvtsxFrom d a h t mk f) := by
  intro hwf lane word henc
  obtain ⟨rfl, he⟩ := Prod.mk.inj (Option.some.inj henc)
  have op : fld word 25 7 = 64#7 := he ▸ bitsHi (bitsHi (bitsHi (bitsHi (bitsHi (bitsHi (bitsHi (bitsHi bitsAll)))))))
  have f20_5 : fld word 20 5 = d := he ▸ bitsHi (bitsHi (bitsHi (bitsHi (bitsHi (bitsHi (bitsHi bitsLo))))))
  have f15_5 : fld word 15 5 = a := he ▸ bitsHi (bitsHi (bitsHi (bitsHi (bitsHi (bitsHi bitsLo)))))
  have f11_4 : fld word 11 4 = 0#4 := he ▸ bitsHi (bitsHi (bitsHi (bitsHi (bitsHi bitsLo))))
  have f10_1 : fld word 10 1 = BitVec.ofBool h := he ▸ bitsHi (bitsHi (bitsHi (bitsHi bitsLo)))
  have f6_4 : fld word 6 4 = t.code := he ▸ bitsHi (bitsHi (bitsHi bitsLo))
  have f3_3 : fld word 3 3 = mk := he ▸ bitsHi (bitsHi bitsLo)
  have f2_1 : fld word 2 1 = 1#1 := he ▸ bitsHi bitsLo
  have f0_2 : fld word 0 2 = f.code := he ▸ bitsLo
  have g0 : (t == .f32) = true := hwf
  refine (vectorAt op).trans ?_
  change ((
      match (fld word 2 1).toNat with
      | 0 =>
        let d : VReg := fld word 20 5
        let a : VReg := fld word 15 5
        let mk : MReg := fld word 3 3
        withCode (ETy.ofCode (fld word 6 4)) fun t =>
        withCode (SxFmt.ofCode (fld word 0 2)) fun f =>
        gate (t.isVecFloat) <|
        rsv (fld word 10 5 == 0) <|
        .ok (.vcvtsxTo d a t mk f)
      | 1 =>
        let d : VReg := fld word 20 5
        let a : VReg := fld word 15 5
        let h : Bool := fld word 10 1 == 1
        let mk : MReg := fld word 3 3
        withCode (ETy.ofCode (fld word 6 4)) fun t =>
        withCode (SxFmt.ofCode (fld word 0 2)) fun f =>
        gate (t == .f32) <|
        rsv (fld word 11 4 == 0) <|
        .ok (.vcvtsxFrom d a h t mk f)
      | _ => .error .illegalOp : Except Reject Instr)) = _
  rw [f20_5, f15_5, f11_4, f10_1, f6_4, f3_3, f2_1, f0_2, ETy.ofCode_code, SxFmt.ofCode_code, ofBool_beq_one]
  exact (gateOk g0).trans ((rsvOk (by rfl)).trans rfl)

theorem vmatch (d : MReg) (a b : VReg) (t : ETy) (mk : MReg) (part : Bool) : Statement (.vmatch d a b t mk part) := by
  intro hwf lane word henc
  obtain ⟨rfl, he⟩ := Prod.mk.inj (Option.some.inj henc)
  have op : fld word 25 7 = 65#7 := he ▸ bitsHi (bitsHi (bitsHi (bitsHi (bitsHi (bitsHi (bitsHi (bitsHi bitsAll)))))))
  have f23_2 : fld word 23 2 = 0#2 := he ▸ bitsHi (bitsHi (bitsHi (bitsHi (bitsHi (bitsHi (bitsHi bitsLo))))))
  have f20_3 : fld word 20 3 = d := he ▸ bitsHi (bitsHi (bitsHi (bitsHi (bitsHi (bitsHi bitsLo)))))
  have f15_5 : fld word 15 5 = a := he ▸ bitsHi (bitsHi (bitsHi (bitsHi (bitsHi bitsLo))))
  have f10_5 : fld word 10 5 = b := he ▸ bitsHi (bitsHi (bitsHi (bitsHi bitsLo)))
  have f6_4 : fld word 6 4 = t.code := he ▸ bitsHi (bitsHi (bitsHi bitsLo))
  have f3_3 : fld word 3 3 = mk := he ▸ bitsHi (bitsHi bitsLo)
  have f1_2 : fld word 1 2 = 0#2 := he ▸ bitsHi bitsLo
  have f0_1 : fld word 0 1 = BitVec.ofBool part := he ▸ bitsLo
  have g0 : (t.isMatch && d != 0) = true := hwf
  refine (vectorAt op).trans ?_
  change ((
      let d : MReg := fld word 20 3
      let a : VReg := fld word 15 5
      let b : VReg := fld word 10 5
      let mk : MReg := fld word 3 3
      let part : Bool := fld word 0 1 == 1
      withCode (ETy.ofCode (fld word 6 4)) fun t =>
      gate (t.isMatch && d != 0) <|
      rsv (fld word 1 2 == 0 && fld word 23 2 == 0) <|
      .ok (.vmatch d a b t mk part) : Except Reject Instr)) = _
  rw [f23_2, f20_3, f15_5, f10_5, f6_4, f3_3, f1_2, f0_1, ETy.ofCode_code, ofBool_beq_one]
  exact (gateOk g0).trans ((rsvOk (by rfl)).trans rfl)

theorem mshape (bands : BitVec 4) : Statement (.mshape bands) := by
  intro hwf lane word henc
  obtain ⟨rfl, he⟩ := Prod.mk.inj (Option.some.inj henc)
  have op : fld word 25 7 = 1#7 := he ▸ bitsHi (bitsHi bitsAll)
  have f4_21 : fld word 4 21 = 0#21 := he ▸ bitsHi bitsLo
  have f0_4 : fld word 0 4 = bands := he ▸ bitsLo
  have g0 : (bands != 0) = true := hwf
  refine (matrixAt op).trans ?_
  change ((
      let bands : BitVec 4 := fld word 0 4
      gate (bands != 0) <|
      rsv (fld word 4 21 == 0) <|
      .ok (.mshape bands) : Except Reject Instr)) = _
  rw [f4_21, f0_4]
  exact (gateOk g0).trans ((rsvOk (by rfl)).trans rfl)

theorem mldw (l : LReg) (k : DReg) (s : SReg) : Statement (.mldw l k s) := by
  intro hwf lane word henc
  obtain ⟨rfl, he⟩ := Prod.mk.inj (Option.some.inj henc)
  have op : fld word 25 7 = 2#7 := he ▸ bitsHi (bitsHi (bitsHi (bitsHi (bitsHi (bitsHi (bitsHi bitsAll))))))
  have f22_3 : fld word 22 3 = 0#3 := he ▸ bitsHi (bitsHi (bitsHi (bitsHi (bitsHi (bitsHi bitsLo)))))
  have f21_1 : fld word 21 1 = l := he ▸ bitsHi (bitsHi (bitsHi (bitsHi (bitsHi bitsLo))))
  have f17_4 : fld word 17 4 = k := he ▸ bitsHi (bitsHi (bitsHi (bitsHi bitsLo)))
  have f15_2 : fld word 15 2 = 0#2 := he ▸ bitsHi (bitsHi (bitsHi bitsLo))
  have f13_2 : fld word 13 2 = 0#2 := he ▸ bitsHi (bitsHi bitsLo)
  have f7_6 : fld word 7 6 = s := he ▸ bitsHi bitsLo
  have f0_7 : fld word 0 7 = 0#7 := he ▸ bitsLo
  refine (matrixAt op).trans ?_
  change ((
      match (fld word 15 2).toNat with
      | 0 =>
        let l : LReg := fld word 21 1
        let k : DReg := fld word 17 4
        let s : SReg := fld word 7 6
        rsv (fld word 0 7 == 0 && fld word 13 2 == 0 && fld word 22 3 == 0) <|
        .ok (.mldw l k s)
      | 1 =>
        let l : LReg := fld word 21 1
        let k : DReg := fld word 17 4
        let j : BitVec 2 := fld word 13 2
        let s : SReg := fld word 7 6
        let g : BitVec 2 := fld word 2 2
        let n : BitVec 2 := fld word 0 2
        rsv (fld word 4 3 == 0 && fld word 22 3 == 0) <|
        .ok (.mldwExpand l k j s g n)
      | _ => .error .illegalOp : Except Reject Instr)) = _
  rw [f22_3, f21_1, f17_4, f15_2, f13_2, f7_6, f0_7]
  exact (rsvOk (by rfl)).trans rfl

theorem mldwExpand (l : LReg) (k : DReg) (j : BitVec 2) (s : SReg) (g n : BitVec 2) : Statement (.mldwExpand l k j s g n) := by
  intro hwf lane word henc
  obtain ⟨rfl, he⟩ := Prod.mk.inj (Option.some.inj henc)
  have op : fld word 25 7 = 2#7 := he ▸ bitsHi (bitsHi (bitsHi (bitsHi (bitsHi (bitsHi (bitsHi (bitsHi (bitsHi bitsAll))))))))
  have f22_3 : fld word 22 3 = 0#3 := he ▸ bitsHi (bitsHi (bitsHi (bitsHi (bitsHi (bitsHi (bitsHi (bitsHi bitsLo)))))))
  have f21_1 : fld word 21 1 = l := he ▸ bitsHi (bitsHi (bitsHi (bitsHi (bitsHi (bitsHi (bitsHi bitsLo))))))
  have f17_4 : fld word 17 4 = k := he ▸ bitsHi (bitsHi (bitsHi (bitsHi (bitsHi (bitsHi bitsLo)))))
  have f15_2 : fld word 15 2 = 1#2 := he ▸ bitsHi (bitsHi (bitsHi (bitsHi (bitsHi bitsLo))))
  have f13_2 : fld word 13 2 = j := he ▸ bitsHi (bitsHi (bitsHi (bitsHi bitsLo)))
  have f7_6 : fld word 7 6 = s := he ▸ bitsHi (bitsHi (bitsHi bitsLo))
  have f4_3 : fld word 4 3 = 0#3 := he ▸ bitsHi (bitsHi bitsLo)
  have f2_2 : fld word 2 2 = g := he ▸ bitsHi bitsLo
  have f0_2 : fld word 0 2 = n := he ▸ bitsLo
  refine (matrixAt op).trans ?_
  change ((
      match (fld word 15 2).toNat with
      | 0 =>
        let l : LReg := fld word 21 1
        let k : DReg := fld word 17 4
        let s : SReg := fld word 7 6
        rsv (fld word 0 7 == 0 && fld word 13 2 == 0 && fld word 22 3 == 0) <|
        .ok (.mldw l k s)
      | 1 =>
        let l : LReg := fld word 21 1
        let k : DReg := fld word 17 4
        let j : BitVec 2 := fld word 13 2
        let s : SReg := fld word 7 6
        let g : BitVec 2 := fld word 2 2
        let n : BitVec 2 := fld word 0 2
        rsv (fld word 4 3 == 0 && fld word 22 3 == 0) <|
        .ok (.mldwExpand l k j s g n)
      | _ => .error .illegalOp : Except Reject Instr)) = _
  rw [f22_3, f21_1, f17_4, f15_2, f13_2, f7_6, f4_3, f2_2, f0_2]
  exact (rsvOk (by rfl)).trans rfl

theorem mma (c : AccReg) (l : LReg) (k : DReg) (s : SReg) (acc : Bool) : Statement (.mma c l k s acc) := by
  intro hwf lane word henc
  obtain ⟨rfl, he⟩ := Prod.mk.inj (Option.some.inj henc)
  have op : fld word 25 7 = 3#7 := he ▸ bitsHi (bitsHi (bitsHi (bitsHi (bitsHi (bitsHi (bitsHi (bitsHi bitsAll)))))))
  have f22_3 : fld word 22 3 = c := he ▸ bitsHi (bitsHi (bitsHi (bitsHi (bitsHi (bitsHi (bitsHi bitsLo))))))
  have f21_1 : fld word 21 1 = l := he ▸ bitsHi (bitsHi (bitsHi (bitsHi (bitsHi (bitsHi bitsLo)))))
  have f17_4 : fld word 17 4 = k := he ▸ bitsHi (bitsHi (bitsHi (bitsHi (bitsHi bitsLo))))
  have f15_2 : fld word 15 2 = 0#2 := he ▸ bitsHi (bitsHi (bitsHi (bitsHi bitsLo)))
  have f13_2 : fld word 13 2 = 0#2 := he ▸ bitsHi (bitsHi (bitsHi bitsLo))
  have f7_6 : fld word 7 6 = s := he ▸ bitsHi (bitsHi bitsLo)
  have f1_6 : fld word 1 6 = 0#6 := he ▸ bitsHi bitsLo
  have f0_1 : fld word 0 1 = BitVec.ofBool acc := he ▸ bitsLo
  refine (matrixAt op).trans ?_
  change ((
      match (fld word 15 2).toNat with
      | 0 =>
        let c : AccReg := fld word 22 3
        let l : LReg := fld word 21 1
        let k : DReg := fld word 17 4
        let s : SReg := fld word 7 6
        let acc : Bool := fld word 0 1 == 1
        rsv (fld word 1 6 == 0 && fld word 13 2 == 0) <|
        .ok (.mma c l k s acc)
      | 2 =>
        let c : AccReg := fld word 22 3
        let l : LReg := fld word 21 1
        let k : DReg := fld word 17 4
        let j : BitVec 2 := fld word 13 2
        let s : SReg := fld word 7 6
        let n : BitVec 2 := fld word 1 2
        let acc : Bool := fld word 0 1 == 1
        rsv (fld word 3 4 == 0) <|
        .ok (.mmaAbsorb c l k j s n acc)
      | _ => .error .illegalOp : Except Reject Instr)) = _
  rw [f22_3, f21_1, f17_4, f15_2, f13_2, f7_6, f1_6, f0_1, ofBool_beq_one]
  exact (rsvOk (by rfl)).trans rfl

theorem mmaAbsorb (c : AccReg) (l : LReg) (k : DReg) (j : BitVec 2) (s : SReg) (n : BitVec 2) (acc : Bool) : Statement (.mmaAbsorb c l k j s n acc) := by
  intro hwf lane word henc
  obtain ⟨rfl, he⟩ := Prod.mk.inj (Option.some.inj henc)
  have op : fld word 25 7 = 3#7 := he ▸ bitsHi (bitsHi (bitsHi (bitsHi (bitsHi (bitsHi (bitsHi (bitsHi (bitsHi bitsAll))))))))
  have f22_3 : fld word 22 3 = c := he ▸ bitsHi (bitsHi (bitsHi (bitsHi (bitsHi (bitsHi (bitsHi (bitsHi bitsLo)))))))
  have f21_1 : fld word 21 1 = l := he ▸ bitsHi (bitsHi (bitsHi (bitsHi (bitsHi (bitsHi (bitsHi bitsLo))))))
  have f17_4 : fld word 17 4 = k := he ▸ bitsHi (bitsHi (bitsHi (bitsHi (bitsHi (bitsHi bitsLo)))))
  have f15_2 : fld word 15 2 = 2#2 := he ▸ bitsHi (bitsHi (bitsHi (bitsHi (bitsHi bitsLo))))
  have f13_2 : fld word 13 2 = j := he ▸ bitsHi (bitsHi (bitsHi (bitsHi bitsLo)))
  have f7_6 : fld word 7 6 = s := he ▸ bitsHi (bitsHi (bitsHi bitsLo))
  have f3_4 : fld word 3 4 = 0#4 := he ▸ bitsHi (bitsHi bitsLo)
  have f1_2 : fld word 1 2 = n := he ▸ bitsHi bitsLo
  have f0_1 : fld word 0 1 = BitVec.ofBool acc := he ▸ bitsLo
  refine (matrixAt op).trans ?_
  change ((
      match (fld word 15 2).toNat with
      | 0 =>
        let c : AccReg := fld word 22 3
        let l : LReg := fld word 21 1
        let k : DReg := fld word 17 4
        let s : SReg := fld word 7 6
        let acc : Bool := fld word 0 1 == 1
        rsv (fld word 1 6 == 0 && fld word 13 2 == 0) <|
        .ok (.mma c l k s acc)
      | 2 =>
        let c : AccReg := fld word 22 3
        let l : LReg := fld word 21 1
        let k : DReg := fld word 17 4
        let j : BitVec 2 := fld word 13 2
        let s : SReg := fld word 7 6
        let n : BitVec 2 := fld word 1 2
        let acc : Bool := fld word 0 1 == 1
        rsv (fld word 3 4 == 0) <|
        .ok (.mmaAbsorb c l k j s n acc)
      | _ => .error .illegalOp : Except Reject Instr)) = _
  rw [f22_3, f21_1, f17_4, f15_2, f13_2, f7_6, f3_4, f1_2, f0_1, ofBool_beq_one]
  exact (rsvOk (by rfl)).trans rfl

theorem mzero (c : AccReg) : Statement (.mzero c) := by
  intro hwf lane word henc
  obtain ⟨rfl, he⟩ := Prod.mk.inj (Option.some.inj henc)
  have op : fld word 25 7 = 4#7 := he ▸ bitsHi (bitsHi bitsAll)
  have f22_3 : fld word 22 3 = c := he ▸ bitsHi bitsLo
  have f0_22 : fld word 0 22 = 0#22 := he ▸ bitsLo
  refine (matrixAt op).trans ?_
  change ((
      let c : AccReg := fld word 22 3
      rsv (fld word 0 22 == 0) <|
      .ok (.mzero c) : Except Reject Instr)) = _
  rw [f22_3, f0_22]
  exact (rsvOk (by rfl)).trans rfl

theorem mdrain (c : AccReg) (k : DReg) (s : SReg) (relu sat : Bool) (r : RM) : Statement (.mdrain c k s relu sat r) := by
  intro hwf lane word henc
  obtain ⟨rfl, he⟩ := Prod.mk.inj (Option.some.inj henc)
  have op : fld word 25 7 = 5#7 := he ▸ bitsHi (bitsHi (bitsHi (bitsHi (bitsHi (bitsHi (bitsHi (bitsHi (bitsHi bitsAll))))))))
  have f22_3 : fld word 22 3 = c := he ▸ bitsHi (bitsHi (bitsHi (bitsHi (bitsHi (bitsHi (bitsHi (bitsHi bitsLo)))))))
  have f21_1 : fld word 21 1 = 0#1 := he ▸ bitsHi (bitsHi (bitsHi (bitsHi (bitsHi (bitsHi (bitsHi bitsLo))))))
  have f17_4 : fld word 17 4 = k := he ▸ bitsHi (bitsHi (bitsHi (bitsHi (bitsHi (bitsHi bitsLo)))))
  have f13_4 : fld word 13 4 = 0#4 := he ▸ bitsHi (bitsHi (bitsHi (bitsHi (bitsHi bitsLo))))
  have f7_6 : fld word 7 6 = s := he ▸ bitsHi (bitsHi (bitsHi (bitsHi bitsLo)))
  have f5_2 : fld word 5 2 = 0#2 := he ▸ bitsHi (bitsHi (bitsHi bitsLo))
  have f4_1 : fld word 4 1 = BitVec.ofBool relu := he ▸ bitsHi (bitsHi bitsLo)
  have f3_1 : fld word 3 1 = BitVec.ofBool sat := he ▸ bitsHi bitsLo
  have f0_3 : fld word 0 3 = r.code := he ▸ bitsLo
  refine (matrixAt op).trans ?_
  change ((
      let c : AccReg := fld word 22 3
      let k : DReg := fld word 17 4
      let s : SReg := fld word 7 6
      let relu : Bool := fld word 4 1 == 1
      let sat : Bool := fld word 3 1 == 1
      withCode (RM.ofCode (fld word 0 3)) fun r =>
      rsv (fld word 5 2 == 0 && fld word 13 4 == 0 && fld word 21 1 == 0) <|
      .ok (.mdrain c k s relu sat r) : Except Reject Instr)) = _
  rw [f22_3, f21_1, f17_4, f13_4, f7_6, f5_2, f4_1, f3_1, f0_3, RM.ofCode_code, ofBool_beq_one, ofBool_beq_one]
  exact (rsvOk (by rfl)).trans rfl

theorem msync : Statement (.msync) := by
  intro hwf lane word henc
  obtain ⟨rfl, he⟩ := Prod.mk.inj (Option.some.inj henc)
  have op : fld word 25 7 = 6#7 := he ▸ bitsHi bitsAll
  have f0_25 : fld word 0 25 = 0#25 := he ▸ bitsLo
  refine (matrixAt op).trans ?_
  change ((
      rsv (fld word 0 25 == 0) <|
      .ok (.msync) : Except Reject Instr)) = _
  rw [f0_25]
  exact (rsvOk (by rfl)).trans rfl

theorem cpy (tk : SReg) (da db : DReg) : Statement (.cpy tk da db) := by
  intro hwf lane word henc
  obtain ⟨rfl, he⟩ := Prod.mk.inj (Option.some.inj henc)
  have op : fld word 25 7 = 1#7 := he ▸ bitsHi (bitsHi (bitsHi (bitsHi (bitsHi bitsAll))))
  have f19_6 : fld word 19 6 = tk := he ▸ bitsHi (bitsHi (bitsHi (bitsHi bitsLo)))
  have f15_4 : fld word 15 4 = da := he ▸ bitsHi (bitsHi (bitsHi bitsLo))
  have f11_4 : fld word 11 4 = db := he ▸ bitsHi (bitsHi bitsLo)
  have f1_10 : fld word 1 10 = 0#10 := he ▸ bitsHi bitsLo
  have f0_1 : fld word 0 1 = 0#1 := he ▸ bitsLo
  refine (engineAt op).trans ?_
  change ((
      match (fld word 0 1).toNat with
      | 0 =>
        let tk : SReg := fld word 19 6
        let da : DReg := fld word 15 4
        let db : DReg := fld word 11 4
        rsv (fld word 1 10 == 0) <|
        .ok (.cpy tk da db)
      | 1 =>
        let tk : SReg := fld word 19 6
        let da : DReg := fld word 15 4
        let db : DReg := fld word 11 4
        let s : SReg := fld word 5 6
        rsv (fld word 1 4 == 0) <|
        .ok (.cpyPeer tk da db s)
      | _ => .error .illegalOp : Except Reject Instr)) = _
  rw [f19_6, f15_4, f11_4, f1_10, f0_1]
  exact (rsvOk (by rfl)).trans rfl

theorem cpyPeer (tk : SReg) (da db : DReg) (s : SReg) : Statement (.cpyPeer tk da db s) := by
  intro hwf lane word henc
  obtain ⟨rfl, he⟩ := Prod.mk.inj (Option.some.inj henc)
  have op : fld word 25 7 = 1#7 := he ▸ bitsHi (bitsHi (bitsHi (bitsHi (bitsHi (bitsHi bitsAll)))))
  have f19_6 : fld word 19 6 = tk := he ▸ bitsHi (bitsHi (bitsHi (bitsHi (bitsHi bitsLo))))
  have f15_4 : fld word 15 4 = da := he ▸ bitsHi (bitsHi (bitsHi (bitsHi bitsLo)))
  have f11_4 : fld word 11 4 = db := he ▸ bitsHi (bitsHi (bitsHi bitsLo))
  have f5_6 : fld word 5 6 = s := he ▸ bitsHi (bitsHi bitsLo)
  have f1_4 : fld word 1 4 = 0#4 := he ▸ bitsHi bitsLo
  have f0_1 : fld word 0 1 = 1#1 := he ▸ bitsLo
  refine (engineAt op).trans ?_
  change ((
      match (fld word 0 1).toNat with
      | 0 =>
        let tk : SReg := fld word 19 6
        let da : DReg := fld word 15 4
        let db : DReg := fld word 11 4
        rsv (fld word 1 10 == 0) <|
        .ok (.cpy tk da db)
      | 1 =>
        let tk : SReg := fld word 19 6
        let da : DReg := fld word 15 4
        let db : DReg := fld word 11 4
        let s : SReg := fld word 5 6
        rsv (fld word 1 4 == 0) <|
        .ok (.cpyPeer tk da db s)
      | _ => .error .illegalOp : Except Reject Instr)) = _
  rw [f19_6, f15_4, f11_4, f5_6, f1_4, f0_1]
  exact (rsvOk (by rfl)).trans rfl

theorem cpym (tk : SReg) (da db : DReg) (s : SReg) : Statement (.cpym tk da db s) := by
  intro hwf lane word henc
  obtain ⟨rfl, he⟩ := Prod.mk.inj (Option.some.inj henc)
  have op : fld word 25 7 = 2#7 := he ▸ bitsHi (bitsHi (bitsHi (bitsHi (bitsHi bitsAll))))
  have f19_6 : fld word 19 6 = tk := he ▸ bitsHi (bitsHi (bitsHi (bitsHi bitsLo)))
  have f15_4 : fld word 15 4 = da := he ▸ bitsHi (bitsHi (bitsHi bitsLo))
  have f11_4 : fld word 11 4 = db := he ▸ bitsHi (bitsHi bitsLo)
  have f5_6 : fld word 5 6 = s := he ▸ bitsHi bitsLo
  have f0_5 : fld word 0 5 = 0#5 := he ▸ bitsLo
  refine (engineAt op).trans ?_
  change ((
      let tk : SReg := fld word 19 6
      let da : DReg := fld word 15 4
      let db : DReg := fld word 11 4
      let s : SReg := fld word 5 6
      rsv (fld word 0 5 == 0) <|
      .ok (.cpym tk da db s) : Except Reject Instr)) = _
  rw [f19_6, f15_4, f11_4, f5_6, f0_5]
  exact (rsvOk (by rfl)).trans rfl

theorem gath (tk : SReg) (da : DReg) (s : SReg) (dat flt : Bool) : Statement (.gath tk da s dat flt) := by
  intro hwf lane word henc
  obtain ⟨rfl, he⟩ := Prod.mk.inj (Option.some.inj henc)
  have op : fld word 25 7 = 3#7 := he ▸ bitsHi (bitsHi (bitsHi (bitsHi (bitsHi (bitsHi (bitsHi (bitsHi bitsAll)))))))
  have f19_6 : fld word 19 6 = tk := he ▸ bitsHi (bitsHi (bitsHi (bitsHi (bitsHi (bitsHi (bitsHi bitsLo))))))
  have f15_4 : fld word 15 4 = da := he ▸ bitsHi (bitsHi (bitsHi (bitsHi (bitsHi (bitsHi bitsLo)))))
  have f11_4 : fld word 11 4 = 0#4 := he ▸ bitsHi (bitsHi (bitsHi (bitsHi (bitsHi bitsLo))))
  have f5_6 : fld word 5 6 = s := he ▸ bitsHi (bitsHi (bitsHi (bitsHi bitsLo)))
  have f3_2 : fld word 3 2 = 0#2 := he ▸ bitsHi (bitsHi (bitsHi bitsLo))
  have f2_1 : fld word 2 1 = BitVec.ofBool dat := he ▸ bitsHi (bitsHi bitsLo)
  have f1_1 : fld word 1 1 = BitVec.ofBool flt := he ▸ bitsHi bitsLo
  have f0_1 : fld word 0 1 = 0#1 := he ▸ bitsLo
  have g0 : (!(s.getLsbD 0)) = true := hwf
  refine (engineAt op).trans ?_
  change ((
      match (fld word 0 1).toNat with
      | 0 =>
        let tk : SReg := fld word 19 6
        let da : DReg := fld word 15 4
        let s : SReg := fld word 5 6
        let dat : Bool := fld word 2 1 == 1
        let flt : Bool := fld word 1 1 == 1
        gate (!(s.getLsbD 0)) <|
        rsv (fld word 3 2 == 0 && fld word 11 4 == 0) <|
        .ok (.gath tk da s dat flt)
      | 1 =>
        let tk : SReg := fld word 19 6
        let da : DReg := fld word 15 4
        let db : DReg := fld word 11 4
        let s : SReg := fld word 5 6
        let dat : Bool := fld word 2 1 == 1
        let flt : Bool := fld word 1 1 == 1
        gate (!(s.getLsbD 0)) <|
        rsv (fld word 3 2 == 0) <|
        .ok (.gathList tk da db s dat flt)
      | _ => .error .illegalOp : Except Reject Instr)) = _
  rw [f19_6, f15_4, f11_4, f5_6, f3_2, f2_1, f1_1, f0_1, ofBool_beq_one, ofBool_beq_one]
  exact (gateOk g0).trans ((rsvOk (by rfl)).trans rfl)

theorem gathList (tk : SReg) (da db : DReg) (s : SReg) (dat flt : Bool) : Statement (.gathList tk da db s dat flt) := by
  intro hwf lane word henc
  obtain ⟨rfl, he⟩ := Prod.mk.inj (Option.some.inj henc)
  have op : fld word 25 7 = 3#7 := he ▸ bitsHi (bitsHi (bitsHi (bitsHi (bitsHi (bitsHi (bitsHi (bitsHi bitsAll)))))))
  have f19_6 : fld word 19 6 = tk := he ▸ bitsHi (bitsHi (bitsHi (bitsHi (bitsHi (bitsHi (bitsHi bitsLo))))))
  have f15_4 : fld word 15 4 = da := he ▸ bitsHi (bitsHi (bitsHi (bitsHi (bitsHi (bitsHi bitsLo)))))
  have f11_4 : fld word 11 4 = db := he ▸ bitsHi (bitsHi (bitsHi (bitsHi (bitsHi bitsLo))))
  have f5_6 : fld word 5 6 = s := he ▸ bitsHi (bitsHi (bitsHi (bitsHi bitsLo)))
  have f3_2 : fld word 3 2 = 0#2 := he ▸ bitsHi (bitsHi (bitsHi bitsLo))
  have f2_1 : fld word 2 1 = BitVec.ofBool dat := he ▸ bitsHi (bitsHi bitsLo)
  have f1_1 : fld word 1 1 = BitVec.ofBool flt := he ▸ bitsHi bitsLo
  have f0_1 : fld word 0 1 = 1#1 := he ▸ bitsLo
  have g0 : (!(s.getLsbD 0)) = true := hwf
  refine (engineAt op).trans ?_
  change ((
      match (fld word 0 1).toNat with
      | 0 =>
        let tk : SReg := fld word 19 6
        let da : DReg := fld word 15 4
        let s : SReg := fld word 5 6
        let dat : Bool := fld word 2 1 == 1
        let flt : Bool := fld word 1 1 == 1
        gate (!(s.getLsbD 0)) <|
        rsv (fld word 3 2 == 0 && fld word 11 4 == 0) <|
        .ok (.gath tk da s dat flt)
      | 1 =>
        let tk : SReg := fld word 19 6
        let da : DReg := fld word 15 4
        let db : DReg := fld word 11 4
        let s : SReg := fld word 5 6
        let dat : Bool := fld word 2 1 == 1
        let flt : Bool := fld word 1 1 == 1
        gate (!(s.getLsbD 0)) <|
        rsv (fld word 3 2 == 0) <|
        .ok (.gathList tk da db s dat flt)
      | _ => .error .illegalOp : Except Reject Instr)) = _
  rw [f19_6, f15_4, f11_4, f5_6, f3_2, f2_1, f1_1, f0_1, ofBool_beq_one, ofBool_beq_one]
  exact (gateOk g0).trans ((rsvOk (by rfl)).trans rfl)

theorem kvput (tk : SReg) (db : DReg) (s : SReg) : Statement (.kvput tk db s) := by
  intro hwf lane word henc
  obtain ⟨rfl, he⟩ := Prod.mk.inj (Option.some.inj henc)
  have op : fld word 25 7 = 4#7 := he ▸ bitsHi (bitsHi (bitsHi (bitsHi (bitsHi bitsAll))))
  have f19_6 : fld word 19 6 = tk := he ▸ bitsHi (bitsHi (bitsHi (bitsHi bitsLo)))
  have f15_4 : fld word 15 4 = 0#4 := he ▸ bitsHi (bitsHi (bitsHi bitsLo))
  have f11_4 : fld word 11 4 = db := he ▸ bitsHi (bitsHi bitsLo)
  have f5_6 : fld word 5 6 = s := he ▸ bitsHi bitsLo
  have f0_5 : fld word 0 5 = 0#5 := he ▸ bitsLo
  have g0 : (!(s.getLsbD 0)) = true := hwf
  refine (engineAt op).trans ?_
  change ((
      let tk : SReg := fld word 19 6
      let db : DReg := fld word 11 4
      let s : SReg := fld word 5 6
      gate (!(s.getLsbD 0)) <|
      rsv (fld word 0 5 == 0 && fld word 15 4 == 0) <|
      .ok (.kvput tk db s) : Except Reject Instr)) = _
  rw [f19_6, f15_4, f11_4, f5_6, f0_5]
  exact (gateOk g0).trans ((rsvOk (by rfl)).trans rfl)

theorem kvalloc (tk s : SReg) : Statement (.kvalloc tk s) := by
  intro hwf lane word henc
  obtain ⟨rfl, he⟩ := Prod.mk.inj (Option.some.inj henc)
  have op : fld word 25 7 = 5#7 := he ▸ bitsHi (bitsHi (bitsHi (bitsHi bitsAll)))
  have f19_6 : fld word 19 6 = tk := he ▸ bitsHi (bitsHi (bitsHi bitsLo))
  have f11_8 : fld word 11 8 = 0#8 := he ▸ bitsHi (bitsHi bitsLo)
  have f5_6 : fld word 5 6 = s := he ▸ bitsHi bitsLo
  have f0_5 : fld word 0 5 = 0#5 := he ▸ bitsLo
  refine (engineAt op).trans ?_
  change ((
      let tk : SReg := fld word 19 6
      let s : SReg := fld word 5 6
      rsv (fld word 0 5 == 0 && fld word 11 8 == 0) <|
      .ok (.kvalloc tk s) : Except Reject Instr)) = _
  rw [f19_6, f11_8, f5_6, f0_5]
  exact (rsvOk (by rfl)).trans rfl

theorem kvgrow (tk s : SReg) : Statement (.kvgrow tk s) := by
  intro hwf lane word henc
  obtain ⟨rfl, he⟩ := Prod.mk.inj (Option.some.inj henc)
  have op : fld word 25 7 = 6#7 := he ▸ bitsHi (bitsHi (bitsHi (bitsHi bitsAll)))
  have f19_6 : fld word 19 6 = tk := he ▸ bitsHi (bitsHi (bitsHi bitsLo))
  have f11_8 : fld word 11 8 = 0#8 := he ▸ bitsHi (bitsHi bitsLo)
  have f5_6 : fld word 5 6 = s := he ▸ bitsHi bitsLo
  have f0_5 : fld word 0 5 = 0#5 := he ▸ bitsLo
  refine (engineAt op).trans ?_
  change ((
      let tk : SReg := fld word 19 6
      let s : SReg := fld word 5 6
      rsv (fld word 0 5 == 0 && fld word 11 8 == 0) <|
      .ok (.kvgrow tk s) : Except Reject Instr)) = _
  rw [f19_6, f11_8, f5_6, f0_5]
  exact (rsvOk (by rfl)).trans rfl

theorem kvfree (tk s : SReg) : Statement (.kvfree tk s) := by
  intro hwf lane word henc
  obtain ⟨rfl, he⟩ := Prod.mk.inj (Option.some.inj henc)
  have op : fld word 25 7 = 7#7 := he ▸ bitsHi (bitsHi (bitsHi (bitsHi bitsAll)))
  have f19_6 : fld word 19 6 = tk := he ▸ bitsHi (bitsHi (bitsHi bitsLo))
  have f11_8 : fld word 11 8 = 0#8 := he ▸ bitsHi (bitsHi bitsLo)
  have f5_6 : fld word 5 6 = s := he ▸ bitsHi bitsLo
  have f0_5 : fld word 0 5 = 0#5 := he ▸ bitsLo
  refine (engineAt op).trans ?_
  change ((
      let tk : SReg := fld word 19 6
      let s : SReg := fld word 5 6
      rsv (fld word 0 5 == 0 && fld word 11 8 == 0) <|
      .ok (.kvfree tk s) : Except Reject Instr)) = _
  rw [f19_6, f11_8, f5_6, f0_5]
  exact (rsvOk (by rfl)).trans rfl

theorem coll (tk : SReg) (da db : DReg) (s : SReg) (o : CollOp) : Statement (.coll tk da db s o) := by
  intro hwf lane word henc
  obtain ⟨rfl, he⟩ := Prod.mk.inj (Option.some.inj henc)
  have op : fld word 25 7 = 8#7 := he ▸ bitsHi (bitsHi (bitsHi (bitsHi (bitsHi (bitsHi bitsAll)))))
  have f19_6 : fld word 19 6 = tk := he ▸ bitsHi (bitsHi (bitsHi (bitsHi (bitsHi bitsLo))))
  have f15_4 : fld word 15 4 = da := he ▸ bitsHi (bitsHi (bitsHi (bitsHi bitsLo)))
  have f11_4 : fld word 11 4 = db := he ▸ bitsHi (bitsHi (bitsHi bitsLo))
  have f5_6 : fld word 5 6 = s := he ▸ bitsHi (bitsHi bitsLo)
  have f3_2 : fld word 3 2 = 0#2 := he ▸ bitsHi bitsLo
  have f0_3 : fld word 0 3 = o.code := he ▸ bitsLo
  refine (engineAt op).trans ?_
  change ((
      let tk : SReg := fld word 19 6
      let da : DReg := fld word 15 4
      let db : DReg := fld word 11 4
      let s : SReg := fld word 5 6
      withCode (CollOp.ofCode (fld word 0 3)) fun o =>
      rsv (fld word 3 2 == 0) <|
      .ok (.coll tk da db s o) : Except Reject Instr)) = _
  rw [f19_6, f15_4, f11_4, f5_6, f3_2, f0_3, CollOp.ofCode_code]
  exact (rsvOk (by rfl)).trans rfl

theorem strm (tk : SReg) (da db : DReg) : Statement (.strm tk da db) := by
  intro hwf lane word henc
  obtain ⟨rfl, he⟩ := Prod.mk.inj (Option.some.inj henc)
  have op : fld word 25 7 = 9#7 := he ▸ bitsHi (bitsHi (bitsHi (bitsHi (bitsHi bitsAll))))
  have f19_6 : fld word 19 6 = tk := he ▸ bitsHi (bitsHi (bitsHi (bitsHi bitsLo)))
  have f15_4 : fld word 15 4 = da := he ▸ bitsHi (bitsHi (bitsHi bitsLo))
  have f11_4 : fld word 11 4 = db := he ▸ bitsHi (bitsHi bitsLo)
  have f1_10 : fld word 1 10 = 0#10 := he ▸ bitsHi bitsLo
  have f0_1 : fld word 0 1 = 0#1 := he ▸ bitsLo
  refine (engineAt op).trans ?_
  change ((
      match (fld word 0 1).toNat with
      | 0 =>
        let tk : SReg := fld word 19 6
        let da : DReg := fld word 15 4
        let db : DReg := fld word 11 4
        rsv (fld word 1 10 == 0) <|
        .ok (.strm tk da db)
      | 1 =>
        let tk : SReg := fld word 19 6
        let da : DReg := fld word 15 4
        let db : DReg := fld word 11 4
        rsv (fld word 1 10 == 0) <|
        .ok (.strmTag tk da db)
      | _ => .error .illegalOp : Except Reject Instr)) = _
  rw [f19_6, f15_4, f11_4, f1_10, f0_1]
  exact (rsvOk (by rfl)).trans rfl

theorem strmTag (tk : SReg) (da db : DReg) : Statement (.strmTag tk da db) := by
  intro hwf lane word henc
  obtain ⟨rfl, he⟩ := Prod.mk.inj (Option.some.inj henc)
  have op : fld word 25 7 = 9#7 := he ▸ bitsHi (bitsHi (bitsHi (bitsHi (bitsHi bitsAll))))
  have f19_6 : fld word 19 6 = tk := he ▸ bitsHi (bitsHi (bitsHi (bitsHi bitsLo)))
  have f15_4 : fld word 15 4 = da := he ▸ bitsHi (bitsHi (bitsHi bitsLo))
  have f11_4 : fld word 11 4 = db := he ▸ bitsHi (bitsHi bitsLo)
  have f1_10 : fld word 1 10 = 0#10 := he ▸ bitsHi bitsLo
  have f0_1 : fld word 0 1 = 1#1 := he ▸ bitsLo
  refine (engineAt op).trans ?_
  change ((
      match (fld word 0 1).toNat with
      | 0 =>
        let tk : SReg := fld word 19 6
        let da : DReg := fld word 15 4
        let db : DReg := fld word 11 4
        rsv (fld word 1 10 == 0) <|
        .ok (.strm tk da db)
      | 1 =>
        let tk : SReg := fld word 19 6
        let da : DReg := fld word 15 4
        let db : DReg := fld word 11 4
        rsv (fld word 1 10 == 0) <|
        .ok (.strmTag tk da db)
      | _ => .error .illegalOp : Except Reject Instr)) = _
  rw [f19_6, f15_4, f11_4, f1_10, f0_1]
  exact (rsvOk (by rfl)).trans rfl

theorem steepld (f : MFmt) (s : SReg) (ms : BitVec 4) : Statement (.steepld f s ms) := by
  intro hwf lane word henc
  obtain ⟨rfl, he⟩ := Prod.mk.inj (Option.some.inj henc)
  have op : fld word 25 7 = 10#7 := he ▸ bitsHi (bitsHi (bitsHi (bitsHi (bitsHi bitsAll))))
  have f15_10 : fld word 15 10 = 0#10 := he ▸ bitsHi (bitsHi (bitsHi (bitsHi bitsLo)))
  have f11_4 : fld word 11 4 = f.code := he ▸ bitsHi (bitsHi (bitsHi bitsLo))
  have f5_6 : fld word 5 6 = s := he ▸ bitsHi (bitsHi bitsLo)
  have f4_1 : fld word 4 1 = 0#1 := he ▸ bitsHi bitsLo
  have f0_4 : fld word 0 4 = ms := he ▸ bitsLo
  have g0 : (ms != 0) = true := hwf
  refine (engineAt op).trans ?_
  change ((
      let s : SReg := fld word 5 6
      let ms : BitVec 4 := fld word 0 4
      withCode (MFmt.ofCode (fld word 11 4)) fun f =>
      gate (ms != 0) <|
      rsv (fld word 4 1 == 0 && fld word 15 10 == 0) <|
      .ok (.steepld f s ms) : Except Reject Instr)) = _
  rw [f15_10, f11_4, f5_6, f4_1, f0_4, MFmt.ofCode_code]
  exact (gateOk g0).trans ((rsvOk (by rfl)).trans rfl)

theorem mupdBegin (tk s : SReg) : Statement (.mupdBegin tk s) := by
  intro hwf lane word henc
  obtain ⟨rfl, he⟩ := Prod.mk.inj (Option.some.inj henc)
  have op : fld word 25 7 = 11#7 := he ▸ bitsHi (bitsHi (bitsHi (bitsHi (bitsHi bitsAll))))
  have f19_6 : fld word 19 6 = tk := he ▸ bitsHi (bitsHi (bitsHi (bitsHi bitsLo)))
  have f11_8 : fld word 11 8 = 0#8 := he ▸ bitsHi (bitsHi (bitsHi bitsLo))
  have f5_6 : fld word 5 6 = s := he ▸ bitsHi (bitsHi bitsLo)
  have f2_3 : fld word 2 3 = 0#3 := he ▸ bitsHi bitsLo
  have f0_2 : fld word 0 2 = 0#2 := he ▸ bitsLo
  have g0 : (tk != 0) = true := hwf
  refine (engineAt op).trans ?_
  change ((
      match (fld word 0 2).toNat with
      | 0 =>
        let tk : SReg := fld word 19 6
        let s : SReg := fld word 5 6
        gate (tk != 0) <|
        rsv (fld word 2 3 == 0 && fld word 11 8 == 0) <|
        .ok (.mupdBegin tk s)
      | 1 =>
        let tk : SReg := fld word 19 6
        let db : DReg := fld word 11 4
        let s : SReg := fld word 5 6
        gate (tk != 0) <|
        rsv (fld word 2 3 == 0 && fld word 15 4 == 0) <|
        .ok (.mupdWrite tk db s)
      | 2 =>
        let tk : SReg := fld word 19 6
        let s : SReg := fld word 5 6
        gate (tk != 0) <|
        rsv (fld word 2 3 == 0 && fld word 11 8 == 0) <|
        .ok (.mupdCommit tk s)
      | 3 =>
        let tk : SReg := fld word 19 6
        let s : SReg := fld word 5 6
        gate (tk != 0) <|
        rsv (fld word 2 3 == 0 && fld word 11 8 == 0) <|
        .ok (.mupdAbort tk s)
      | _ => .error .illegalOp : Except Reject Instr)) = _
  rw [f19_6, f11_8, f5_6, f2_3, f0_2]
  exact (gateOk g0).trans ((rsvOk (by rfl)).trans rfl)

theorem mupdWrite (tk : SReg) (db : DReg) (s : SReg) : Statement (.mupdWrite tk db s) := by
  intro hwf lane word henc
  obtain ⟨rfl, he⟩ := Prod.mk.inj (Option.some.inj henc)
  have op : fld word 25 7 = 11#7 := he ▸ bitsHi (bitsHi (bitsHi (bitsHi (bitsHi (bitsHi bitsAll)))))
  have f19_6 : fld word 19 6 = tk := he ▸ bitsHi (bitsHi (bitsHi (bitsHi (bitsHi bitsLo))))
  have f15_4 : fld word 15 4 = 0#4 := he ▸ bitsHi (bitsHi (bitsHi (bitsHi bitsLo)))
  have f11_4 : fld word 11 4 = db := he ▸ bitsHi (bitsHi (bitsHi bitsLo))
  have f5_6 : fld word 5 6 = s := he ▸ bitsHi (bitsHi bitsLo)
  have f2_3 : fld word 2 3 = 0#3 := he ▸ bitsHi bitsLo
  have f0_2 : fld word 0 2 = 1#2 := he ▸ bitsLo
  have g0 : (tk != 0) = true := hwf
  refine (engineAt op).trans ?_
  change ((
      match (fld word 0 2).toNat with
      | 0 =>
        let tk : SReg := fld word 19 6
        let s : SReg := fld word 5 6
        gate (tk != 0) <|
        rsv (fld word 2 3 == 0 && fld word 11 8 == 0) <|
        .ok (.mupdBegin tk s)
      | 1 =>
        let tk : SReg := fld word 19 6
        let db : DReg := fld word 11 4
        let s : SReg := fld word 5 6
        gate (tk != 0) <|
        rsv (fld word 2 3 == 0 && fld word 15 4 == 0) <|
        .ok (.mupdWrite tk db s)
      | 2 =>
        let tk : SReg := fld word 19 6
        let s : SReg := fld word 5 6
        gate (tk != 0) <|
        rsv (fld word 2 3 == 0 && fld word 11 8 == 0) <|
        .ok (.mupdCommit tk s)
      | 3 =>
        let tk : SReg := fld word 19 6
        let s : SReg := fld word 5 6
        gate (tk != 0) <|
        rsv (fld word 2 3 == 0 && fld word 11 8 == 0) <|
        .ok (.mupdAbort tk s)
      | _ => .error .illegalOp : Except Reject Instr)) = _
  rw [f19_6, f15_4, f11_4, f5_6, f2_3, f0_2]
  exact (gateOk g0).trans ((rsvOk (by rfl)).trans rfl)

theorem mupdCommit (tk s : SReg) : Statement (.mupdCommit tk s) := by
  intro hwf lane word henc
  obtain ⟨rfl, he⟩ := Prod.mk.inj (Option.some.inj henc)
  have op : fld word 25 7 = 11#7 := he ▸ bitsHi (bitsHi (bitsHi (bitsHi (bitsHi bitsAll))))
  have f19_6 : fld word 19 6 = tk := he ▸ bitsHi (bitsHi (bitsHi (bitsHi bitsLo)))
  have f11_8 : fld word 11 8 = 0#8 := he ▸ bitsHi (bitsHi (bitsHi bitsLo))
  have f5_6 : fld word 5 6 = s := he ▸ bitsHi (bitsHi bitsLo)
  have f2_3 : fld word 2 3 = 0#3 := he ▸ bitsHi bitsLo
  have f0_2 : fld word 0 2 = 2#2 := he ▸ bitsLo
  have g0 : (tk != 0) = true := hwf
  refine (engineAt op).trans ?_
  change ((
      match (fld word 0 2).toNat with
      | 0 =>
        let tk : SReg := fld word 19 6
        let s : SReg := fld word 5 6
        gate (tk != 0) <|
        rsv (fld word 2 3 == 0 && fld word 11 8 == 0) <|
        .ok (.mupdBegin tk s)
      | 1 =>
        let tk : SReg := fld word 19 6
        let db : DReg := fld word 11 4
        let s : SReg := fld word 5 6
        gate (tk != 0) <|
        rsv (fld word 2 3 == 0 && fld word 15 4 == 0) <|
        .ok (.mupdWrite tk db s)
      | 2 =>
        let tk : SReg := fld word 19 6
        let s : SReg := fld word 5 6
        gate (tk != 0) <|
        rsv (fld word 2 3 == 0 && fld word 11 8 == 0) <|
        .ok (.mupdCommit tk s)
      | 3 =>
        let tk : SReg := fld word 19 6
        let s : SReg := fld word 5 6
        gate (tk != 0) <|
        rsv (fld word 2 3 == 0 && fld word 11 8 == 0) <|
        .ok (.mupdAbort tk s)
      | _ => .error .illegalOp : Except Reject Instr)) = _
  rw [f19_6, f11_8, f5_6, f2_3, f0_2]
  exact (gateOk g0).trans ((rsvOk (by rfl)).trans rfl)

theorem mupdAbort (tk s : SReg) : Statement (.mupdAbort tk s) := by
  intro hwf lane word henc
  obtain ⟨rfl, he⟩ := Prod.mk.inj (Option.some.inj henc)
  have op : fld word 25 7 = 11#7 := he ▸ bitsHi (bitsHi (bitsHi (bitsHi (bitsHi bitsAll))))
  have f19_6 : fld word 19 6 = tk := he ▸ bitsHi (bitsHi (bitsHi (bitsHi bitsLo)))
  have f11_8 : fld word 11 8 = 0#8 := he ▸ bitsHi (bitsHi (bitsHi bitsLo))
  have f5_6 : fld word 5 6 = s := he ▸ bitsHi (bitsHi bitsLo)
  have f2_3 : fld word 2 3 = 0#3 := he ▸ bitsHi bitsLo
  have f0_2 : fld word 0 2 = 3#2 := he ▸ bitsLo
  have g0 : (tk != 0) = true := hwf
  refine (engineAt op).trans ?_
  change ((
      match (fld word 0 2).toNat with
      | 0 =>
        let tk : SReg := fld word 19 6
        let s : SReg := fld word 5 6
        gate (tk != 0) <|
        rsv (fld word 2 3 == 0 && fld word 11 8 == 0) <|
        .ok (.mupdBegin tk s)
      | 1 =>
        let tk : SReg := fld word 19 6
        let db : DReg := fld word 11 4
        let s : SReg := fld word 5 6
        gate (tk != 0) <|
        rsv (fld word 2 3 == 0 && fld word 15 4 == 0) <|
        .ok (.mupdWrite tk db s)
      | 2 =>
        let tk : SReg := fld word 19 6
        let s : SReg := fld word 5 6
        gate (tk != 0) <|
        rsv (fld word 2 3 == 0 && fld word 11 8 == 0) <|
        .ok (.mupdCommit tk s)
      | 3 =>
        let tk : SReg := fld word 19 6
        let s : SReg := fld word 5 6
        gate (tk != 0) <|
        rsv (fld word 2 3 == 0 && fld word 11 8 == 0) <|
        .ok (.mupdAbort tk s)
      | _ => .error .illegalOp : Except Reject Instr)) = _
  rw [f19_6, f11_8, f5_6, f2_3, f0_2]
  exact (gateOk g0).trans ((rsvOk (by rfl)).trans rfl)

theorem engqStat (d s : SReg) (q : QueueId) : Statement (.engqStat d s q) := by
  intro hwf lane word henc
  obtain ⟨rfl, he⟩ := Prod.mk.inj (Option.some.inj henc)
  have op : fld word 25 7 = 12#7 := he ▸ bitsHi (bitsHi (bitsHi (bitsHi (bitsHi bitsAll))))
  have f19_6 : fld word 19 6 = d := he ▸ bitsHi (bitsHi (bitsHi (bitsHi bitsLo)))
  have f11_8 : fld word 11 8 = 0#8 := he ▸ bitsHi (bitsHi (bitsHi bitsLo))
  have f5_6 : fld word 5 6 = s := he ▸ bitsHi (bitsHi bitsLo)
  have f2_3 : fld word 2 3 = 0#3 := he ▸ bitsHi bitsLo
  have f0_2 : fld word 0 2 = q.code := he ▸ bitsLo
  refine (engineAt op).trans ?_
  change ((
      match (fld word 2 3).toNat with
      | 0 =>
        let d : SReg := fld word 19 6
        let s : SReg := fld word 5 6
        withCode (QueueId.ofCode (fld word 0 2)) fun q =>
        rsv (fld word 11 8 == 0) <|
        .ok (.engqStat d s q)
      | 1 =>
        let d : SReg := fld word 19 6
        let s : SReg := fld word 5 6
        withCode (QueueId.ofCode (fld word 0 2)) fun q =>
        rsv (fld word 11 8 == 0) <|
        .ok (.engqVmask d s q)
      | 2 =>
        let d : SReg := fld word 19 6
        withCode (QueueId.ofCode (fld word 0 2)) fun q =>
        rsv (fld word 5 14 == 0) <|
        .ok (.engqDepth d q)
      | 3 =>
        let d : SReg := fld word 19 6
        withCode (QueueId.ofCode (fld word 0 2)) fun q =>
        rsv (fld word 5 14 == 0) <|
        .ok (.engqLast d q)
      | _ => .error .illegalOp : Except Reject Instr)) = _
  rw [f19_6, f11_8, f5_6, f2_3, f0_2, QueueId.ofCode_code]
  exact (rsvOk (by rfl)).trans rfl

theorem engqVmask (d s : SReg) (q : QueueId) : Statement (.engqVmask d s q) := by
  intro hwf lane word henc
  obtain ⟨rfl, he⟩ := Prod.mk.inj (Option.some.inj henc)
  have op : fld word 25 7 = 12#7 := he ▸ bitsHi (bitsHi (bitsHi (bitsHi (bitsHi bitsAll))))
  have f19_6 : fld word 19 6 = d := he ▸ bitsHi (bitsHi (bitsHi (bitsHi bitsLo)))
  have f11_8 : fld word 11 8 = 0#8 := he ▸ bitsHi (bitsHi (bitsHi bitsLo))
  have f5_6 : fld word 5 6 = s := he ▸ bitsHi (bitsHi bitsLo)
  have f2_3 : fld word 2 3 = 1#3 := he ▸ bitsHi bitsLo
  have f0_2 : fld word 0 2 = q.code := he ▸ bitsLo
  refine (engineAt op).trans ?_
  change ((
      match (fld word 2 3).toNat with
      | 0 =>
        let d : SReg := fld word 19 6
        let s : SReg := fld word 5 6
        withCode (QueueId.ofCode (fld word 0 2)) fun q =>
        rsv (fld word 11 8 == 0) <|
        .ok (.engqStat d s q)
      | 1 =>
        let d : SReg := fld word 19 6
        let s : SReg := fld word 5 6
        withCode (QueueId.ofCode (fld word 0 2)) fun q =>
        rsv (fld word 11 8 == 0) <|
        .ok (.engqVmask d s q)
      | 2 =>
        let d : SReg := fld word 19 6
        withCode (QueueId.ofCode (fld word 0 2)) fun q =>
        rsv (fld word 5 14 == 0) <|
        .ok (.engqDepth d q)
      | 3 =>
        let d : SReg := fld word 19 6
        withCode (QueueId.ofCode (fld word 0 2)) fun q =>
        rsv (fld word 5 14 == 0) <|
        .ok (.engqLast d q)
      | _ => .error .illegalOp : Except Reject Instr)) = _
  rw [f19_6, f11_8, f5_6, f2_3, f0_2, QueueId.ofCode_code]
  exact (rsvOk (by rfl)).trans rfl

theorem engqDepth (d : SReg) (q : QueueId) : Statement (.engqDepth d q) := by
  intro hwf lane word henc
  obtain ⟨rfl, he⟩ := Prod.mk.inj (Option.some.inj henc)
  have op : fld word 25 7 = 12#7 := he ▸ bitsHi (bitsHi (bitsHi (bitsHi bitsAll)))
  have f19_6 : fld word 19 6 = d := he ▸ bitsHi (bitsHi (bitsHi bitsLo))
  have f5_14 : fld word 5 14 = 0#14 := he ▸ bitsHi (bitsHi bitsLo)
  have f2_3 : fld word 2 3 = 2#3 := he ▸ bitsHi bitsLo
  have f0_2 : fld word 0 2 = q.code := he ▸ bitsLo
  refine (engineAt op).trans ?_
  change ((
      match (fld word 2 3).toNat with
      | 0 =>
        let d : SReg := fld word 19 6
        let s : SReg := fld word 5 6
        withCode (QueueId.ofCode (fld word 0 2)) fun q =>
        rsv (fld word 11 8 == 0) <|
        .ok (.engqStat d s q)
      | 1 =>
        let d : SReg := fld word 19 6
        let s : SReg := fld word 5 6
        withCode (QueueId.ofCode (fld word 0 2)) fun q =>
        rsv (fld word 11 8 == 0) <|
        .ok (.engqVmask d s q)
      | 2 =>
        let d : SReg := fld word 19 6
        withCode (QueueId.ofCode (fld word 0 2)) fun q =>
        rsv (fld word 5 14 == 0) <|
        .ok (.engqDepth d q)
      | 3 =>
        let d : SReg := fld word 19 6
        withCode (QueueId.ofCode (fld word 0 2)) fun q =>
        rsv (fld word 5 14 == 0) <|
        .ok (.engqLast d q)
      | _ => .error .illegalOp : Except Reject Instr)) = _
  rw [f19_6, f5_14, f2_3, f0_2, QueueId.ofCode_code]
  exact (rsvOk (by rfl)).trans rfl

theorem engqLast (d : SReg) (q : QueueId) : Statement (.engqLast d q) := by
  intro hwf lane word henc
  obtain ⟨rfl, he⟩ := Prod.mk.inj (Option.some.inj henc)
  have op : fld word 25 7 = 12#7 := he ▸ bitsHi (bitsHi (bitsHi (bitsHi bitsAll)))
  have f19_6 : fld word 19 6 = d := he ▸ bitsHi (bitsHi (bitsHi bitsLo))
  have f5_14 : fld word 5 14 = 0#14 := he ▸ bitsHi (bitsHi bitsLo)
  have f2_3 : fld word 2 3 = 3#3 := he ▸ bitsHi bitsLo
  have f0_2 : fld word 0 2 = q.code := he ▸ bitsLo
  refine (engineAt op).trans ?_
  change ((
      match (fld word 2 3).toNat with
      | 0 =>
        let d : SReg := fld word 19 6
        let s : SReg := fld word 5 6
        withCode (QueueId.ofCode (fld word 0 2)) fun q =>
        rsv (fld word 11 8 == 0) <|
        .ok (.engqStat d s q)
      | 1 =>
        let d : SReg := fld word 19 6
        let s : SReg := fld word 5 6
        withCode (QueueId.ofCode (fld word 0 2)) fun q =>
        rsv (fld word 11 8 == 0) <|
        .ok (.engqVmask d s q)
      | 2 =>
        let d : SReg := fld word 19 6
        withCode (QueueId.ofCode (fld word 0 2)) fun q =>
        rsv (fld word 5 14 == 0) <|
        .ok (.engqDepth d q)
      | 3 =>
        let d : SReg := fld word 19 6
        withCode (QueueId.ofCode (fld word 0 2)) fun q =>
        rsv (fld word 5 14 == 0) <|
        .ok (.engqLast d q)
      | _ => .error .illegalOp : Except Reject Instr)) = _
  rw [f19_6, f5_14, f2_3, f0_2, QueueId.ofCode_code]
  exact (rsvOk (by rfl)).trans rfl

theorem resultWriteback (t : TileIx) : Statement (.resultWriteback t) := fun _ _ _ e => noWord e

theorem asyncCauseTaken (t : TileIx) : Statement (.asyncCauseTaken t) := fun _ _ _ e => noWord e

theorem feTagOperation (t : TileIx) : Statement (.feTagOperation t) := fun _ _ _ e => noWord e

theorem feTimeout (t : TileIx) : Statement (.feTimeout t) := fun _ _ _ e => noWord e

theorem pipeWaitComplete (t : TileIx) : Statement (.pipeWaitComplete t) := fun _ _ _ e => noWord e

theorem pipeTimeout (t : TileIx) : Statement (.pipeTimeout t) := fun _ _ _ e => noWord e

theorem barrierEpisodeComplete (cl : ClusterIx) (g : GangNo) : Statement (.barrierEpisodeComplete cl g) := fun _ _ _ e => noWord e

theorem gangYieldRendezvous (cl : ClusterIx) (g : GangNo) : Statement (.gangYieldRendezvous cl g) := fun _ _ _ e => noWord e

theorem holdOverrun (t : TileIx) : Statement (.holdOverrun t) := fun _ _ _ e => noWord e

theorem engineCommandStart (t : TileIx) (q : QueueId) : Statement (.engineCommandStart t q) := fun _ _ _ e => noWord e

theorem engineCommandComplete (t : TileIx) (q : QueueId) : Statement (.engineCommandComplete t q) := fun _ _ _ e => noWord e

theorem kvMapCommand (t : TileIx) (q : QueueId) : Statement (.kvMapCommand t q) := fun _ _ _ e => noWord e

theorem kvgrowChunkMove (t : TileIx) : Statement (.kvgrowChunkMove t) := fun _ _ _ e => noWord e

theorem strmTagTimeout (t : TileIx) : Statement (.strmTagTimeout t) := fun _ _ _ e => noWord e

theorem collectiveAllArrived (t : TileIx) : Statement (.collectiveAllArrived t) := fun _ _ _ e => noWord e

theorem collectiveTimeout (t : TileIx) : Statement (.collectiveTimeout t) := fun _ _ _ e => noWord e

theorem mmaRowCommit (t : TileIx) : Statement (.mmaRowCommit t) := fun _ _ _ e => noWord e

theorem mldwLatchLoaded (t : TileIx) (l : LReg) : Statement (.mldwLatchLoaded t l) := fun _ _ _ e => noWord e

theorem mdrainComplete (t : TileIx) : Statement (.mdrainComplete t) := fun _ _ _ e => noWord e

theorem steepldSlotLoaded (t : TileIx) : Statement (.steepldSlotLoaded t) := fun _ _ _ e => noWord e

theorem bandIdleGate (t : TileIx) (b : BitVec 2) : Statement (.bandIdleGate t b) := fun _ _ _ e => noWord e

theorem bandWakeComplete (t : TileIx) (b : BitVec 2) : Statement (.bandWakeComplete t b) := fun _ _ _ e => noWord e

theorem parknextRead (die : DieIx) : Statement (.parknextRead die) := fun _ _ _ e => noWord e

theorem parkansRetry (die : DieIx) (id : BitVec 12) : Statement (.parkansRetry die id) := fun _ _ _ e => noWord e

theorem parkansFail (die : DieIx) (id : BitVec 12) : Statement (.parkansFail die id) := fun _ _ _ e => noWord e

theorem parkTimeout (die : DieIx) (id : BitVec 12) : Statement (.parkTimeout die id) := fun _ _ _ e => noWord e

theorem spawnJoinCheck (n : Nat) : Statement (.spawnJoinCheck n) := fun _ _ _ e => noWord e

theorem spawnCheckReturn (n : Nat) : Statement (.spawnCheckReturn n) := fun _ _ _ e => noWord e

theorem spawnRecordEnqueue (n : Nat) : Statement (.spawnRecordEnqueue n) := fun _ _ _ e => noWord e

theorem joinEndArrival (n : Nat) : Statement (.joinEndArrival n) := fun _ _ _ e => noWord e

theorem graceExpiry (h : Handle) : Statement (.graceExpiry h) := fun _ _ _ e => noWord e

theorem killNotice (n : Nat) : Statement (.killNotice n) := fun _ _ _ e => noWord e

theorem killTaken (t : TileIx) : Statement (.killTaken t) := fun _ _ _ e => noWord e

theorem agingStep (cl : ClusterIx) (n : Nat) : Statement (.agingStep cl n) := fun _ _ _ e => noWord e

theorem steal (t : TileIx) : Statement (.steal t) := fun _ _ _ e => noWord e

theorem gangReservation (cl : ClusterIx) : Statement (.gangReservation cl) := fun _ _ _ e => noWord e

theorem quantumExpiry (t : TileIx) : Statement (.quantumExpiry t) := fun _ _ _ e => noWord e

theorem deepPreemption (t : TileIx) : Statement (.deepPreemption t) := fun _ _ _ e => noWord e

theorem quotaStopTimeout (x : CtxNo) : Statement (.quotaStopTimeout x) := fun _ _ _ e => noWord e

theorem quotaCharge (x : CtxNo) (uj : Nat) : Statement (.quotaCharge x uj) := fun _ _ _ e => noWord e

theorem quotaRefill (x : CtxNo) : Statement (.quotaRefill x) := fun _ _ _ e => noWord e

theorem boostEdge (die : DieIx) : Statement (.boostEdge die) := fun _ _ _ e => noWord e

theorem frequencyRequest (cl : ClusterIx) (p : OpPoint) : Statement (.frequencyRequest cl p) := fun _ _ _ e => noWord e

theorem railStep (rail : RailId) : Statement (.railStep rail) := fun _ _ _ e => noWord e

theorem thermalCapStep (cl : ClusterIx) (up : Bool) : Statement (.thermalCapStep cl up) := fun _ _ _ e => noWord e

theorem overCurrent (die : DieIx) : Statement (.overCurrent die) := fun _ _ _ e => noWord e

theorem idleTargetReached (t : TileIx) : Statement (.idleTargetReached t) := fun _ _ _ e => noWord e

theorem tileWakeComplete (t : TileIx) : Statement (.tileWakeComplete t) := fun _ _ _ e => noWord e

theorem notify (x : CtxNo) (n : BitVec 16) : Statement (.notify x n) := fun _ _ _ e => noWord e

theorem launchRecordFetch (x : CtxNo) : Statement (.launchRecordFetch x) := fun _ _ _ e => noWord e

theorem stampRefetch (x : CtxNo) : Statement (.stampRefetch x) := fun _ _ _ e => noWord e

theorem cqhead (x : CtxNo) (n : BitVec 16) : Statement (.cqhead x n) := fun _ _ _ e => noWord e

theorem contextActivate (x : CtxNo) : Statement (.contextActivate x) := fun _ _ _ e => noWord e

theorem contextEnd (x : CtxNo) : Statement (.contextEnd x) := fun _ _ _ e => noWord e

theorem contextEndComplete (x : CtxNo) : Statement (.contextEndComplete x) := fun _ _ _ e => noWord e

theorem segmentOwnerWrite (t : TileIx) (g : BitVec 5) (o : BitVec 8) : Statement (.segmentOwnerWrite t g o) := fun _ _ _ e => noWord e

theorem segmentZeroComplete (t : TileIx) (g : BitVec 5) : Statement (.segmentZeroComplete t g) := fun _ _ _ e => noWord e

theorem caddyRegionWrite (t : TileIx) (i : BitVec 4) (hi : Bool) (w : BitVec 64) : Statement (.caddyRegionWrite t i hi w) := fun _ _ _ e => noWord e

theorem controlRegionWrite (off : BitVec 21) (w : BitVec 64) : Statement (.controlRegionWrite off w) := fun _ _ _ e => noWord e

theorem hostApertureAccess (off : BitVec 36) (w : Option (BitVec 64)) : Statement (.hostApertureAccess off w) := fun _ _ _ e => noWord e

theorem peerWriteInbound (x : CtxNo) (va w : BitVec 64) : Statement (.peerWriteInbound x va w) := fun _ _ _ e => noWord e

theorem attestationGo : Statement (.attestationGo) := fun _ _ _ e => noWord e

theorem pwrcmdWarmOff : Statement (.pwrcmdWarmOff) := fun _ _ _ e => noWord e

theorem pwrcmdColdOff : Statement (.pwrcmdColdOff) := fun _ _ _ e => noWord e

theorem powerFailWarning : Statement (.powerFailWarning) := fun _ _ _ e => noWord e

theorem peatSave (t : TileIx) : Statement (.peatSave t) := fun _ _ _ e => noWord e

theorem modulePowerDown (retained : Bool) : Statement (.modulePowerDown retained) := fun _ _ _ e => noWord e

theorem powerRestore : Statement (.powerRestore) := fun _ _ _ e => noWord e

theorem channelTrained (ch : BitVec 5) : Statement (.channelTrained ch) := fun _ _ _ e => noWord e

theorem clusterReady (cl : ClusterIx) : Statement (.clusterReady cl) := fun _ _ _ e => noWord e

theorem cdwrReady (die : DieIx) : Statement (.cdwrReady die) := fun _ _ _ e => noWord e

theorem tileResume (t : TileIx) : Statement (.tileResume t) := fun _ _ _ e => noWord e

theorem mupdComplete (t : TileIx) : Statement (.mupdComplete t) := fun _ _ _ e => noWord e

theorem retrainWindowStart (ch : BitVec 5) : Statement (.retrainWindowStart ch) := fun _ _ _ e => noWord e

theorem retrainWindowEnd (ch : BitVec 5) (temp : BitVec 16) : Statement (.retrainWindowEnd ch temp) := fun _ _ _ e => noWord e

theorem ageingReplan (dom : BitVec 6) (ps : BitVec 16) (low : Bool) : Statement (.ageingReplan dom ps low) := fun _ _ _ e => noWord e

theorem timingStretch (cl : ClusterIx) : Statement (.timingStretch cl) := fun _ _ _ e => noWord e

theorem marginVoltageRaise (cl : ClusterIx) : Statement (.marginVoltageRaise cl) := fun _ _ _ e => noWord e

theorem caddyPatrol (t : TileIx) (line : BitVec 19) (lost : Bool) : Statement (.caddyPatrol t line lost) := fun _ _ _ e => noWord e

theorem writeReachesHome (t : TileIx) (n : Nat) : Statement (.writeReachesHome t n) := fun _ _ _ e => noWord e

theorem yaltanLinkFailure (l : BitVec 3) : Statement (.yaltanLinkFailure l) := fun _ _ _ e => noWord e

theorem yaltanLinkReady (l : BitVec 3) : Statement (.yaltanLinkReady l) := fun _ _ _ e => noWord e

end Sys2Proof.Laws.Roundtrip
end

