-- ==== Sys2Proof/Tests/Slice0.lean ====
section
/-! SUPPORT. Tests of the model: words of the spec's encodings, a term that each check of well-formedness refuses, single
steps whose results the spec's tables and examples give, and a state and operands that meet the hypotheses of each
statement. -/

open Sys2Proof Sys2Proof.Machine

namespace Sys2Proof.Tests

set_option Elab.async false

/-- The word decodes, in the slot, to the instruction. -/
def decodesAs (sl : Slot) (p : BitVec 32 × Instr) : Bool := (decodeSlot sl p.1).toOption == some p.2

/-! ### Words of the opcode table

Each word is a row's own `match` of spec/opcode_table.json with the operands put into the fields the row gives, by hand
or by a script that reads the table alone: it decodes to the row's instruction with those operands. -/

theorem test_words_scalar_1 :
    [(0x025A4C80, .add 11 18 25),
     (0x045A49AD, .addi 11 18 2477),
     (0x065A4C80, .sub 11 18 25),
     (0x085A4C80, .and 11 18 25),
     (0x0A5A49AD, .andi 11 18 2477),
     (0x0C5A4C80, .or 11 18 25),
     (0x0E5A49AD, .ori 11 18 2477),
     (0x105A4C80, .xor 11 18 25),
     (0x125A49AD, .xori 11 18 2477),
     (0x145A4C80, .shl 11 18 25),
     (0x165A402D, .shli 11 18 45),
     (0x185A4C80, .shr 11 18 25),
     (0x1A5A402D, .shri 11 18 45),
     (0x1C5A4C80, .sra 11 18 25),
     (0x1E5A402D, .srai 11 18 45),
     (0x205A4C80, .min 11 18 25),
     (0x225A4C80, .max 11 18 25),
     (0x245A4C80, .minn 11 18 25),
     (0x265A4C80, .maxn 11 18 25),
     (0x285A4C85, .addx 11 18 25 5),
     (0x2A5AD35A, .movi 11 185178),
     (0x2C58D35A, .movhi 11 54106),
     (0x2E5A42A6, .bfx 11 18 5 19),
     (0x305A5626, .bfxs 11 18 44 19),
     (0x325A40FC, .bfi 11 18 1 62)].all
      (decodesAs .s1) = true := by decide

theorem test_words_scalar_2 :
    [(0x345A4000, .clz 11 18),
     (0x365A4000, .ctz 11 18),
     (0x385A4000, .popc 11 18),
     (0x3B5D9800, .cmp 5 .gt 25 32),
     (0x3D5D96B5, .cmpi 5 .gt 25 1717),
     (0x3E5A4C8D, .sel 11 18 25 true 5),
     (0x41535000, .plog 5 2 3 5),
     (0x42580000, .movp 11),
     (0x42016001, .movpSet 11),
     (0x445A4C80, .mul 11 18 25),
     (0x465A4C80, .mulh 11 18 25),
     (0x485A4C80, .mulhn 11 18 25),
     (0x4A5A4C80, .div 11 18 25),
     (0x4C5A4C80, .divn 11 18 25),
     (0x4E5A4C80, .rem 11 18 25),
     (0x505A4C80, .remn 11 18 25),
     (0x525A4CE3, .sfadd 11 18 25 .bf16 .rup),
     (0x545A4CE3, .sfsub 11 18 25 .bf16 .rup),
     (0x565A4CE3, .sfmul 11 18 25 .bf16 .rup),
     (0x585A4CE3, .sfma 11 18 25 .bf16 .rup),
     (0x5A5A4CE0, .sfmin 11 18 25 .bf16),
     (0x5C5A4CE0, .sfmax 11 18 25 .bf16),
     (0x5F759830, .sfcmp 5 .fle 25 32 .bf16),
     (0x605A566B, .sfcvt 11 18 .f16 .f32 .rup)].all
      (decodesAs .s1) = true := by decide

theorem test_words_control_1 :
    [(0x036569AD, .br 5 true 354733),
     (0x056569AD, .brp 5 true 354733),
     (0x0601600B, .jr 11 true 3),
     (0x096569AD, .call 5 true 354733),
     (0x0A01600B, .callr 11 true 3),
     (0x0C01600B, .ret 11 true 3),
     (0x0F4969AD, .loop true 18 92589),
     (0x1135A9AD, .loopi true 858 2477),
     (0x1205A6B5, .brk 370357),
     (0x14587000, .movc 11 56),
     (0x16585000, .movcw 11 40),
     (0x18020000, .spawn 16),
     (0x1A016900, .spawng 11 18),
     (0x1C5B0000, .jinit 11 24),
     (0x1E016900, .qinit 11 18),
     (0x20016000, .jwait 11),
     (0x20016001, .jwaitHere 11),
     (0x22000000, .yield),
     (0x24000000, .endTask),
     (0x26000000, .hold),
     (0x28000000, .unhold),
     (0x2A016003, .waitt 11 .strm),
     (0x2C000000, .barg),
     (0x2E05A6B5, .sysc 370357),
     (0x3005A6B5, .trap 370357)].all
      (decodesAs .c) = true := by decide

theorem test_words_control_2 :
    [(0x32016900, .rett 11 18),
     (0x32016901, .rettSkip 11 18),
     (0x34000000, .sleepCg),
     (0x34000001, .sleepRetain),
     (0x34000002, .sleepOff),
     (0x36016000, .wake 11),
     (0x38580000, .ckpt 11),
     (0x3A580000, .savex 11),
     (0x3C016000, .restx 11),
     (0x3C016001, .restxKeep 11),
     (0x3C016002, .restxDrop 11),
     (0x3E016902, .tlbinvPage 11 18 .die),
     (0x3E00058A, .tlbinvAsid 11 .die),
     (0x3E000012, .tlbinvAll .die),
     (0x40000002, .icinv .die),
     (0x42000000, .abort)].all
      (decodesAs .c) = true := by decide

theorem test_words_memory_1 :
    [(0x0324CDAD, .ld .cd 18 25 .w true 173),
     (0x04A4CC5A, .st .g 18 25 .w 90),
     (0x0724CC15, .ldx .cd 18 25 32 .w true true),
     (0x08A4CC11, .stx .g 18 25 32 .w true),
     (0x0B18CEB5, .vld .cd 12 25 1717),
     (0x0C98CEB5, .vst .g 12 25 1717),
     (0x0E98CC11, .vlds .g 12 25 32 .w 1),
     (0x1098CC11, .vsts .g 12 25 32 .w 1),
     (0x1298CB95, .vldx .g 12 25 28 .w true 1),
     (0x1498CB95, .vstx .g 12 25 28 .w true 1),
     (0x1608CC82, .vldd 4 6 25 2),
     (0x1808CC82, .vstd 4 6 25 2),
     (0x1A24CC5A, .ldfe .sp 18 25 .w 90),
     (0x1A18CF5A, .ldfeV .sp 12 25 .d 90),
     (0x1C24CC5A, .ldfec .sp 18 25 .w 90),
     (0x1C18CF5A, .ldfecV .sp 12 25 .d 90),
     (0x1E24CC5A, .stfe .sp 18 25 .w 90),
     (0x1E18CF5A, .stfeV .sp 12 25 .d 90),
     (0x20009320, .feset .sp 18 25),
     (0x22009320, .feclr .sp 18 25),
     (0x24A4C9AB, .amo .g 18 25 .xor .die .w .acqrel),
     (0x26A4CB2B, .amof .g 18 25 (.max true false) .die .w .acqrel),
     (0x28A4C82B, .cas .g 18 25 .die .w .acqrel),
     (0x2A98CAAB, .vamo .g 12 25 (.int .min) .die .w .acqrel),
     (0x2C000023, .fence .die .acqrel)].all
      (decodesAs .m) = true := by decide

theorem test_words_memory_2 :
    [(0x2EA4CC5A, .stp .g 18 25 .w 90),
     (0x3098CEB5, .vstp .g 12 25 1717),
     (0x3208093F, .contrib 4 18 63),
     (0x3408000A, .pipep 4 10),
     (0x3608000A, .pipeg 4 10),
     (0x3882CEB5, .pref .g true 25 1717),
     (0x3A0800D5, .vpark 4 26 5),
     (0x3C08056D, .vunpark 4 true 45 5),
     (0x3E16C00B, .dset 11 6 11),
     (0x3E25A040, .dsetImg .sp 18 13),
     (0x4016C009, .dget 11 6 9),
     (0x40A5A040, .dgetImg .g 18 13)].all
      (decodesAs .m) = true := by decide

theorem test_words_vector_1 :
    [(0x02465125, .vadd 4 12 20 .i16 4 .g2 true),
     (0x04465125, .vsub 4 12 20 .i16 4 .g2 true),
     (0x06465125, .vadds 4 12 20 .i16 4 .g2 true),
     (0x08465125, .vsubs 4 12 20 .i16 4 .g2 true),
     (0x0A465125, .vmul 4 12 20 .i16 4 .g2 true),
     (0x0C465125, .vmulh 4 12 20 .i16 4 .g2 true),
     (0x0E465124, .vmulw 4 12 20 .i16 4 true),
     (0x10465125, .vmac 4 12 20 .i16 4 .g2 true),
     (0x12465124, .vmacw 4 12 20 .i16 4 true),
     (0x14465125, .vabsd 4 12 20 .i16 4 .g2 true),
     (0x16465125, .vavg 4 12 20 .i16 4 .g2 true),
     (0x18465125, .vmin 4 12 20 .i16 4 .g2 true),
     (0x1A465125, .vmax 4 12 20 .i16 4 .g2 true),
     (0x1C465125, .vand 4 12 20 .i16 4 .g2 true),
     (0x1E465125, .vor 4 12 20 .i16 4 .g2 true),
     (0x20465125, .vxor 4 12 20 .i16 4 .g2 true),
     (0x22465125, .vandn 4 12 20 .i16 4 .g2 true),
     (0x24465125, .vshl 4 12 20 .i16 4 .g2 true),
     (0x26465125, .vshr 4 12 20 .i16 4 .g2 true),
     (0x28465125, .vsra 4 12 20 .i16 4 .g2 true),
     (0x2A460111, .vclz 4 12 .i16 2 .g2),
     (0x2C460111, .vpopc 4 12 .i16 2 .g2),
     (0x2E5A710F, .vcmp .gt 5 20 28 .i16 1),
     (0x30465125, .vsel 4 12 20 .i16 4 .g2 true),
     (0x32465323, .vfadd 4 12 20 .bf16 4 .rup)].all
      (decodesAs .v1) = true := by decide

theorem test_words_vector_2 :
    [(0x34465323, .vfsub 4 12 20 .bf16 4 .rup),
     (0x36465323, .vfmul 4 12 20 .bf16 4 .rup),
     (0x38465323, .vfma 4 12 20 .bf16 4 .rup),
     (0x3A465320, .vfmin 4 12 20 .bf16 4),
     (0x3C465320, .vfmax 4 12 20 .bf16 4),
     (0x3E465321, .vfsgn 4 12 20 .bf16 4 .neg),
     (0x40DA730D, .vfcmp .fle 5 20 28 .bf16 1),
     (0x42460310, .vfclass 4 12 .bf16 2),
     (0x44463263, .vcvt 4 12 .bf16 .f8e4 4 .rup),
     (0x44467253, .vcvtRes 4 12 .bf16 .f8e4 2 .rup),
     (0x46460114, .vpack 4 12 .i16 2 true .x2),
     (0x48460110, .vunpack 4 12 .i16 2 .x2),
     (0x4A465120, .vperm 4 12 20 .i16 4),
     (0x4C465120, .vperm2 4 12 20 .i16 4),
     (0x4E463291, .vslide 4 12 25 .i16 4 true),
     (0x50463291, .vrot 4 12 25 .i16 4 true),
     (0x52402488, .vbcast 4 18 .i16 2),
     (0x52463291, .vbcastEl 4 12 25 .i16 4),
     (0x54663288, .vextr 200 12 25 .i16),
     (0x5641328D, .vins 4 77 25 .i16),
     (0x58400130, .viota 4 .i16 6),
     (0x58400101, .viotaIdx 4 .i16),
     (0x5A460110, .vcompress 4 12 .i16 2),
     (0x5C460110, .vexpand 4 12 .i16 2),
     (0x5E460115, .vmov 4 12 .i16 2 .g2 true)].all
      (decodesAs .v1) = true := by decide

theorem test_words_vector_3 :
    [(0x60465100, .vzip 4 12 20 .i16),
     (0x62460100, .vunzip 4 12 .i16),
     (0x64329940, .mlog 3 5 6 5),
     (0x6601A488, .mpopc 3 18 .i16 2),
     (0x6801A489, .mfirst 3 18 .i16 2 true),
     (0x6A360088, .mfromNz 3 12 .i16 2),
     (0x6A302489, .mfromPre 3 18 .i16 2),
     (0x6A30248A, .mfromSuf 3 18 .i16 2),
     (0x6C460310, .vexp2 4 12 .bf16 2),
     (0x6E460310, .vlog2 4 12 .bf16 2),
     (0x70460310, .vrcp 4 12 .bf16 2),
     (0x72460310, .vrsqrt 4 12 .bf16 2),
     (0x74460310, .vsqrt 4 12 .bf16 2),
     (0x76460311, .vsincos 4 12 .bf16 2 true),
     (0x78460310, .vtanh 4 12 .bf16 2),
     (0x7A2602D3, .redSum 2 12 .f16 2 true),
     (0x7A265122, .redMax 2 12 20 .i16 4 true),
     (0x7C2025A0, .redmvGet 2 18 .f32),
     (0x7C202401, .redmvIdx 2 18),
     (0x7C208002, .redmvAdd 2 1),
     (0x7C202403, .redmvSet 2 18),
     (0x7EA00001, .redclr 10 .ninf),
     (0x80460311, .vcvtsxTo 4 12 .bf16 2 .sx4),
     (0x80460765, .vcvtsxFrom 4 12 true .f32 4 .sx4),
     (0x82365121, .vmatch 3 12 20 .i16 4 true)].all
      (decodesAs .v1) = true := by decide

theorem test_words_matrix :
    [(0x02000005, .mshape 5),
     (0x042C0C80, .mldw 1 6 25),
     (0x042CB004, .mldwExpand 1 6 1 32 1 0),
     (0x077A1001, .mma 5 1 13 32 true),
     (0x077B5383, .mmaAbsorb 5 1 13 2 39 1 true),
     (0x09400000, .mzero 5),
     (0x0B4C0C99, .mdrain 5 6 25 true true .rtz),
     (0x0C000000, .msync)].all
      (decodesAs .x) = true := by decide

theorem test_words_engine :
    [(0x025B6800, .cpy 11 6 13),
     (0x025B6C01, .cpyPeer 11 6 13 32),
     (0x045B6C00, .cpym 11 6 13 32),
     (0x065B0346, .gath 11 6 26 true true),
     (0x065B6C47, .gathList 11 6 13 34 true true),
     (0x08583340, .kvput 11 6 26),
     (0x0A580240, .kvalloc 11 18),
     (0x0C580240, .kvgrow 11 18),
     (0x0E580240, .kvfree 11 18),
     (0x105B6C02, .coll 11 6 13 32 .sum),
     (0x125B6800, .strm 11 6 13),
     (0x125B6801, .strmTag 11 6 13),
     (0x14002A46, .steepld .sx4 18 6),
     (0x16580240, .mupdBegin 11 18),
     (0x16583321, .mupdWrite 11 6 25),
     (0x16580242, .mupdCommit 11 18),
     (0x16580243, .mupdAbort 11 18),
     (0x18580243, .engqStat 11 18 .strm),
     (0x18580247, .engqVmask 11 18 .strm),
     (0x1858000B, .engqDepth 11 .strm),
     (0x1858000F, .engqLast 11 .strm)].all
      (decodesAs .e) = true := by decide
/-! ### Worked words of the spec

The encodings that the spec writes out bit by bit, as its entries give them. -/

theorem test_examples_s0 :
    [(0x02182100, .add 3 1 2),
     (0x3C482064, .cmpi 1 .lt 2 100),
     (0x28682584, .addx 13 1 11 4)].all (decodesAs .s0) = true := by
  decide

theorem test_examples_c :
    [(0x16085000, .movcw 1 0x28),
     (0x16685200, .movcw 13 0x29),
     (0x021FFFE0, .br 0 false 0x1FFFE0),
     (0x10005006, .loopi false 5 6),
     (0x2A028001, .waitt 20 .gath),
     (0x2A03C003, .waitt 30 .strm),
     (0x18020000, .spawn 16),
     (0x1C430000, .jinit 8 24),
     (0x20010000, .jwait 8),
     (0x20010001, .jwaitHere 8),
     (0x36012000, .wake 9),
     (0x3E014583, .tlbinvPage 10 11 .device),
     (0x40000002, .icinv .die),
     (0x32075C81, .rettSkip 58 57),
     (0x30000123, .trap 0x123),
     (0x2E000005, .sysc 5),
     (0x3A600000, .savex 12),
     (0x3C018000, .restx 12),
     (0x38600000, .ckpt 12),
     (0x1E010780, .qinit 8 15)].all (decodesAs .c) = true := by
  decide

theorem test_examples_s1 :
    [(0x44202100, .mul 4 1 2)].all (decodesAs .s1) = true := by
  decide

theorem test_examples_m :
    [(0x02081504, .ld .sp 4 2 .w true 4),
     (0x260C1B1A, .amof .sp 6 3 (.max true false) .cluster .w .rel),
     (0x262AB404, .amof .sp 21 22 (.add true) .tile .h .relaxed),
     (0x3E186000, .dset 12 3 0),
     (0x0E046400, .vlds .sp 2 12 32 .b 0),
     (0x2E962600, .stp .g 11 4 .d 0),
     (0x320C063F, .contrib 6 12 63),
     (0x3E16600B, .dset 11 3 11)].all (decodesAs .m) = true := by
  decide

theorem test_examples_v0 :
    [(0x02432119, .vadd 4 6 8 .i16 3 .g2 false),
     (0x54619988, .vextr 200 3 12 .bf16),
     (0x46510084, .vpack 5 2 .i8 0 true .x2),
     (0x680114C1, .mfirst 2 10 .i32 0 true),
     (0x6A1180A0, .mfromNz 1 3 .n16 0)].all (decodesAs .v0) = true := by
  decide

theorem test_examples_v1 :
    [(0x4A3150C0, .vperm 3 2 20 .n8 0),
     (0x0EA10C80, .vmulw 10 2 3 .i8 0 false),
     (0x7A21A709, .redMax 2 3 9 .bf16 1 false),
     (0x44627648, .vcvtRes 6 4 .f32 .f8e4 1 .rne),
     (0x822088C8, .vmatch 2 1 2 .n8 1 false)].all (decodesAs .v1) = true := by
  decide

theorem test_examples_x :
    [(0x02000001, .mshape 1),
     (0x042A8505, .mldwExpand 1 5 0 10 1 1),
     (0x06440481, .mma 1 0 2 9 true),
     (0x0A4C0710, .mdrain 1 6 14 true false .rne),
     (0x08C00000, .mzero 3),
     (0x0C000000, .msync),
     (0x04200580, .mldw 1 0 11)].all (decodesAs .x) = true := by
  decide

theorem test_examples_e :
    [(0x06A10100, .gath 20 2 8 false false),
     (0x14002983, .steepld .sx4 12 3),
     (0x12F01000, .strm 30 0 2),
     (0x0E0002C0, .kvfree 0 22),
     (0x0AB802C0, .kvalloc 23 22),
     (0x0C000380, .kvgrow 0 28),
     (0x18E8000C, .engqLast 29 .cpy),
     (0x18C002E1, .engqStat 24 23 .gath)].all (decodesAs .e) = true := by
  decide

theorem test_s0_refuses_mul : (decodeSlot .s0 0x44202100).toOption = none := by decide

theorem test_header_no_op : (decodeBundle [0, 5]).toOption = some (.header (.noOpBundle 5)) := by decide

theorem test_header_padding : (decodeBundle [0, 0x25]).toOption = some (.header (.paddingHeader 5)) := by decide

theorem test_header_zero_illegal : (decodeBundle [0, 0]).toOption = none := by decide

theorem test_bundle_of_two :
    (decodeBundle [0x03, 0x02, 0x00, 0x21, 0x18, 0x02, 0x00, 0x21, 0x20, 0x44]).toOption =
    some (.slots 2 10 [⟨.s0, 0x02182100, .add 3 1 2⟩, ⟨.s1, 0x44202100, .mul 4 1 2⟩]) := by decide
/-! ### Ill-formed terms

One term for each check of `Instr.wf`, right but for that one condition. -/

/-- No instruction of the list is well formed. -/
def noneWf (l : List Instr) : Bool := l.all fun i => !i.wf

theorem test_illformed_scalar : noneWf
    [.noOpBundle 0, .bfx 1 2 60 4, .bfxs 1 2 63 1, .bfi 1 2 1 63, .cmp 1 .feq 2 3, .cmpi 1 .ord 2 3,
     .sfadd 1 2 3 .i32 .rne, .sfadd 1 2 3 .f32 .sr, .sfsub 1 2 3 .f8e4 .rne, .sfsub 1 2 3 .f32 .sr,
     .sfmul 1 2 3 .f4 .rne, .sfmul 1 2 3 .bf16 .sr, .sfma 1 2 3 .n32 .rne, .sfma 1 2 3 .a56 .sr, .sfmin 1 2 3 .i8,
     .sfmax 1 2 3 .f8e5, .sfcmp 1 .eq 2 3 .f32, .sfcmp 1 .feq 2 3 .i32] = true := by decide

theorem test_illformed_control : noneWf
    [.movc 1 0x3FF, .movc 1 0x05, .movcw 1 0x00, .movcw 1 0x3FF, .spawn 0, .spawn 12, .jinit 1 12] = true := by decide

theorem test_illformed_memory : noneWf
    [.st .cd 1 2 .w 0, .stx .cd 1 2 3 .w true, .vst .cd 1 2 0, .vsts .cd 1 2 3 .w 0, .vldx .sp 1 2 3 .h true 0,
     .vstx .cd 1 2 3 .w true 0, .vstx .sp 1 2 3 .b true 0, .ldfe .g 1 2 .d 0, .ldfeV .cd 1 2 .d 0, .ldfeV .sp 1 2 .w 0,
     .ldfec .g 1 2 .d 0, .ldfecV .g 1 2 .d 0, .ldfecV .sp 1 2 .h 0, .stfe .g 1 2 .d 0, .stfeV .cd 1 2 .d 0,
     .stfeV .sp 1 2 .b 0, .feset .g 1 2, .feclr .cd 1 2, .amo .cd 1 2 .add .tile .w .relaxed,
     .amof .cd 1 2 (.add false) .tile .w .relaxed, .amof .sp 1 2 (.add false) .tile .b .relaxed,
     .amof .sp 1 2 (.max false true) .tile .w .relaxed, .cas .cd 2 3 .tile .w .relaxed, .cas .sp 1 2 .tile .w .relaxed,
     .vamo .cd 1 2 (.int .add) .tile .w .relaxed, .vamo .sp 1 2 .addF32 .tile .d .relaxed,
     .vamo .sp 1 2 .addBf16 .tile .w .relaxed, .fence .die .relaxed, .stp .cd 1 2 .w 0, .vstp .cd 1 2 0,
     .pref .sp true 1 0, .vpark 1 56 2, .vunpark 1 true 63 2, .dset 1 2 14, .dget 1 2 14, .dgetImg .cd 1 2] = true := by
  decide

theorem test_illformed_vector_groups : noneWf
    [.vadd 5 6 8 .i16 0 .g2 false, .vsub 4 7 8 .i16 0 .g2 false, .vmul 4 6 9 .i16 0 .g2 false,
     .vadds 6 8 12 .i8 0 .g4 false, .vsubs 4 10 12 .i8 0 .g4 true, .vmulh 4 8 14 .n8 0 .g4 false, .vmac 1 2 4 .i32 0 .g2 true,
     .vabsd 2 1 4 .i32 0 .g2 true, .vavg 2 4 1 .i32 0 .g2 false, .vmin 3 4 6 .i8 0 .g2 false, .vmax 2 5 6 .i8 0 .g2 false,
     .vand 2 4 7 .f32 0 .g2 false, .vor 1 4 6 .f32 0 .g2 false, .vxor 2 3 6 .f32 0 .g2 false, .vandn 2 4 5 .f32 0 .g2 false,
     .vshl 1 2 4 .i8 0 .g2 false, .vshr 2 1 4 .i8 0 .g2 false, .vsra 2 4 1 .i8 0 .g2 false, .vclz 1 2 .i8 0 .g2,
     .vpopc 2 1 .i8 0 .g2, .vmulw 1 2 3 .i8 0 false, .vmacw 3 4 5 .n16 0 true, .vsel 1 2 4 .f32 0 .g2 false,
     .vsel 2 1 4 .f32 0 .g2 false, .vsel 2 4 1 .f32 0 .g2 false, .vmov 1 2 .f32 0 .g2 false, .vmov 2 1 .f32 0 .g2 false,
     .vpack 1 3 .i8 0 true .x2, .vunpack 3 1 .i8 0 .x2, .vperm2 1 3 5 .i8 0, .vzip 1 2 3 .i8, .vunzip 1 2 .i8,
     .vunzip 2 1 .i8] = true := by decide

theorem test_illformed_vector_types : noneWf
    [.vadd 1 2 3 .f32 0 .g1 false, .vsub 1 2 3 .f16 0 .g1 false, .vadds 1 2 3 .f4 0 .g1 false, .vsubs 1 2 3 .f4 0 .g1 false,
     .vmul 1 2 3 .a56 0 .g1 false, .vmulh 1 2 3 .f8e4 0 .g1 false, .vmulw 2 4 5 .i32 0 false, .vmac 1 2 3 .f8e5 0 .g1 false,
     .vmacw 2 4 5 .f16 0 false, .vabsd 1 2 3 .bf16 0 .g1 false, .vavg 1 2 3 .bf16 0 .g1 false, .vmin 1 2 3 .f32 0 .g1 false,
     .vmax 1 2 3 .f32 0 .g1 false, .vshl 1 2 3 .f32 0 .g1 false, .vshr 1 2 3 .f32 0 .g1 false, .vsra 1 2 3 .f32 0 .g1 false,
     .vclz 1 2 .f32 0 .g1, .vpopc 1 2 .f32 0 .g1, .vcmp .feq 1 2 3 .i8 0, .vcmp .eq 1 2 3 .f32 0, .vcmp .eq 0 2 3 .i8 0,
     .vfadd 1 2 3 .f8e4 0 .rne, .vfadd 1 2 3 .f32 0 .sr, .vfsub 1 2 3 .i32 0 .rne, .vfsub 1 2 3 .f32 0 .sr,
     .vfmul 1 2 3 .a56 0 .rne, .vfmul 1 2 3 .f32 0 .sr, .vfma 1 2 3 .f4 0 .rne, .vfma 1 2 3 .f32 0 .sr,
     .vfmin 1 2 3 .a56 0, .vfmax 1 2 3 .n8 0, .vfsgn 1 2 3 .n32 0 .neg, .vfcmp .eq 1 2 3 .f32 0, .vfcmp .feq 1 2 3 .f8e4 0,
     .vfcmp .feq 0 2 3 .f32 0, .vfclass 1 2 .f8e4 0, .vcvt 1 2 .f4 .f32 0 .rne, .vcvtRes 1 2 .a56 .f8e4 1 .rne,
     .vpack 1 2 .i32 0 true .x2, .vpack 1 4 .i16 0 true .x4, .vunpack 2 1 .f16 0 .x2, .vunpack 4 1 .n16 0 .x4,
     .vextr 128 1 2 .f32, .vins 1 1023 2 .i8, .viota 1 .f32 0, .viotaIdx 1 .bf16, .mlog 0 1 2 8, .mfromNz 0 1 .i8 0,
     .mfromPre 0 1 .i8 0, .mfromSuf 0 1 .i8 0] = true := by decide

theorem test_illformed_functions : noneWf
    [.vexp2 1 2 .f8e4 0, .vlog2 1 2 .i32 0, .vrcp 1 2 .a56 0, .vrsqrt 1 2 .f4 0, .vsqrt 1 2 .f8e5 0, .vsincos 1 2 .n32 0 true,
     .vtanh 1 2 .a56 0, .redMax 1 2 3 .f8e4 0 false, .redmvGet 1 2 .bf16, .redclr 0 .zero, .vcvtsxTo 1 2 .a56 0 .sx4,
     .vcvtsxFrom 1 2 true .f16 0 .sx8, .vmatch 1 2 3 .i32 0 false, .vmatch 0 2 3 .i8 0 false] = true := by decide

theorem test_illformed_matrix_engine : noneWf
    [.mshape 0, .gath 1 2 5 false false, .gathList 1 2 3 5 false false, .kvput 1 2 7, .steepld .sx8 1 0, .mupdBegin 0 1,
     .mupdWrite 0 1 2, .mupdCommit 0 1, .mupdAbort 0 1] = true := by decide

/-! ### Single steps

Expected values are the worked examples and the tables of the spec; each docstring names the rule. -/

/-- A task of context 0 in system mode on tile 0, with an empty line of code at its pc and the turn. -/
def base : State := State.reset.place []

/-- What `f` reads in the state after instruction `i` in `s`. -/
def after {α : Type} (i : Instr) (s : State) (f : State → α) : Option α :=
  match exec i s with
  | .next t => some (f t)
  | _ => none

/-- What `f` reads after a step that fetches and runs instruction `i` alone in a bundle, from `base` with registers set. -/
def stepped {α : Type} (i : Instr) (setup : State → State) (f : State → α) : Option α :=
  match encode i with
  | some bs =>
    match step ((setup State.reset).place bs) with
    | .next t => some (f t)
    | _ => none
  | none => none

/-- A vector register of listed elements, the rest zero. -/
def vecList (t : ETy) (l : List Nat) : VWord := BitVec.ofNat 4096 (l.foldr (fun x y => x + 2 ^ t.width * y) 0)

/-- The flags set by the instructions so far. -/
def flagsOf (s : State) : Flags := s.regs.ctl.fpflags

/-- R64: `ADDX s9, s8, s4, 3` with 0x1000 and 5 writes 0x1028. -/
theorem test_addx : stepped (.addx 9 8 4 3) (fun s => (s.wrS 8 0x1000).wrS 4 5) (fun s => s.regs.getS 9) = some 0x1028 := by
  decide

/-- R65: `MOVHI s6, 0x5678` after `MOVI s6, 0x1234`. -/
theorem test_movhi : stepped (.movhi 6 0x5678) (fun s => s.wrS 6 0x1234) (fun s => s.regs.getS 6) = some 0x12345678 := by
  decide

/-- R19: a write of `s0` is discarded, and the pc goes past the bundle. -/
theorem test_s0_discards : stepped (.addi 0 0 7) id (fun s => (s.regs.getS 0, s.regs.pc)) =
    some (0, State.reset.regs.pc + 6) := by decide

/-- R73: `DIV` of -7 by 2 writes -3. -/
theorem test_div : after (.div 1 2 3) ((base.wrS 2 (-7)).wrS 3 2) (fun s => (s.regs.getS 1, flagsOf s)) = some (-3, 0) := by
  decide

/-- R73: `REM` of -7 by 2 writes -1. -/
theorem test_rem : after (.rem 1 2 3) ((base.wrS 2 (-7)).wrS 3 2) (fun s => s.regs.getS 1) = some (-1) := by decide

/-- R73: `DIVN` of 7 by 0 writes all ones and sets DZ. -/
theorem test_divn_zero : after (.divn 1 2 3) (base.wrS 2 7) (fun s => (s.regs.getS 1, flagsOf s)) =
    some (0xFFFFFFFFFFFFFFFF, flDZ) := by decide

/-- R73: `REMN` of 7 by 0 writes 7 and sets DZ. -/
theorem test_remn_zero : after (.remn 1 2 3) (base.wrS 2 7) (fun s => (s.regs.getS 1, flagsOf s)) = some (7, flDZ) := by
  decide

/-- R77: `SFCVT.I8.SF32.RNE` of 200.5 writes 127 and sets SAT and NX. -/
theorem test_sfcvt_saturates : after (.sfcvt 4 3 .i8 .f32 .rne) (base.wrS 3 0x43488000) (fun s => (s.regs.getS 4, flagsOf s)) =
    some (127, flSAT ||| flNX) := by decide

/-- R77: `SFCVT.N8.SF32.RTZ` of -0.75 writes 0 and sets NX. -/
theorem test_sfcvt_truncates : after (.sfcvt 4 3 .n8 .f32 .rtz) (base.wrS 3 0xBF400000) (fun s => (s.regs.getS 4, flagsOf s)) =
    some (0, flNX) := by decide

/-- R184: 0.3 in F8E4 under RNE is 0x2A with NX, and 0x29 under RTZ. -/
theorem test_convert_f8e4 : convert .f8e4 .rne false (readNum .f32 0x3E99999A) = (0x2A, flNX) ∧
    convert .f8e4 .rtz false (readNum .f32 0x3E99999A) = (0x29, flNX) := by decide

/-- R79: a branch goes to twice its offset from the bundle's address. -/
theorem test_br_back : stepped (.br 0 false 0x1FFFE0) id (fun s => s.regs.pc) = some (State.reset.regs.pc - 64) := by decide

/-- R79: `CALL` links the address after its bundle in `s63`. -/
theorem test_call_links : stepped (.call 0 false 16) id (fun s => (s.regs.pc, s.regs.getS 63)) =
    some (State.reset.regs.pc + 32, (State.reset.regs.pc + 6).zeroExtend 64) := by decide

/-- R132: `LD.W.S s4, sp[s2+16]` of the bytes F6 FF FF FF writes -10. -/
theorem test_ld_signed : after (.ld .sp 4 2 .w true 4)
    ((base.wrS 2 0x10000).modTile base.cur fun x => { x with
      sp := [(0x10010, 0xF6), (0x10011, 0xFF), (0x10012, 0xFF), (0x10013, 0xFF)]
      segs := x.segs.set 1 { x.seg 1 with owner := some 0 } }) (fun s => s.regs.getS 4) = some (-10) := by decide

/-- R196: `VADDS.I8` of 100 and 50 writes 127 and sets SAT. -/
theorem test_vadds : after (.vadds 1 2 3 .i8 0 .g1 false) ((base.wrV 2 (vecList .i8 [100])).wrV 3 (vecList .i8 [50]))
    (fun s => (velem .i8 (s.regs.getV 1) 0, flagsOf s)) = some (127, flSAT) := by decide +kernel

/-- R196: `VADD.I8` of 100 and 50 writes 0x96 and sets nothing. -/
theorem test_vadd_wraps : after (.vadd 1 2 3 .i8 0 .g1 false) ((base.wrV 2 (vecList .i8 [100])).wrV 3 (vecList .i8 [50]))
    (fun s => (velem .i8 (s.regs.getV 1) 0, flagsOf s)) = some (0x96, 0) := by decide +kernel

/-- R196: `VAVG.N8` of 255 and 0 writes 128. -/
theorem test_vavg : after (.vavg 1 2 3 .n8 0 .g1 false) (base.wrV 2 (vecList .n8 [255])) (fun s => velem .n8 (s.regs.getV 1) 0) =
    some 128 := by decide +kernel

/-- R196: `VSRA.N8` of 0x80 by 3 writes 0xF0. -/
theorem test_vsra : after (.vsra 1 2 3 .n8 0 .g1 false) ((base.wrV 2 (vecList .n8 [0x80])).wrV 3 (vecList .n8 [3]))
    (fun s => velem .n8 (s.regs.getV 1) 0) = some 0xF0 := by decide +kernel

/-- R198: `VFMA` of 1 + 2^-23, 1 - 2^-23 and -1 gives -2^-46 with no flag. -/
theorem test_vfma : after (.vfma 1 2 3 .f32 0 .rne)
    (((base.wrV 1 (vecList .f32 [0xBF800000])).wrV 2 (vecList .f32 [0x3F800001])).wrV 3 (vecList .f32 [0x3F7FFFFE]))
    (fun s => (velem .f32 (s.regs.getV 1) 0, flagsOf s)) = some (0xA8800000, 0) := by decide +kernel

/-- R209: `VPACK.I8.SAT` of 300, -5 and -200, 7 writes 127, -128, -5, 7 and sets SAT. -/
theorem test_vpack : after (.vpack 5 2 .i8 0 true .x2)
    ((base.wrV 2 (vecList .i16 [300, 0xFFFB])).wrV 3 (vecList .i16 [0xFF38, 7]))
    (fun s => ((List.range 4).map (velem .i8 (s.regs.getV 5)), flagsOf s)) = some ([127, 0x80, 0xFB, 7], flSAT) := by decide +kernel

/-- R213: `VEXP2.F32` of 128 gives infinity with OF and NX. -/
theorem test_vexp2_overflow : specialFn .exp2 .f32 0x43000000 = (0x7F800000, flOF ||| flNX) := by decide

/-- R213: `VRCP.F32` of 2^-149 gives infinity with OF and NX. -/
theorem test_vrcp_overflow : specialFn .rcp .f32 1 = (0x7F800000, flOF ||| flNX) := by decide

/-- R242: `MZERO` writes zero into every entry. -/
theorem test_mzero : after (.mzero 3) (base.modRegs fun r => r.setC 3 (1#229376)) (fun s => decide (s.regs.getC 3 = 0)) =
    some true := by decide +kernel

/-- R237: `MSHAPE 1` sets `ASHAPE` to 1. -/
theorem test_mshape : stepped (.mshape 1) id (fun s => s.regs.ctl.ashape) = some 1 := by decide

/-- R265: `HOLD` raises the depth from 0 to 1. -/
theorem test_hold : stepped .hold id (fun s => s.regs.ctl.holdDepth) = some 1 := by decide

/-- R317: `WAKE` with 0x0A06 starts tiles 1 and 2 of die 1, cluster 2, 2,400 ns from OFF. -/
theorem test_wake : after (.wake 9) ({ base with port := { base.port with ready1 := BitVec.allOnes 64 } }.wrS 9 0x0A06)
    (fun s => ((s.tile 0x51).power.waking, (s.tile 0x52).power.waking, (s.tile 0x50).power.waking)) =
    some (some 2400, some 2400, none) := by decide

/-- R384: `TRAP 0x123` without a handler ends its task. -/
theorem test_trap_no_handler : stepped (.trap 0x123) id (fun s => s.t.run.isNone) = some true := by decide +kernel

/-- R384, R377: `TRAP 0x123` with a handler goes to it with the immediate in `FADDR` and the next bundle in `FPC`. -/
theorem test_trap_handler : stepped (.trap 0x123)
    (fun s => s.modT fun x => { x with view := { x.view with trapv := 0x8000 }, segs := x.segs.set 0 { x.seg 0 with owner := some 0 } })
    (fun s => (s.regs.pc, s.regs.ctl.hnd, s.regs.ctl.bank1.addr, s.regs.ctl.bank1.pc)) =
    some (0x8000, true, 0x123, (State.reset.regs.pc + 6).zeroExtend 64) := by decide

/-! ### Witnesses: a state and operands that meet the hypotheses of each statement

The scalar and vector spaces. Where clauses have hypotheses of their own, each has its witness, at a boundary of its range. -/

/-- `ScalarBitfieldResults`: the last field, the longest, and one that ends at bit 63. -/
theorem witness_ScalarBitfieldResults :
    [((63 : BitVec 6), (0 : BitVec 6)), (0, 63), (32, 31)].all (fun p => decide (p.1.toNat + p.2.toNat < 64)) = true := by
  decide

/-- `PredicateResults`: the first and the last integer condition. -/
theorem witness_PredicateResults : [Cond.eq, .gtn].all Cond.isInt = true := by decide

/-- `ScalarFloatResults`: the ends of the accepted types, roundings and conditions. -/
theorem witness_ScalarFloatResults : ([ETy.f16, .a56].all ETy.isScalarFloat && [RM.rne, .dyn].all RM.isArith &&
    [Cond.feq, .ord].all Cond.isFloat) = true := by decide

/-- `VectorIntegerResults` and `VectorSaturatingWidening`: a destination that is its first source, one that ends where a
source begins and one that begins where a broadcast source ends, for every form. -/
theorem witness_VectorIntegerResults :
    Apart 4 Grp.g2.size 4 Grp.g2.size ∧ Apart 4 Grp.g2.size 6 Grp.g2.size ∧ Apart 4 Grp.g2.size 3 1 ∧
    [Instr.vadd 4 4 6 .i16 3 .g2 false, .vsub 4 4 6 .n32 0 .g2 false, .vmul 4 4 3 .i4 1 .g2 true, .vmulh 4 4 6 .n4 0 .g2 false,
     .vmac 4 4 6 .i8 0 .g2 false, .vabsd 4 4 6 .n8 0 .g2 false, .vavg 4 4 6 .n16 0 .g2 false, .vmin 4 4 6 .i32 0 .g2 false,
     .vmax 4 4 6 .i8 0 .g2 false, .vand 4 4 6 .a56 0 .g2 false, .vor 4 4 6 .f4 0 .g2 false, .vxor 4 4 6 .f32 0 .g2 false,
     .vandn 4 4 6 .bf16 0 .g2 false, .vshl 4 4 3 .i8 0 .g2 true, .vshr 4 4 6 .i16 0 .g2 false, .vsra 4 4 6 .n8 0 .g2 false,
     .vclz 4 4 .i4 0 .g2, .vpopc 4 4 .n32 7 .g2, .vadds 4 4 6 .i8 0 .g2 false, .vsubs 4 4 3 .n32 0 .g2 true].all Instr.wf = true := by
  refine ⟨.inl ⟨rfl, rfl⟩, .inr (.inl (by decide)), .inr (.inr (by decide)), by decide⟩

/-- `VectorSaturatingWidening`: the widening and the packing forms, at adjacent registers. -/
theorem witness_VectorSaturatingWidening :
    Apart 10 2 9 1 ∧ Apart 10 2 12 1 ∧ Apart 8 4 7 1 ∧ Apart 12 1 8 4 ∧
    [Instr.vmulw 10 9 12 .i4 0 false, .vmacw 10 9 12 .n16 0 true, .vunpack 8 7 .n8 0 .x4, .vpack 12 8 .i4 0 true .x4,
     .vunpack 10 9 .i16 0 .x2].all Instr.wf = true := by
  refine ⟨.inr (.inr (by decide)), .inr (.inl (by decide)), .inr (.inr (by decide)), .inr (.inr (by decide)), by decide⟩

/-- `VectorFloatResults` and `MaskResults`: every form with the ends of its types. -/
theorem witness_VectorFloatResults :
    [Instr.vfadd 1 2 3 .f16 0 .rne, .vfsub 1 2 3 .bf16 0 .dyn, .vfmul 1 1 1 .f32 7 .rup, .vfma 1 2 3 .f32 0 .rdn, .vfmin 1 2 3 .f16 0,
     .vfmax 1 2 3 .f32 0, .vfsgn 1 2 3 .f4 0 .cpy, .vfsgn 1 2 3 .a56 0 .xor, .vfclass 1 2 .f16 0, .vfclass 1 2 .a56 0,
     .vcmp .eq 1 2 3 .i4 0, .vcmp .gtn 7 2 3 .n32 0, .vfcmp .feq 1 2 3 .f16 0, .vfcmp .ord 7 2 3 .f32 0].all Instr.wf = true := by
  decide

/-- `MaskResults`: a governed element that is the highest set one, and a mask with none. -/
theorem witness_MaskResults : (7 : MReg) ≠ 0 ∧ (∀ i, i < ETy.a56.count → ((base.rdM 1).getLsbD i && (base.rdM 2).getLsbD i) = false) ∧
    (((base.wrM 1 (1#1024 <<< 63)).rdM 1).getLsbD 63 && (base.rdM 0).getLsbD 63) = true := by decide +kernel

/-- `VectorMoveResults`: groups at every distance, and the last element of a type. -/
theorem witness_VectorMoveResults : Apart 2 Grp.g2.size 4 Grp.g2.size ∧ Apart 2 Grp.g2.size 1 1 ∧ Apart 4 1 2 2 ∧
    (1023 : BitVec 10).toNat < ETy.f4.count ∧ (63 : BitVec 10).toNat < ETy.a56.count ∧
    [Instr.vsel 2 4 1 .f32 0 .g2 true, .vmov 2 4 .f32 0 .g2 false, .vmov 2 1 .f32 0 .g2 true, .vperm2 4 2 9 .i8 0].all Instr.wf = true := by
  refine ⟨.inr (.inl (by decide)), .inr (.inr (by decide)), .inr (.inr (by decide)), by decide, by decide, by decide⟩

/-- `VectorShuffleResults`: pairs with their sources beside them. -/
theorem witness_VectorShuffleResults : (4 : VReg).toNat % 2 = 0 ∧ Apart 4 2 6 1 ∧ Apart 4 2 3 1 ∧ Apart 4 2 2 2 ∧ ETy.isInt .i4 = true ∧
    ETy.isInt .n32 = true :=
  ⟨by decide, .inr (.inl (by decide)), .inr (.inr (by decide)), .inr (.inr (by decide)), by decide, by decide⟩

/-- `ConversionResults`: both ratios of 4, and both the stochastic and the other roundings. -/
theorem witness_ConversionResults : cvtRatioOk .f8e4 .f32 = true ∧ cvtRatioOk .a56 .n16 = true ∧ base.isSR .rne = false ∧
    base.isSR .sr = true := by decide

/-- `SpecialFunctionResults` and `SpecialOperandResults`: a signalling NaN of F32, a quiet one of BF16, an infinity, a zero, and
the smallest negative number of F16. -/
theorem witness_SpecialOperandResults : [ETy.f16, .bf16, .f32].all ETy.isVecFloat = true ∧ binFmt .f32 = some fmtF32 ∧
    (readNum .f32 0x7F800001).isNan = true ∧ (readNum .bf16 0x7FC0).isNan = true ∧ readNum .f32 0xFF800000 = .inf true ∧
    readNum .f16 0x8000 = .fin true 0 (-24) ∧ readNum .f16 0x8001 = .fin true 1 (-24) := by decide

/-- `SpecialFunctionResults`: exact points of each function, an argument of 16, and results that lie within a bound. -/
theorem witness_SpecialFunctionResults :
    (readNum .f32 0xC0400000).eq (.fin true 3 0) = true ∧ (readNum .f16 0xC100).eq (.fin true 5 (-1)) = true ∧
    (readNum .bf16 0x3E80).eq (.fin false 1 (2 * -1)) = true ∧ (readNum .f32 0x40100000).eq (.fin false (3 * 3) (2 * -1)) = true ∧
    (Num.fin false 8388608 (-19)).lt (.fin false 16 0) = false ∧ readNum .f32 0x41800000 = .fin false 8388608 (-19) ∧
    (let v := fnVal .rcp (readNum .f32 0x40400000)
     v.exact = false ∧ (match v.num with
       | .fin neg m e => decide ((fmtF32.roundMag .rne neg m e).1 ≤ fmtF32.maxPat) && decide (fmtF32.umin - 1 ≤ e + (Nat.log2 m : Int))
       | _ => false) = true) ∧ fnUlps .rcp = some 1 := by decide +kernel

/-- `ReductionResults`: a NaN among elements, and finite terms with a common unit. -/
theorem witness_ReductionResults_sum :
    (∃ x ∈ [readNum .f32 0x7F800001], x.isNan = true ∧ x.isSnan = true) ∧ (readNum .a56 0).isFin = true ∧
    (∀ y ∈ [readNum .a56 0, readNum .f16 0x8000, readNum .f16 0x3C00], ∃ neg m e, y = .fin neg m e ∧ (-600 : Int) ≤ e) := by
  refine ⟨⟨_, .head _, by decide, by decide⟩, by decide, ?_⟩
  intro y hy
  simp only [List.mem_cons, List.not_mem_nil, or_false] at hy
  rcases hy with rfl | rfl | rfl
  · exact ⟨false, 0, -555, by decide, by decide⟩
  · exact ⟨true, 0, -24, by decide, by decide⟩
  · exact ⟨false, 1024, -10, by decide, by decide⟩

/-- A block of sixteen ones. -/
def onesBlock : SxBlock × Flags := sxBlock .sx8 (List.replicate 16 (.fin false 1 0))

/-- `BlockAndMatchResults`: a block that an image holds, a largest magnitude that comes first, and a block with an infinity. -/
theorem witness_BlockAndMatchResults_blocks : 16 * [onesBlock.1].length * SxFmt.width .sx8 ≤ 2048 ∧ onesBlock.1.ex < 256 ∧
    onesBlock.1.mu < 256 ∧ onesBlock.1.elems.length = 16 ∧ (∀ e ∈ onesBlock.1.elems, e < 2 ^ SxFmt.width .sx8) ∧
    (List.replicate 16 (Num.fin false 1 0)).getD 0 (.fin false 0 0) = .fin false 1 0 ∧
    (∀ x ∈ List.replicate 16 (Num.fin false 1 0), x.isNan = false ∧ (Num.fin false 1 0).lt x = false) ∧
    (Num.inf true :: List.replicate 15 (Num.fin false 1 0)).length = 16 := by decide +kernel

/-- `ReductionResults`: elements of which none is a number, a latch mask, and a best element with an equal one after it. -/
theorem witness_ReductionResults :
    (∀ p ∈ [(0, readNum .f32 0x7FC00000)], p.2.isNan = true) ∧ (1 : BitVec 4) ≠ 0 ∧ ETy.isRedMax .i16 = true ∧
    (let xs := [(0, readNum .f32 0), (1, readNum .f32 0x3F800000), (2, readNum .f32 0x3F800000)]
     let b := readNum .f32 0x3F800000
     b.isNan = false ∧ (∀ p ∈ xs, p.2.isNan = false → b.below p.2 = false) ∧
       ∀ p ∈ xs.take 1, p.2.isNan = false → p.2.below b = true) := by decide

/-- `BlockAndMatchResults`: a type each form accepts, and a pattern that stands in the text. -/
theorem witness_BlockAndMatchResults : ETy.isVecFloat .f16 = true ∧ ETy.isMatch .n16 = true ∧ (1 : MReg) ≠ 0 ∧
    min (velem .n8 (vecOf .n8 fun i => if i = 511 then 1 else 65) 511) 64 = 1 := by decide +kernel

/-! The memory space. -/

/-- An access of loads that meets no refusal and no wait, as a test. -/
def readsOk (s : State) (spc : Space) (els : List (Word × Nat)) : Bool :=
  match spc with
  | .sp => !s.mustWait (readsOf .sp els) &&
    els.all fun e => !s.spWaits s.cur s.ctxn e.1.toNat e.2 && (s.spPoisoned s.cur s.ctxn e.1.toNat e.2).isNone
  | .cd => (s.cdStop els).isNone
  | .g => els.all (fun e => canonicalRange e.1 e.2) && !s.t.ctlPending && !s.mustWait (readsOf .g els) &&
    (match State.planAll s.cur s.ctxn .read true s els with
      | .ok p => (firstOf (p.1.refill p.2).gPoisoned p.2).isNone
      | .error _ => false)

theorem length_planAll {t : TileIx} {c : CtxNo} {acc : Acc} {l1 : Bool} {els : List (Word × Nat)} :
    ∀ {s s0 ls}, State.planAll t c acc l1 s els = .ok (s0, ls) → ls.length = els.length := by
  induction els with
  | nil => intro s s0 ls h; simp only [State.planAll, Except.ok.injEq, Prod.mk.injEq] at h; simp [← h.2]
  | cons e rest ih =>
    intro s s0 ls h
    simp only [State.planAll] at h
    split at h
    · cases h
    · split at h
      · cases h
      · rename_i h2
        simp only [Except.ok.injEq, Prod.mk.injEq] at h
        simp [← h.2, ih h2]

theorem length_fetchAll {t : TileIx} {c : CtxNo} {ls : List (List (BitVec 48 × Nat × GSrc))} :
    ∀ {s : State}, (State.fetchAll t c s ls).2.length = ls.length := by
  induction ls with
  | nil => intro s; rfl
  | cons l rest ih => intro s; simp [State.fetchAll, ih]

/-- What the test accepts is read, one list of bytes for each element. -/
theorem reads_of_ok {s : State} {spc : Space} {els : List (Word × Nat)} (h : readsOk s spc els = true) :
    ∃ s1 bss, Reads s spc els s1 bss ∧ bss.length = els.length := by
  cases spc with
  | sp =>
    simp only [readsOk, List.all_eq_true, Bool.and_eq_true, Bool.not_eq_true', Option.isNone_iff_eq_none] at h
    exact ⟨_, _, ⟨h.1, h.2, rfl, rfl⟩, by simp⟩
  | cd =>
    simp only [readsOk, Option.isNone_iff_eq_none] at h
    exact ⟨_, _, ⟨h, rfl, rfl⟩, by simp⟩
  | g =>
    simp only [readsOk, List.all_eq_true, Bool.and_eq_true, Bool.not_eq_true'] at h
    obtain ⟨⟨⟨h1, h2⟩, h4⟩, h3⟩ := h
    split at h3
    · rename_i p hp
      refine ⟨_, _, ⟨h1, h2, h4, p.1, p.2, hp, by simpa using h3, rfl⟩, ?_⟩
      rw [length_fetchAll, length_planAll hp]
    · cases h3

/-- A store that meets no refusal and no wait, as a test. -/
def storesOk (s : State) (spc : Space) (els : List (Word × List Byte)) : Bool :=
  let lens := els.map fun e => (e.1, e.2.length)
  (s.unsafeAt spc lens).isNone &&
  match spc with
  | .sp => !s.mustWait (writesOf .sp lens) && lens.all fun e => !s.spWaits s.cur s.ctxn e.1.toNat e.2
  | .cd => false
  | .g => lens.all (fun e => canonicalRange e.1 e.2) && !s.mustWait (writesOf .g lens) &&
    (State.planAll s.cur s.ctxn .write false s lens).toOption.isSome

/-- What the test accepts is stored. -/
theorem stores_of_ok {s : State} {spc : Space} {els : List (Word × List Byte)} (h : storesOk s spc els = true) :
    ∃ s1, Stores s spc els s1 := by
  simp only [storesOk, Bool.and_eq_true, Option.isNone_iff_eq_none] at h
  obtain ⟨h0, h⟩ := h
  cases spc with
  | sp =>
    simp only [Bool.and_eq_true, List.all_eq_true, Bool.not_eq_true'] at h
    exact ⟨_, h0, h.1, h.2, rfl⟩
  | cd => cases h
  | g =>
    simp only [Bool.and_eq_true, List.all_eq_true, Bool.not_eq_true'] at h
    obtain ⟨⟨h1, h3⟩, h2⟩ := h
    cases hp : State.planAll s.cur s.ctxn .write false s (els.map fun e => (e.1, e.2.length)) with
    | error e => rw [hp] at h2; cases h2
    | ok p => exact ⟨_, h0, h1, h3, p.1, p.2, hp, rfl⟩

/-- An atomic that meets no refusal and no wait, as a test. -/
def rmwOk (s : State) (spc : Space) (sc : Scope) (o : Order) (a : Word) (n count : Nat) : Bool :=
  (s.unsafeAt spc [(a, n * count)]).isNone && !s.mustWait (atomicMem spc a (n * count) o) && !s.t.ctlPending &&
  match spc with
  | .sp => !s.spWaits s.cur s.ctxn a.toNat (n * count) &&
    (s.spPoisoned s.cur s.ctxn a.toNat (n * count)).isNone
  | .cd => false
  | .g => canonicalRange a (n * count) &&
    (match State.planAll s.cur s.ctxn .write false s ((List.range count).map fun j => (a + BitVec.ofNat 64 (n * j), n)) with
      | .ok p => (firstOf (p.1.refill p.2).gPoisoned p.2).isNone
      | .error _ => false)

/-- What the test accepts is carried out. -/
theorem rmw_of_ok {s : State} {spc : Space} {sc : Scope} {o : Order} {a : Word} {n count : Nat}
    {f : Nat → Nat → Option Nat} (h : rmwOk s spc sc o a n count = true) : ∃ s1 olds, Rmw s spc sc o a n count f s1 olds := by
  simp only [rmwOk, Bool.and_eq_true, Bool.not_eq_true', Option.isNone_iff_eq_none] at h
  obtain ⟨⟨⟨h0, h4⟩, h5⟩, h⟩ := h
  cases spc with
  | sp =>
    simp only [Bool.and_eq_true, Bool.not_eq_true', Option.isNone_iff_eq_none] at h
    exact ⟨_, _, h0, h4, fun _ => h5, h.1, h.2, rfl⟩
  | cd => cases h
  | g =>
    simp only [Bool.and_eq_true] at h
    obtain ⟨h1, h3⟩ := h
    split at h3
    · rename_i p hp
      exact ⟨_, _, h0, h4, h1, h5, p.1, p.2, hp, by simpa using h3, rfl⟩
    · cases h3

/-- `base` with every segment of its tile, one large page of device memory at address 0 that may be read and written, and the
whole Caddy of its tile as region 0. -/
def equipped : State := base.modT fun x => { x with
  segs := .ofFn fun _ => ⟨some 0, some 0, false⟩
  tlb := [⟨(base.ctx 0).asid, 0, true, 0x1F⟩]
  caddy := { x.caddy with regions := x.caddy.regions.set 0 { x.caddy.region 0 with valid := true, owner := 0, base := 0, len := 376 } } }

/-- `LoadsComplete`: the scalar forms in every space, the last word of the scratchpad among them. -/
theorem witness_LoadsComplete_scalar :
    readsOk equipped .sp [(eaMs (equipped.rdS 0) .d 0x7F, 8)] = true ∧ readsOk equipped .g [(eaMs (equipped.rdS 0) .d 0x7F, 8)] = true ∧
    readsOk equipped .cd [(eaMs (equipped.rdS 0) .d 0x7F, 8)] = true ∧ readsOk equipped .sp [(0x1FFFF8, 8)] = true ∧
    readsOk equipped .g [(eaMx (equipped.rdS 0) (equipped.rdS 0) .b true, 1)] = true ∧
    readsOk equipped .cd [(eaMx (equipped.rdS 0) (equipped.rdS 0) .b true, 1)] = true ∧
    readsOk equipped .sp [(equipped.rdS 0, 32)] = true ∧ (equipped.rdS 0).toNat % 32 = 0 := by decide +kernel

/-- `LoadsComplete`: the whole-register form in every space. -/
theorem witness_LoadsComplete_vld : (eaM (equipped.rdS 0) 1).toNat % 64 = 0 ∧
    readsOk equipped .sp [(eaM (equipped.rdS 0) 1, 512)] = true ∧ readsOk equipped .g [(eaM (equipped.rdS 0) 1, 512)] = true ∧
    readsOk equipped .cd [(eaM (equipped.rdS 0) 1, 512)] = true := by decide +kernel

/-- `LoadsComplete`: strided and indexed elements under a mask of two. -/
theorem witness_LoadsComplete_elements :
    (governedIdx 0x81 64).map (strideAt (equipped.rdS 0) 16) = [0, 112] ∧ readsOk equipped .sp [(0, 8), (112, 8)] = true ∧
    readsOk equipped .g [(0, 8), (112, 8)] = true ∧ readsOk equipped .cd [(0, 8), (112, 8)] = true ∧
    (governedIdx 3 128).map (indexAt (equipped.rdS 0) (vecList .i32 [1, 5]) 4 true) = [4, 20] ∧
    readsOk equipped .sp [(4, 4), (20, 4)] = true ∧ Size.isWordOrD .w = true ∧ Size.isWordOrD .d = true := by decide +kernel

/-- `LoadsComplete` and `StoresComplete`: a descriptor of two BF16 elements in the scratchpad. -/
def pairDesc : Desc := 0#92 ++ 2#24 ++ 2#16 ++ 0#41 ++ 0#1 ++ 12#4 ++ 0#2 ++ 0x40#48 |>.setWidth 256

theorem witness_LoadsComplete_stream : streamOk pairDesc false = true ∧ streamOk pairDesc true = true ∧ dSpc pairDesc = .sp ∧
    8 ≤ dBits pairDesc ∧ (streamElems pairDesc 0 3).map (fun p => (dAt pairDesc p.2, dBits pairDesc / 8)) = [(0x40, 2), (0x42, 2)] ∧
    readsOk equipped .sp [(0x40, 2), (0x42, 2)] = true ∧ storesOk equipped .sp [(0x40, [1, 2]), (0x42, [3, 4])] = true := by
  decide +kernel

/-- `StoresComplete`: the scalar, whole-register and image forms in both spaces, with the state each leaves. -/
theorem witness_StoresComplete :
    storesOk equipped .sp [(eaMs (equipped.rdS 0) .d 0x7F, leBytes 8 (equipped.rdS 5).toNat)] = true ∧
    storesOk equipped .g [(eaMs (equipped.rdS 0) .b 0x7F, leBytes 1 7)] = true ∧
    storesOk equipped .g [(eaMx (equipped.rdS 0) (equipped.rdS 0) .w true, leBytes 4 7)] = true ∧
    storesOk equipped .sp [(eaM (equipped.rdS 0) 1, leBytes 512 0)] = true ∧
    storesOk equipped .g [(equipped.rdS 0, leBytes 32 0)] = true ∧
    storesOk equipped .sp [(0, leBytes 8 1), (112, leBytes 8 2)] = true ∧ storesOk equipped .g [(20, leBytes 4 5)] = true ∧
    ∃ s1, Stores equipped .g [(0, leBytes 8 1)] s1 := by
  refine ⟨by decide +kernel, by decide +kernel, by decide +kernel, by decide +kernel, by decide +kernel, by decide +kernel,
    by decide +kernel, stores_of_ok (by decide +kernel)⟩

/-- `StoresComplete`: a descriptor of four 4-bit elements, in the scratchpad and in global memory. -/
def nibbleDesc (space : BitVec 2) : Desc := 0#92 ++ 0#24 ++ 4#16 ++ 0#41 ++ 0#1 ++ 1#4 ++ space ++ 0x40#48 |>.setWidth 256

theorem witness_StoresComplete_nibbles : 
    equipped.mustWait (writesOf .sp [(0x40, 1), (0x40, 1), (0x41, 1), (0x41, 1)]) = false ∧
    equipped.mustWait (writesOf .g [(0x40, 1), (0x40, 1), (0x41, 1), (0x41, 1)]) = false ∧ streamOk (nibbleDesc 0) true = true ∧ streamOk (nibbleDesc 1) true = true ∧
    dBits (nibbleDesc 0) < 8 ∧ dSpc (nibbleDesc 0) = .sp ∧ dSpc (nibbleDesc 1) = .g ∧
    (streamElems (nibbleDesc 1) 0 0xF).map (fun p => dAt (nibbleDesc 1) p.2) = [0x40, 0x40, 0x41, 0x41] ∧
    equipped.unsafeAt .sp [(0x40, 1), (0x40, 1), (0x41, 1), (0x41, 1)] = none ∧
    equipped.spWaits equipped.cur equipped.ctxn 0x40 1 = false ∧ canonicalRange 0x41 1 = true ∧
    (State.planAll equipped.cur equipped.ctxn .write false equipped [(0x40, 1), (0x40, 1), (0x41, 1), (0x41, 1)]).toOption.isSome =
      true := by decide +kernel

/-- `ScratchpadAccess`: the first word and the last one, of a task with no provisional bytes that is no member. -/
theorem witness_ScratchpadAccess : equipped.t.commit.lines = [] ∧ equipped.member = false ∧
    equipped.mustWait (readsOf .sp [(0x1FFFF8, 8)]) = false ∧ equipped.mustWait (writesOf .sp [(0, 512)]) = false ∧
    equipped.unsafeAt .sp [(0, 512)] = none ∧ Memory.wf (equipped.tile 0).sp = true ∧ SpPlain equipped (eaMs (equipped.rdS 0) .d 0) 8 0 0 ∧
    SpPlain equipped 0x1FFFF8 8 0 0x1FFFF8 ∧ SpPlain equipped (eaMx (equipped.rdS 0) (equipped.rdS 0) .w true) 4 0 0 ∧
    (eaM (equipped.rdS 0) 0).toNat % 64 = 0 ∧ SpPlain equipped (eaM (equipped.rdS 0) 0) 512 0 0 := by
  unfold SpPlain; decide +kernel

/-- `OffendingAndMisaligned`: an address with a bit above 31, one with WTILE but no WIN, and odd addresses. -/
theorem witness_OffendingAndMisaligned : base.member = false ∧ base.mustWait (writesOf .sp [(eaMs (-1) .b 0, 1)]) = false ∧
    base.mustWait (readsOf .sp [(0x630010, 8)]) = false ∧ spHome base.cur (eaMs (-1) .b 0).toNat = none ∧
    spHome base.cur 0x630010 = none ∧ Space.g ≠ .cd ∧ (eaM (base.rdS 0 + 32) 1).toNat % 64 ≠ 0 ∧ (base.rdS 0 + 16).toNat % 32 ≠ 0 ∧
    (base.rdS 0 + 7).toNat % Size.bytes .d ≠ 0 ∧ (eaMs (base.rdS 0 + 1) .h 0).toNat % Size.bytes .h ≠ 0 := by decide

/-- `OffendingAndMisaligned`: a quorum member with a frame of 8 bytes at the start of its tile. -/
theorem witness_OffendingAndMisaligned_member :
    let m := equipped.modCtl fun c => { c with qjoin := 1, qframeBase := 0, qframeSize := 8 }
    m.member = true ∧ (0 : Word).toNat % 2 ^ 21 + 8 ≤ 2 ^ 21 ∧ spHome m.cur (0 : Word).toNat = some m.cur ∧
    m.unsafeAt .g [(0, 8)] = some 0 ∧ m.unsafeAt .sp [(4, 8)] = some 8 ∧ (Instr.vamo .sp 3 2 .addBf16 .tile .h .relaxed).wf = true ∧
    m.src.ctl.hnd = false := by decide +kernel

/-- `FullEmptyResults`: a full load that is ready, and a store to the full word, which waits. -/
theorem witness_FullEmptyResults :
    let i := Instr.ldfec .sp 4 0 .d 0
    let j := Instr.stfe .sp 4 0 .d 0
    let q : FeReq := ⟨0, 0, 0, 8, true⟩
    let p : FeReq := ⟨0, 0, 0, 8, false⟩
    feReq equipped.cur equipped.src i = some q ∧ feReq equipped.cur equipped.src j = some p ∧ i.wf = true ∧ j.wf = true ∧
    equipped.member = false ∧ equipped.edgeWaits = false ∧ equipped.spWaits 0 0 0 8 = false ∧ equipped.spPoisoned 0 0 0 8 = none ∧
    equipped.feReady q = true ∧ equipped.feReady p = false := by decide +kernel

/-- `FullEmptyResults`: a load that empties and a store wait for nothing before them, in a quorum member too. -/
theorem witness_FullEmptyResults_open :
    let q : FeReq := ⟨0, 0, 0, 8, true⟩
    let m := equipped.modCtl fun c => { c with qjoin := 1, qframeBase := 0, qframeSize := 8 }
    q.addr.toNat % 8 = 0 ∧ q.base = 0 ∧ 8 * q.words = 8 ∧ feWrites (.ldfec .sp 4 0 .d 0) = true ∧
    equipped.unsafeAt .sp [(0, 8)] = none ∧ equipped.t.ctlPending = false ∧ equipped.mustWait (q.mem (.ldfec .sp 4 0 .d 0)) = false ∧
    m.member = true ∧ m.unsafeAt .sp [(0, 8)] = none ∧ m.unsafeAt .sp [(0, 16)] = some 8 := by decide +kernel

/-- `FullEmptyResults`: no tile waits for a word. -/
theorem witness_FullEmptyResults_first : equipped.feBehind ⟨0, 0, 0, 8, true⟩ none = false := by decide +kernel

/-- `FullEmptyResults`: a range of two words for `FESET`, and one of none. -/
theorem witness_FullEmptyResults_ranges : (equipped.rdS 0).toNat % 8 = 0 ∧
    (equipped.tagLocs 0 (tagCount 2)).2 = [some 0, some 8] ∧ (equipped.tagLocs 0 (tagCount 0)).2 = [] ∧
    (equipped.tile (equipped.tagLocs 0 (tagCount 2)).1).zeroing equipped.ctxn 8 = false := by decide +kernel

/-- `AtomicsComplete`: every kind in both spaces, with and without a release. -/
theorem witness_AtomicsComplete :
    rmwOk equipped .sp .tile .relaxed (equipped.rdS 0) 8 1 = true ∧ rmwOk equipped .g .system .acqrel (equipped.rdS 0) 4 1 = true ∧
    rmwOk equipped .sp .cluster .rel 0x40 1 512 = true ∧ (equipped.rdS 0).toNat % 64 = 0 ∧
    [Instr.amof .sp 1 2 (.max true true) .tile .h .relaxed, .amof .g 1 2 (.add false) .die .d .acq, .cas .g 4 2 .device .b .rel,
      .vamo .sp 3 2 .addBf16 .tile .h .relaxed, .vamo .g 3 2 (.int .maxn) .system .b .acqrel].all Instr.wf = true ∧
    ∃ s1 olds, Rmw equipped .g .system .acqrel 0 4 1 (fun _ w => some (w + 1)) s1 olds := by
  refine ⟨by decide +kernel, by decide +kernel, by decide +kernel, by decide +kernel, by decide, rmw_of_ok (by decide +kernel)⟩

/-- `AtomicScratchpad`: the last word of the scratchpad, and an even register pair. -/
theorem witness_AtomicScratchpad : equipped.unsafeAt .sp [(0x1FFFF8, 8)] = none ∧
    equipped.mustWait (atomicMem .sp 0x1FFFF8 8 .relaxed) = false ∧ Memory.wf (equipped.tile 0).sp = true ∧
    (0x1FFFF8 : Word).toNat % Size.bytes .d = 0 ∧ SpPlain equipped 0x1FFFF8 8 0 0x1FFFF8 ∧ (62 : SReg).toNat % 2 = 0 ∧
    (Instr.cas .sp 62 2 .tile .d .relaxed).wf = true := by
  unfold SpPlain; decide +kernel

/-- `FenceResults`: every order but relaxed, at each end of the scopes. -/
theorem witness_FenceResults : equipped.edgeWaits = false ∧ [Order.acq, .rel, .acqrel].all Order.isFence = true ∧
    Scope.system ≠ .tile ∧ Sys2Proof.Machine.Order.rel .acqrel = true ∧ Sys2Proof.Machine.Order.acq .acqrel = true := by decide +kernel

/-- A task in a quorum join, with a commit buffer of so many lines. -/
def memberState (lines : Nat) : State := equipped.modT fun x => { x with
  regs := { x.regs with ctl := { x.regs.ctl with qjoin := 1 } }
  run := x.run.map fun r => { r with commit := ⟨(List.range lines).map fun i => ⟨false, false, 0, 64 * i + 64, [], []⟩, []⟩ } }

/-- `ProvisionalResults`: a store and a contribution as the last line that fits, and as the first that does not. -/
theorem witness_ProvisionalResults : (memberState 30).t.run.isSome = true ∧ (memberState 30).mustWait (writesOf .sp [(0, 512)]) = false ∧
    (memberState 30).src.ctl.qjoin ≠ 0 ∧
    SpPlain (memberState 30) (eaMs ((memberState 30).rdS 0) .d 0) 8 0 0 ∧ (eaM ((memberState 30).rdS 0) 1).toNat % 64 = 0 ∧
    SpPlain (memberState 23) (eaM ((memberState 23).rdS 0) 0) 512 0 0 ∧
    ((memberState 30).t.commit.putSp 0 [some 0] [1]).size = commitLines ∧
    ((memberState 31).t.commit.putSp 0 [some 0] [1]).size = commitLines + 1 ∧
    CommitBuf.size { (memberState 30).t.commit with contribs := [⟨0, [1]⟩] } = commitLines ∧
    CommitBuf.size { (memberState 31).t.commit with contribs := [⟨0, [1]⟩] } = commitLines + 1 := by
  unfold SpPlain; decide +kernel

/-- Stage 0 of a gang, on tile 0, with pipe 2 from a stage to a stage and so many entries. -/
def pipedState (src dst : BitVec 3) (n : Nat) : State :=
  (base.modT fun x => { x with run := x.run.map fun r => { r with
    record := Rec.plain (#v[0x2000000000000, 0, 0, 0, 0, 0, 0, 0]) 0 none } }).modCluster 0 fun k => { k with
      gangs := [⟨0, 0, 0, 2, [(0, 0)], [(2, ⟨src, dst, List.replicate n 0⟩)]⟩] }

/-- `PipeResults`: a put into seven entries and into eight, a get of one entry and of none. -/
theorem witness_PipeResults : (pipedState 0 1 7).pipe 0 2 = some ⟨0, 1, List.replicate 7 0⟩ ∧ (pipedState 0 1 7).mustWait pipeMem = false ∧
    (pipedState 0 1 7).t.ctlPending = false ∧
    (pipedState 0 1 7).src.ctl.stage = 0 ∧ (pipedState 0 1 8).pipe 0 2 = some ⟨0, 1, List.replicate 8 0⟩ ∧
    (pipedState 1 0 1).pipe 0 2 = some ⟨1, 0, [0]⟩ ∧ (pipedState 1 0 0).pipe 0 2 = some ⟨1, 0, []⟩ := by decide +kernel

/-- `ParkAndDescriptorResults`: the last slot of a tile, which is not poisoned, and the last field of a descriptor. -/
theorem witness_ParkAndDescriptorResults : (55 : BitVec 6).toNat < 56 ∧ base.t.slotPoison 7 55 = none ∧
    (Instr.dset 1 2 13).wf = true ∧ (Instr.dget 1 2 13).wf = true := by decide +kernel

/-! The control space. -/

theorem ok_of_isSome {ε α : Type} {e : Except ε α} (h : e.toOption.isSome = true) : ∃ a, e = .ok a := by
  cases e with
  | error => cases h
  | ok a => exact ⟨a, rfl⟩

/-- `base` while it executes the one slot of a bundle of 6 bytes. -/
def inBundle : State := base.modIssue fun i => { i with src := some base.regs, size := 6 }

/-- `TransferResults`: a condition that fails, one that holds, and an even and an odd address. -/
theorem witness_TransferResults : base.rdP 0 = true ∧ base.rdP 1 ≠ true ∧ (base.rdS 0).getLsbD 0 = false ∧
    ((base.wrS 3 0x1001).rdS 3).getLsbD 0 = true := by decide

/-- `LoopAndHeaderResults`: an end in the bundle, one right behind it, and counts of 0 and 1. -/
theorem witness_LoopAndHeaderResults_program : 2 * (2 : BitVec 18).toNat < inBundle.t.issue.size ∧
    inBundle.t.issue.size ≤ 2 * (3 : BitVec 18).toNat ∧ (inBundle.rdS 0).extractLsb' 0 32 = 0 ∧ (1 : BitVec 12).zeroExtend 32 ≠ (0 : BitVec 32) ∧
    ∃ p, inBundle.codeAt inBundle.cur (inBundle.src.pc + BitVec.ofNat 48 6) = .ok p :=
  ⟨by decide, by decide, by decide, by decide, ok_of_isSome (by decide)⟩

/-- `LoopAndHeaderResults`: the inner loop with two counts left, with one, and with one at the end of an active outer loop. -/
theorem witness_LoopAndHeaderResults_step :
    (let l1 : LoopRegs := ⟨2, 0x10, 0x20⟩; l1.lc ≠ 0 ∧ (0x20 : Addr48) = l1.le ∧ l1.lc ≠ 1) ∧
    (let l1 : LoopRegs := ⟨1, 0x10, 0x20⟩; let l0 : LoopRegs := ⟨3, 0, 0x40⟩
      l1.lc ≠ 0 ∧ (0x20 : Addr48) = l1.le ∧ l1.lc = 1 ∧ ¬ (l0.lc ≠ 0 ∧ (0x20 : Addr48) = l0.le)) ∧
    (let l1 : LoopRegs := ⟨1, 0x10, 0x20⟩; let l0 : LoopRegs := ⟨1, 0, 0x20⟩
      l0.lc ≠ 0 ∧ (0x20 : Addr48) = l0.le ∧ l1.lc = 1) ∧ (1 : BitVec 5) ≠ 0 ∧ (31 : BitVec 5) ≠ 0 := by decide

/-- `ControlRegisters`: a plain register, a fault register in a handler and one in system mode, and a register each clause of a
write names, with a value at the edge of its field. -/
theorem witness_ControlRegisters :
    [0x00, 0x18, 0x5B].all (fun c => (Instr.movc 1 c).wf) = true ∧ crFault 0x00 = false ∧ crFault 0x18 = true ∧
    (base.modCtl fun c => { c with hnd := true }).src.ctl.hnd = true ∧ base.src.ctl.hnd = false ∧ base.src.ctl.sys = true ∧
    [0x08, 0x09, 0x0A, 0x0B, 0x11, 0x1E, 0x20, 0x28, 0x29, 0x2A, 0x30, 0x40, 0x41, 0x42, 0x43, 0x44, 0x45, 0x58, 0x5B].all
      (fun c => (Instr.movcw 1 c).wf) = true ∧ base.t.issue = .idle ∧ base.src.ctl.ctxn = 0 ∧
    5 ≤ ((base.wrS 1 20).rdS 1).toNat / 4 % 8 ∧ 65536 < ((base.wrS 1 65537).rdS 1).toNat := by decide

/-- A task of context 3 outside system mode. -/
def user : State := base.modCtl fun c => { c with sys := false, ctxn := 3 }

/-- `PrivilegeAndSoftwareTraps`: outside system mode and outside a handler, the first and the last system register. -/
theorem witness_PrivilegeAndSoftwareTraps : user.src.ctl.sys = false ∧ user.src.ctl.hnd = false ∧
    [0x30, 0x58, 0x5B].all (fun c => (Instr.movcw 1 c).wf && crSystemWrite c) = true ∧
    [0x18, 0x1D].all (fun c => (Instr.movc 1 c).wf && crFault c) = true ∧ inBundle.t.issue.src.isSome = true ∧
    inBundle.t.issue.pend = none ∧ base.t.issue.src = none := by decide

/-- A state whose task has a handler, in handler mode or not, armed or not. -/
def handled (hnd armed : Bool) : State := equipped.modT fun x => { x with
  view := { x.view with trapv := 0x8000 }
  regs := { x.regs with ctl := { x.regs.ctl with hnd := hnd } }
  armed := armed, banked := if hnd then some x.regs.bank else none }

/-- `TrapEntry`: outside a handler, in one that has read its fault, and in one that has not. -/
theorem witness_TrapEntry : [(false, false), (true, true), (true, false)].all (fun p =>
    let x := (handled p.1 p.2).t
    x.run.isSome && decide (x.view.trapv ≠ 0) && decide (causeIllegalOp ≠ causeResumeLost) && (x.lowestSeg x.regs.ctl.ctxn == some 0) &&
      (!x.regs.ctl.hnd || x.armed || decide (x.regs.ctl.bank2.cause.extractLsb' 0 8 = 0))) = true := by decide +kernel

/-- `HandlerReturn`: slots owed by the bundle at the resume address, and none. -/
theorem witness_HandlerReturn_owed :
    let s := (handled true true).modT fun x => { x with owed := [⟨false, 0x8000, ⟨0x8010, none, none⟩⟩] }
    (s.t.owed.find? fun o => o.hnd == false && o.pc == 0x8000).isSome = true ∧
      (handled true true).t.owed.find? (fun o => o.hnd == false && o.pc == 0x8000) = none ∧
      (handled true true).t.accs.any (·.src.ctl.hnd) = false := by decide +kernel

/-- `HandlerReturn`: an even and an odd resume address, a word with REPLAY of the last slot and of one past it, and one that
keeps handler mode. -/
theorem witness_HandlerReturn : (handled true true).src.ctl.hnd = true ∧ (0x8001 : Word).getLsbD 0 = true ∧
    (((handled true true).wrS 58 0x8000).rdS 58).getLsbD 0 = false ∧ (0x7400 : Word).getLsbD 10 = true ∧
    ((0x7400 : Word).extractLsb' 12 4).toNat ≤ 7 ∧ 7 < ((0x8400 : Word).extractLsb' 12 4).toNat ∧ (0x100 : Word).getLsbD 8 = true ∧
    ((handled true true).rdS 57).getLsbD 8 = false ∧ ((handled true true).rdS 57).getLsbD 10 = false ∧
    (handled true true).t.banked.isSome = true ∧
    ∃ p, (handled true true).codeAt (handled true true).cur ((handled true true).regs.pc) = .ok p :=
  ⟨by decide +kernel, by decide, by decide +kernel, by decide, by decide, by decide, by decide, by decide +kernel, by decide +kernel,
    by decide +kernel, ok_of_isSome (by decide +kernel)⟩

/-- `equipped` with the save area of context 0 in its mapped page, and slot 0 holding what is given. -/
def saving (slot : Option SaveSlot) : State := equipped.modCtx 0 fun c => { c with
  slots := match slot with
    | some x => [(0, x)]
    | none => [] }

/-- The save area with every slot taken. -/
def savedFull : State := equipped.modCtx 0 fun c => { c with slots := (List.range 1024).map fun i => (BitVec.ofNat 10 i, .beside) }

theorem freeSlot_savedFull (x : Context) :
    freeSlot { x with slots := (List.range 1024).map fun i => (BitVec.ofNat 10 i, .beside) } = none := by
  simp only [freeSlot, List.find?_eq_none, List.mem_map]
  rintro _ ⟨j, hj, rfl⟩
  simpa using ⟨j, by simpa using hj, rfl⟩

/-- `SystemCallAndSave`: a task at depth 0 outside a handler and a gang, a free slot and its writes. -/
theorem witness_SystemCallAndSave : (saving none).t.run.isSome = true ∧ (saving none).spawnHold = false ∧
    (saving none).src.ctl.holdDepth = 0 ∧ (saving none).src.ctl.hnd = false ∧ placedRec.gm = false ∧ (saving none).member = false ∧
    freeSlot ((saving none).ctx 0) = some 0 ∧ (saving none).t.mx.ops = [] ∧
    ((saving none).slotPut 0 0 (slotVa ((saving none).ctx 0) 0) [(0, placedRec.bytes), (0x900, [])]).toOption.isSome = true := by
  decide +kernel

/-- `SystemCallAndSave`: the slot a task takes, and the writes of a `SAVEX` into it. -/
theorem witness_SystemCallAndSave_savex : (saving none).t.run.any (fun r => r.saving == none) = true ∧
    (saving none).saveSlot 0 0 = some 0 ∧
    ((saving none).slotPut 0 0 (slotVa ((saving none).ctx 0) 0) (((saving none).savexImage 4 0))).toOption.isSome = true := by
  decide +kernel

/-- `SystemCallAndSave`: no free slot. -/
theorem witness_SystemCallAndSave_full : freeSlot (savedFull.ctx 0) = none := freeSlot_savedFull _

/-- `SystemCallAndSave`: the handle of a slot that holds a task's state, and in system mode that of a `SYSC` record. -/
theorem witness_SystemCallAndSave_handles :
    let a := (saving (some (.state 0))).modCtl fun c => { c with sys := false }
    let b := saving (some (.sysc placedRec 0 0 4))
    (match a.restTarget (slotHandle false false 0 0) with
      | some (.state k t) => k == 0 && t == 0
      | _ => false) = true ∧ a.t.inFlight = false ∧ a.src.ctl.holdDepth = 0 ∧
    (match b.restTarget (slotHandle false true 0 0) with
      | some (.record c k r h o) => c == 0 && k == 0 && r == placedRec && h == 0 && o == .queue 0 4
      | _ => false) = true := by
  decide +kernel

/-- A part of a slot can be read where its addresses translate. -/
def partOk (s : State) (o n : Nat) : Bool :=
  (State.gPlan 0 0 .read false s (gPieces (slotVa (s.ctx 0) 0 + BitVec.ofNat 48 o) n)).toOption.isSome

theorem slotPart_of_ok {s : State} {o n : Nat} (h : partOk s o n = true) (l : List Host.Cell) :
    ∃ k, s.slotPart 0 0 (slotVa (s.ctx 0) 0) o n l = .ok k := by
  obtain ⟨p, hp⟩ := ok_of_isSome h
  exact ⟨_, by rw [State.slotPart, hp]⟩

/-- A slot can be read where all its addresses translate. -/
theorem slotGet_of_ok {s : State} (h : partOk s 0 0x6000 = true)
    (h' : ∀ i ∈ List.range 8, partOk s (0x6000 + 28672 * i) 28672 = true) : ∃ l, s.slotGet 0 0 (slotVa (s.ctx 0) 0) = .ok l := by
  obtain ⟨k, hk⟩ := slotPart_of_ok h []
  rw [State.slotGet, hk]
  have key : ∀ (is : List Nat), (∀ i ∈ is, i ∈ List.range 8) → ∀ k, ∃ l, is.foldl (fun r i => match r with
      | .error e => .error e
      | .ok l => s.slotPart 0 0 (slotVa (s.ctx 0) 0) (0x6000 + 28672 * i) 28672 l) (Except.ok (ε := GFail) k) = .ok l := by
    intro is
    induction is with
    | nil => exact fun _ k => ⟨k, rfl⟩
    | cons i is ih =>
      intro hi k
      obtain ⟨l, hl⟩ := slotPart_of_ok (h' i (hi i (by simp))) k
      simp only [List.foldl_cons, hl]
      exact ih (fun j hj => hi j (by simp [hj])) l
  exact key _ (fun i hi => (List.mem_filter.mp hi).1) k

/-- `SystemCallAndSave`: the image of the slot is read; the tile that saved it is the one that restores it. -/
theorem witness_SystemCallAndSave_image : ∃ l, (saving (some (.state 0))).slotGet 0 0 (slotVa ((saving (some (.state 0))).ctx 0) 0) =
    .ok l := slotGet_of_ok (by decide +kernel) (by decide +kernel)

/-! Tasks. -/

/-- `equipped` with a spawn image in `s8` to `s15`: entry 0x1000, anywhere, handle as given. -/
def imaged (entry w1 h : Word) : State := ((equipped.wrS 8 entry).wrS 9 w1).wrS 10 h

/-- `SpawnResults`: an image that is right, with no parent and with one; an odd entry; no tile. -/
theorem witness_SpawnResults : (Instr.spawn 8).wf = true ∧ (imaged 0x1000 0 0).spawnsFull = false ∧
    (imaged 0x1000 0 0).edgeWaits = false ∧ (imaged 0x1000 0 0).member = false ∧
    imgDefect 0 0 ((imaged 0x1000 0 0).group 8)[0] ((imaged 0x1000 0 0).group 8)[1] = none ∧
    imgDefect 0 0 ((imaged 0x1001 0 0).group 8)[0] ((imaged 0x1001 0 0).group 8)[1] = some (causeMisalign, 0x1001) ∧
    imgDefect 0 3 0x1000 0x2000 = some (causeProt, 0x2000) ∧
    (imaged 0x1000 0 0).foreignQuorum 0 = false ∧ (imaged 0x1000 0 0x30001).foreignQuorum 0x30001 = false := by decide +kernel

/-- The image of a gang of two, and a table of no pipe, in the first 144 bytes of the scratchpad. -/
def gangBytes : List Byte := leBytes 64 0x1000 ++ leBytes 64 0x2000 ++ leBytes 16 0

/-- `equipped` with bytes in the scratchpad of its tile. -/
def scratch (l : List Host.Cell) : State := equipped.modT fun x => { x with sp := l }

/-- `SpawnResults`: a gang of two whose images lie in the scratchpad. -/
theorem witness_SpawnResults_gang : (0 : Word).toNat % 64 = 0 ∧ readsOk (scratch [(1, 0x10), (65, 0x20)]) .sp [(0, 64 * 2 + 16)] = true ∧
    (scratch [(1, 0x10), (65, 0x20)]).spRead 0 0 true 0 144 = gangBytes ∧
    (∀ i, i < 2 → (gangWord gangBytes i 0).getLsbD 0 = false) ∧
    imgDefect 0 0 (gangWord gangBytes 0 0) (gangWord gangBytes 0 1) = none ∧
    2 ≤ (imgTiles 0 0 (gangWord gangBytes 0 1)).length ∧ pipesBad (gangBytes.drop 128) 2 = false := by decide +kernel

/-- A join record without members. -/
def emptyJoin : JoinRec := ⟨.open, 0, 0, 0, 0, 0, 0, 0, 0, none, false, none⟩

/-- `equipped` with join 0x00010007 open for the task, as given. -/
def joined (j : JoinRec) : State :=
  (equipped.modCluster 0 fun k => { k with joins := [(1, ⟨7, some j⟩)] }).modT fun x => { x with
    run := x.run.map fun r => { r with openJoins := [0x00010007] } }

/-- `JoinOpening`: no successor and one, room for a join and none, and a block of four words for an open join. -/
theorem witness_JoinOpening : equipped.t.run.isSome = true ∧ (Instr.jinit 4 0).wf = true ∧ (Instr.jinit 4 8).wf = true ∧
    equipped.member = false ∧ (equipped.cluster 0).freeJoins.isEmpty = false ∧ equipped.openJoins.length < 8 ∧
    (8 ≤ (equipped.modT fun x => { x with
      run := x.run.map fun r => { r with openJoins := List.replicate 8 0x00010007 } }).openJoins.length) ∧
    (8 : SReg) ≠ 0 ∧ imgDefect 0 0 ((imaged 0x1000 0 0).group 8)[0] ((imaged 0x1000 0 0).group 8)[1] = none := by decide +kernel

/-- The block of a quorum that needs all its members, with a buffer of 4 elements at offset 0x1000. -/
def quorumBytes : List Byte := leBytes 8 0x100 ++ leBytes 8 0x400001000 ++ leBytes 8 0 ++ leBytes 8 0

/-- The block as `QINIT` reads it. -/
def quorumBlock : QBlock :=
  let word (k : Nat) : Word := BitVec.ofNat 64 (leNat ((quorumBytes.drop (8 * k)).take 8))
  ⟨word 0, word 1, word 2, word 3⟩

/-- `joined` with the block at the start of the scratchpad. -/
def quorumState : State := (joined emptyJoin).modT fun x => { x with sp := [(1, 1), (9, 0x10), (12, 4)] }

/-- `JoinOpening`: a join that `QINIT` may take, and the block. -/
theorem witness_JoinOpening_quorum : ((quorumState.wrS 4 0x00010007).rdS 4).extractLsb' 0 32 = (0x00010007 : BitVec 32) ∧
    quorumState.openJoins.contains 0x00010007 = true ∧ quorumState.joinOf 0 0x00010007 = some emptyJoin ∧
    emptyJoin.quorum.isNone = true ∧ emptyJoin.pending = 0 ∧ quorumState.member = false ∧
    readsOk quorumState .sp [(0, 32)] = true ∧ quorumState.spRead 0 0 true 0 32 = quorumBytes ∧ (0 : Word).toNat % 8 = 0 ∧
    quorumBlock.reserved = false ∧ (quorumBlock.quorum 0).illegal = false ∧
    quorumState.spWaits 0 0 (quorumBlock.quorum 0).cbase.toNat (64 + 4 * (quorumBlock.quorum 0).len.toNat) = false ∧
    Memory.wf (quorumState.tile 0).sp = true := by decide +kernel

/-- `equipped` with a queued task of priority 7 that may run on the tile. -/
def outranked : State := equipped.modCluster 0 fun k => { k with
  queue := [⟨Rec.plain (#v[0, 0x700, 0, 0, 0, 0, 0, 0]) 9 none, 5, 0, 0⟩] }

/-- `SuspensionResults`: nothing to suspend for and a reason, an empty commit buffer, an open join of the task, and a gang. -/
theorem witness_SuspensionResults : equipped.spawnHold = false ∧ equipped.src.ctl.hnd = false ∧ equipped.src.ctl.holdDepth = 0 ∧
    placedRec.gm = false ∧ equipped.yieldDue equipped.cur = false ∧ outranked.yieldDue outranked.cur = true ∧
    (joined emptyJoin).openJoins.contains 0x00010007 = true ∧ (joined emptyJoin).joinOf 0 0x00010007 = some emptyJoin ∧
    ((pipedState 0 1 0).gangOf 0).isSome = true ∧ (pipedState 0 1 0).t.run.any (·.record.gm) = true ∧
    (pipedState 0 1 0).spawnHold = false := by decide +kernel

theorem witness_SuspensionResults_keep : ∃ s1 slot, outranked.keepCommit outranked.cur outranked.ctxn ⟨[], []⟩ = .ok s1 slot :=
  ⟨_, _, rfl⟩

/-- A task at a hold depth. -/
def heldState (d : BitVec 3) : State := base.modCtl fun c => { c with holdDepth := d }

/-- `HoldAndEnd`: depths 0, 1, 6 and 7, and a task with nothing on its way. -/
theorem witness_HoldAndEnd : base.linesWait base.ctxn base.t.commit = false ∧ (heldState 0).src.ctl.holdDepth = 0 ∧
    (heldState 1).src.ctl.holdDepth = 1 ∧ (heldState 6).src.ctl.holdDepth ≠ 7 ∧ (heldState 7).src.ctl.holdDepth = 7 ∧ base.spawnHold = false ∧ base.t.mx.ops = [] ∧ base.spawnsOut base.cur = 0 := by
  decide +kernel

/-- `SleepWakeInvalidation`: system mode, power, nothing on its way, and no provisional line in the scope. -/
theorem witness_SleepWakeInvalidation : base.src.ctl.sys = true ∧ base.phase = .up ∧ base.t.ctlPending = false ∧
    (∀ x ∈ instanceTiles base.cur .cluster, (base.tile x).ctlPending = false) ∧ base.provisionalIn base.cur .cluster .all = false ∧
    (base.tile 1).power.st = .off ∧ (base.tile 1).power.waking = none ∧ (base.tile 1).peat.held = false := by decide +kernel

/-! Engines and the matrix array. -/

/-- A descriptor of rows: base, space, FMT, FK, and two counts with their strides. -/
def desc (base : BitVec 48) (space : BitVec 2) (fmt : BitVec 4) (fk : Bool) (c0 : BitVec 16) (d0 : BitVec 24) (c1 : BitVec 16)
    (d1 : BitVec 24) : Desc :=
  (0#40 ++ 0#40 ++ d1 ++ c1 ++ d0 ++ c0 ++ 0#24 ++ 0#17 ++ BitVec.ofBool fk ++ fmt ++ space ++ base : BitVec 256)

/-- Sixteen words of I32 in the scratchpad, and in global memory. -/
def words (space : BitVec 2) : Desc := desc 0x400 space 6 false 16 4 1 64

/-- Rows of 1,024 bytes in the scratchpad. -/
def latents : Desc := desc 0x400 0 3 false 1024 1 4 1024

/-- `EngineCommands`: descriptors that pass the checks, as the scratchpad or memory destination that each form asks for. -/
theorem witness_EngineCommands_copies : copyOk (words 0) (words 1) = true ∧ copyOk (words 1) (words 0) = true ∧ dSpace (words 0) = 0 ∧
    dSpace (words 1) = 1 ∧ equipped.member = false ∧ equipped.unsafeAt .sp (copyTargets (words 0) (words 1)) = none ∧
    (dBase (words 0)).getLsbD 26 = false ∧ (255 : Word).toNat < 256 ∧
    equipped.unsafeAt .sp ((maskTiles 0 0 255).flatMap fun t => (copyTargets (words 0) (words 1)).map fun e => (windowAddr t e.1, e.2)) =
      none := by decide +kernel

/-- `EngineCommands`: 1 and 64 rows, a destination of rows, an even pair, a list, and the operands of the other forms. -/
theorem witness_EngineCommands_rows : rowCount 0x100000000 = 1 ∧ rowCount 0x4000000000 = 64 ∧ dOk latents false true = true ∧
    dSpace latents = 0 ∧ rowsOk latents = true ∧
    equipped.unsafeAt .sp ((List.range 64).map fun j => (rowAt latents j, 1024)) = none ∧
    [Instr.gath 1 2 62 true false, .gathList 1 2 3 62 false true, .kvput 1 2 62].all Instr.wf = true ∧
    dOk (words 1) false false = true ∧ dSpace (words 1) ≠ 2 ∧ (63 : Word).toNat < 64 ∧ dFk (words 0) = false ∧
    ETy.ofCode (dFmt (words 0)) = some .i32 ∧ collTy .i32 = true ∧ collOk 0x0201 = true ∧ collOk 0x3F4004 = true := by decide +kernel

/-- `EngineCommands`: the subcommands of `MUPD`, with a source of one line and an offset that is a multiple of 64 and one that
is not. -/
theorem witness_EngineCommands_updates : [Instr.mupdBegin 1 2, .mupdCommit 55 2, .mupdAbort 1 2, .mupdWrite 1 3 2].all Instr.wf = true ∧
    dTotal (words 1) * dBits (words 1) % 512 = 0 ∧ ((base.wrS 2 0x40).rdS 2).toNat % 64 = 0 ∧ ((base.wrS 2 0x41).rdS 2).toNat % 64 ≠ 0 := by
  decide +kernel

/-- The command of a queue, to be given its number. -/
def command (i : Instr) (count : BitVec 54) : EngCmd :=
  { instr := i, da := words 0, db := words 1, s0 := 0, s1 := 0, token := 20, count := count, order := 0, task := 0, live := true
    cancelled := false, ctx := 0, hnd := false, started := false, reached := 0, leftNs := 0, buf := none, scaled := 0, kv := none
    result := none, parked := false }

/-- `equipped` with one queue as given. -/
def queued (q : QueueId) (k : EngQueue) : State := equipped.modT fun x => x.modQueue q fun _ => k

/-- `EngineCommands`: a queue that is full and one with one place. -/
theorem witness_EngineCommands_full :
    16 ≤ ((queued .cpy ⟨List.replicate 16 (command (.cpy 1 2 3) 1), 16, 0, []⟩).t.queue .cpy).cmds.length ∧
    ((queued .cpy ⟨List.replicate 15 (command (.cpy 1 2 3) 1), 15, 0, []⟩).t.queue .cpy).cmds.length < 16 := by decide +kernel

/-- `TimelineResults`: a number reached with its record and without, one not reached, one not issued, and one of another
tile. -/
theorem witness_TimelineResults :
    let s := queued .cpy ⟨[command (.cpy 1 2 3) 3], 3, 2, [⟨2, 5, 7⟩]⟩
    s.seqOk .cpy 2 = true ∧ s.t.reached .cpy 2 = true ∧ ((s.t.queue .cpy).recOf 2).isSome = true ∧
    s.seqOk .cpy 1 = true ∧ s.t.reached .cpy 1 = true ∧ ((s.t.queue .cpy).recOf 1).isNone = true ∧
    s.seqOk .cpy 3 = true ∧ s.t.reached .cpy 3 = false ∧ s.seqOk .cpy 4 = false ∧ s.seqOk .cpy 0x0100000000000002 = false := by
  decide +kernel

/-- An operand of rows of 64 elements of I8, of BF16 and of SX4, in global memory. -/
def operand (fmt : BitVec 4) : Desc := desc 0 1 fmt true 64 1 64 64

/-- `equipped` with both latches holding I8 columns and the Steep slots holding SX4 ones. -/
def loaded : State := equipped.modT fun x => { x with mx := { x.mx with
  w := .ofFn fun i => { x.mx.w[i] with full := true, fmt := 0 }
  st := .ofFn fun i => { x.mx.st[i] with valid := true, fmt := 5 } } }

/-- `MatrixIssue`: an operand in the format of its latch and one in another, a chain of slots, and a parked accumulator. -/
theorem witness_MatrixIssue : loaded.t.issue.replay = false ∧ operandOk (operand 0) 1 = true ∧ operandOk (operand 5) 64 = true ∧
    dSpc (operand 0) ≠ .cd ∧ dCount (operand 0) 0 ≤ mfKmax 0 ∧ dCount (operand 5) 0 ≤ 4 * mfKmax 5 ∧ dCount (operand 5) 0 ≤ 16 * 4 ∧
    loaded.t.chainBusy 0 4 = false ∧ loaded.t.badSlot 5 0 4 = none ∧ (loaded.t.mx.w[0]).full = true ∧
    (loaded.t.mx.w[0]).fmt = dFmt (operand 0) ∧ (loaded.t.mx.w[0]).fmt ≠ dFmt (operand 5) ∧ loaded.t.mx.spill.getLsbD 7 = false ∧
    loaded.t.mmas = [] ∧ loaded.t.mx.gated &&& loaded.src.ctl.ashape = 0 ∧
    loaded.cdStop (loadBytes (desc 0x400 2 0 true 64 1 1 64) 1) = none := by decide +kernel

theorem witness_MatrixIssue_parked : (loaded.modT fun x => { x with mx := { x.mx with spill := 0x80 } }).t.mx.spill.getLsbD 7 = true := by
  decide +kernel

/-- `MatrixIssue`: an `MMA` in flight whose one row can be read ahead, one that is parked, and two. -/
theorem witness_MatrixIssue_second :
    let m := loaded.newOp (.mma 7 0 false 0 0 false) (desc 0x400 0 0 true 4 1 64 64) 1
    let s (l : List MxOp) : State := loaded.modT fun x => { x with mx := { x.mx with ops := l } }
    (s [m]).t.mmas = [m] ∧ m.parked = false ∧ ((s [m]).readAhead 0 m).isSome = true ∧ { m with parked := true }.parked = true ∧
      2 ≤ (s [m, { m with order := 9 }]).t.mmas.length := by decide +kernel

/-- `MatrixControl`: a slot mask and its images, and an `MDRAIN` of one row without vectors to the scratchpad, and to SX8 with
an aligned block. -/
theorem witness_MatrixControl : (Instr.mshape 15).wf = true ∧ equipped.t.mx.spill.getLsbD 3 = false ∧ equipped.t.mx.ops = [] ∧
    (Instr.steepld .i8 12 8).wf = true ∧ equipped.t.issue.replay = false ∧ (0x400 : Word).toNat % 64 = 0 ∧
    (0x400 : Word).toNat + 1 * mfImageBytes (MFmt.code .i8) ≤ 0x1780000 ∧
    dOk (desc 0x400 0 3 true 64 2 64 128) false true = true ∧ ssDrainCnt 0x10000000000 = 1 ∧ ssDrainCnt 0x400000000000 = 64 ∧
    (dSx (desc 0x400 0 3 true 64 2 64 128)).isSome = false ∧ (0x10000000000 : Word).extractLsb' 32 3 = 0 ∧
    equipped.unsafeAt .sp (drainRowTargets (desc 0x400 0 3 true 64 2 64 128) 0xF 0) = none ∧
    epiReads 0x10000000000 = [] ∧ epiReads 0x10700001000 ≠ [] ∧ readsOk equipped .sp (epiReads 0x10700001000) = true ∧
    equipped.drainMode .dyn = .rne := by decide +kernel

/-- `MatrixControl`: the Caddy image of one slot, and the words that a row of a drain writes. -/
theorem witness_MatrixControl_bytes : equipped.cdStop [(0x400, 1 * mfImageBytes (MFmt.code .i8))] = none ∧
    (∀ e ∈ drainRowTargets (desc 0x400 0 3 true 64 2 64 128) 0xF 0, equipped.spWaits 0 0 e.1.toNat e.2 = false) := by decide +kernel

/-- `MatrixRow`: the first row of an `MMA`, and the last, where it can be read. -/
theorem witness_MatrixRow :
    let m := equipped.newOp (.mma 7 0 false 0 0 true) (desc 0x400 0 0 true 4 1 64 64) 64
    let s := loaded.modT fun x => { x with mx := { x.mx with ops := [m] } }
    let u := loaded.modT fun x => { x with mx := { x.mx with ops := [{ m with done := 63 }] } }
    s.t.mmas = [m] ∧ s.rowsRun 0 = true ∧ m.parked = false ∧ m.done < m.count ∧ m.count = 64 ∧ s.t.reloadsBefore 0 = false ∧
      s.t.rowPoisoned 7 m.ashape m.done = false ∧ (s.nextRow 0 m).toOption.isSome = true ∧
      (u.nextRow 0 { m with done := 63 }).toOption.isSome = true := by decide +kernel

/-- `MatrixRow`: the `MMA` stands behind nothing; a NaN, an infinity of each sign, and products of a common unit. -/
theorem witness_MatrixRow_entries :
    let m := equipped.newOp (.mma 7 0 false 0 0 true) (desc 0x400 0 0 true 4 1 64 64) 64
    (loaded.modT fun x => { x with mx := { x.mx with ops := [m] } }).mxStands 0 m = false ∧
    [Num.nan false].any Num.isNan = true ∧ [Num.inf true].any (Num.isInf true) = true ∧
    [Num.inf true].any (Num.isInf false) = false ∧ (readNum .a56 0).isNan = false ∧
    ([(true, 3, 1), (false, 1, 2)].map fun x : Bool × Nat × Nat => Num.fin x.1 x.2.1 (-(4 : Int) + x.2.2)).length ≤ 16 := by
  decide +kernel

/-- A drain of rows to BF16 in the scratchpad over one band, and `equipped` with it in flight. -/
def draining : MxOp :=
  { equipped.newOp (.mdrain 7 true false .rne) (desc 0x400 0 12 false 64 2 64 128) 0x10000000000 with ashape := 1 }

def drainState : State := equipped.modT fun x => { x with mx := { x.mx with ops := [draining] } }

/-- `MatrixControl`: a drain whose epilogue block can be read, and whose rows wait for nothing and can be written. -/
theorem witness_MatrixControl_rows : drainState.readBehind 0 draining = false ∧ drainState.writeBehind 0 draining = false ∧
    draining.done < draining.count ∧ drainState.t.rowPoisoned 7 draining.ashape 0 = false ∧
    drainTy draining.desc = some .bf16 ∧ dBits draining.desc = 16 ∧ draining.ss.extractLsb' 32 3 = 0 := by decide +kernel

/-- A scratchpad operand that waits for nothing, with no poisoned word, is read where no engine has a command. -/
theorem ok_of_mxReads_sp {s : State} {t : TileIx} {m : MxOp} {a : Word} {n : Nat} (hw : s.spWaits t (s.ctxOn t) a.toNat n = false)
    (hp : s.spPoisoned t (s.ctxOn t) a.toNat n = none)
    (he : (allTiles.any fun u => (s.tile u).eng.any fun q => q.cmds.any fun c => !(c.midChunk u).isEmpty) = false) :
    (State.mxReads t .sp [(a, n)] s m).toOption.isSome = true := by
  have hk : ∀ k : TileIx, ∀ b, s.chunkBusy k.toNat b = false := fun k b => by
    simp only [List.any_eq_false, Vector.any_eq_false, Bool.not_eq_true, Bool.not_eq_false', List.isEmpty_iff] at he
    rw [State.chunkBusy, Bool.or_eq_false_iff, Bool.and_eq_false_iff, decide_eq_false_iff_not]
    refine ⟨?_, .inl (by have := k.isLt; omega)⟩
    simp only [List.any_eq_false, Vector.any_eq_false, Bool.not_eq_true]
    exact fun u hu i hi c hc => by simp [he u hu i hi c hc]
  have hc : s.chunksBusy m ((s.spLocs t (s.ctxOn t) a.toNat n).2.map fun o => o.map fun off => ((s.spLocs t (s.ctxOn t) a.toNat n).1.toNat, off)) = false := by
    simp only [State.chunksBusy, List.any_eq_false, List.mem_map]
    rintro _ ⟨_ | off, -, rfl⟩ <;> simp [hk]
  simp [State.mxReads, State.mxBytes, hw, hp, hc, Except.toOption]

/-- `MatrixControl`: the bias of a drain with an epilogue, its only block, is read. -/
theorem witness_MatrixControl_epilogue :
    epiReads 0x10100001000 = [(0x1000, 256)] ∧
    (State.mxReads 0 .sp [(0x1000, 256)] drainState draining).toOption.isSome = true :=
  ⟨by decide +kernel, ok_of_mxReads_sp (by decide +kernel) (by decide +kernel) (by decide +kernel)⟩

theorem witness_MatrixControl_write : (drainState.drainWrite 0 draining 0 true false .rne 0).toOption.isSome = true := by
  decide +kernel

/-! Steps of the device. -/

/-- A wait of the task of a tile at an instruction, with so long left. -/
def waitAt (i : Instr) (left : Nat) : Wait :=
  ⟨i, { Issue.idle with src := some equipped.regs, size := 6, slot := 3 }, [], true, left, 0, 0, .none⟩

/-- A state with the task on its tile waiting. -/
def State.waiting (s : State) (i : Instr) (left : Nat) : State := s.modT fun x => { x with wait := some (waitAt i left) }

/-- `WaitEvents`: a load that waits for a full word, ready, and one that has no time left. -/
theorem witness_WaitEvents_tags :
    let w := waitAt (.ldfe .sp 4 0 .d 0) 0
    let s := State.waiting equipped (.ldfe .sp 4 0 .d 0) 0
    s.phase = .up ∧ s.t.wait = some w ∧ s.t.waiting w = true ∧ s.t.killDue = false ∧ w.rest = [] ∧ w.issue.pend = none ∧
      feReq 0 w.src w.instr = some ⟨0, 0, 0, 8, true⟩ ∧ s.feReady ⟨0, 0, 0, 8, true⟩ = true ∧ s.spPoisoned 0 0 0 8 = none ∧ w.leftNs = 0 := by decide +kernel

theorem witness_WaitEvents_first :
    (State.waiting equipped (.ldfe .sp 4 0 .d 0) 0).feBehind ⟨0, 0, 0, 8, true⟩ (some 0) = false := by decide +kernel

/-- `WaitEvents`: a put that has room, a get that has an entry, and a watchdog that has run out. -/
theorem witness_WaitEvents_pipes :
    let s := State.waiting (pipedState 0 1 7) (.pipep 4 2) 0
    let u := State.waiting (pipedState 1 0 1) (.pipeg 4 2) 9
    s.phase = .up ∧ s.t.waiting (waitAt (.pipep 4 2) 0) = true ∧ s.t.killDue = false ∧ s.pipe 0 2 = some ⟨0, 1, List.replicate 7 0⟩ ∧ s.t.watched (waitAt (.pipep 4 2) 0) = true ∧
      pipeCode (.pipep 4 2) = some 2 ∧ u.pipe 0 2 = some ⟨1, 0, [0]⟩ ∧ u.t.waiting (waitAt (.pipeg 4 2) 9) = true := by decide +kernel

/-- `WaitEvents`: a gang of which every running member stands at a `BARG`, and at a `YIELD` without a reason. -/
theorem witness_WaitEvents_gangs :
    let g : Gang := ⟨0, 0, 0, 2, [(0, 0)], [(2, ⟨0, 1, []⟩)]⟩
    let s := State.waiting (pipedState 0 1 0) .barg 9
    let u := State.waiting (pipedState 0 1 0) .yield 9
    s.phase = .up ∧ (s.cluster 0).gangsOf 0 = [g] ∧ s.episodeDone g 0 = true ∧ u.gangAt g .yield = true ∧
      (∀ p ∈ g.tiles, u.hasParked p.2 .suspend = false ∧ u.yieldDue p.2 = false) ∧
      ([0] : List TileIx).Nodup ∧ (s.tile 0).wait.any (fun w => w.rest.isEmpty && w.issue.pend.isNone) = true := by decide +kernel

/-- `WaitEvents`: a gang with a reason to suspend and nothing in its pipe. -/
theorem witness_WaitEvents_reason :
    let u := (State.waiting (pipedState 0 1 0) .yield 9).modCluster 0 fun k => { k with queue := (outranked.cluster 0).queue }
    u.gangAt ⟨0, 0, 0, 2, [(0, 0)], [(2, ⟨0, 1, []⟩)]⟩ .yield = true ∧ u.yieldDue 0 = true := by decide +kernel

/-- `WaitEvents`: an asynchronous cause at a boundary, and an overrun of the hold timer. -/
theorem witness_WaitEvents_boundary :
    let s := base.modT fun x => { x with run := x.run.map fun r => { r with async := [⟨causeProt, 0, 9, false, false, 0, 0⟩] } }
    let u := base.modCtl fun c => { c with holdDepth := 1, holdLeft := 0 }
    s.atBoundary 0 = true ∧ s.t.killDue = false ∧ s.t.run.isSome = true ∧ u.atBoundary 0 = true ∧ u.t.killDue = false ∧
      u.t.overrunNext = true ∧ s.t.replay = none ∧ s.t.asyncDue = some ⟨causeProt, 0, 9, false, false, 0, 0⟩ := by decide +kernel

/-- `WaitEvents`: an overrun that has lapsed before its boundary, and one that has not. -/
theorem witness_WaitEvents_lapsed :
    let s := base.modT fun x => { x with run := x.run.map fun r => { r with async := [⟨causeHoldOverrun, 0, 11, false, false, 0, 0⟩] } }
    s.t.asyncDue.any (fun f => f.cause == causeHoldOverrun) = true ∧ s.t.holdOverrun = false ∧
      (s.modCtl fun c => { c with holdDepth := 1, holdLeft := 0 }).t.holdOverrun = true := by decide +kernel

/-- A command that has started, with its outcome or without. -/
def running (i : Instr) (o : Option EngOut) : EngCmd := { command i 3 with started := true, result := o }

/-- `equipped` with one command in a queue. -/
def working (q : QueueId) (c : EngCmd) : State := queued q ⟨[c], 3, 2, []⟩

/-- `EngineEvents`: a head command that has not started, one cancelled, one with its outcome, and its task and token. -/
theorem witness_EngineEvents_queue :
    let a := working .cpy (command (.cpy 1 2 3) 3)
    let b := working .cpy { command (.cpy 1 2 3) 3 with cancelled := true }
    let c := working .cpy (running (.cpy 1 2 3) (some (engCode 0)))
    a.engineRuns 0 = true ∧ (a.t.queue .cpy).next = some (command (.cpy 1 2 3) 3) ∧ a.t.quietBefore 0 = true ∧ (a.t.queue .cpy).cmds = [command (.cpy 1 2 3) 3] ∧ (command (.cpy 1 2 3) 3).started = false ∧
      (b.t.queue .cpy).cmds.all (fun e => e.cancelled && !e.started) = true ∧ c.engineRuns 0 = true ∧
      c.t.cmdLive (running (.cpy 1 2 3) (some (engCode 0))) = true ∧ (20 : SReg) ≠ 0 ∧ (20 : SReg).toNat < 56 := by decide +kernel

/-- `EngineEvents`: a tagged stream at the end of its watchdog, a copy to a peer, and a machine that has started. -/
theorem witness_EngineEvents_streams :
    (working .strm (running (.strmTag 1 2 3) none)).t.started .strm = some (running (.strmTag 1 2 3) none) ∧
    (running (.strmTag 1 2 3) none).leftNs = 0 ∧ (running (.strmTag 1 2 3) none).parked = false ∧
    (working .cpy (running (.cpyPeer 1 2 3 4) none)).t.started .cpy = some (running (.cpyPeer 1 2 3 4) none) ∧
    State.booted { base with port := { base.port with ready0 := 3 } } = true := by decide +kernel

/-- `EngineEvents`: a tagged stream whose next word is full, so that it waits. -/
theorem witness_EngineEvents_tags : (working .strm (running (.strmTag 1 2 3) none)).tagWaits 0 = true ∧
    (working .strm (running (.strmTag 1 2 3) none)).engineRuns 0 = true := by decide +kernel

/-- A member of a collective of two over a cluster. -/
def member (rank : Word) : EngCmd := { running (.coll 1 2 3 4 .bcast) none with s0 := 0x201 + 0x10000 * rank }

/-- Both members of it, on tiles 0 and 1. -/
def collective : State :=
  (working .coll (member 0)).modTile 1 fun x => { (x.modQueue .coll fun _ => ⟨[member 1], 3, 2, []⟩) with
    power := { x.power with st := .on }, segs := .ofFn fun _ => ⟨some 0, some 0, false⟩, tlb := equipped.t.tlb }

/-- Both members of it by rank. -/
def bothRanks : List (Option (TileIx × EngCmd)) := [some (0, member 0), some (1, member 1)]

/-- `EngineEvents`: a collective that times out, every rank of which has arrived, with the results of its members, and one
whose members disagree. -/
theorem witness_EngineEvents_collective : collective.t.started .coll = some (member 0) ∧ (member 0).leftNs = 0 ∧
    collective.engineRuns 0 = true ∧ collective.t.collectives.find? (fun c => (collective.ranks 0 c).all (·.isSome)) = some (member 0) ∧
    collective.ranks 0 (member 0) = bothRanks ∧ collective.collRuns bothRanks = true ∧ collAgrees (bothRanks.filterMap id) 2 = true ∧
    collAgrees [(0, member 0), (1, { member 1 with instr := .coll 1 2 3 4 .gather })] 2 = false ∧
    (match State.allSources (member 0) bothRanks collective with
      | .ok (s1, srcs) => (State.allPut srcs ((List.range 2).zip bothRanks) s1).toOption.isSome
      | .error _ => false) = true := by decide +kernel

/-- `EngineEvents`: a collective of the link domain of which only this tile has arrived, with no peer and with one. -/
theorem witness_EngineEvents_links :
    let c := { member 0 with s0 := 0x204 }
    let s := working .coll c
    s.engineRuns 0 = true ∧ s.t.collectives.find? (fun e => (s.ranks 0 e).all (·.isSome)) = none ∧
      s.t.collectives.find? (fun e => collLevel e.s0 == 4) = some c ∧ s.collRuns (s.ranks 0 c) = true ∧ (s.ctx 0).peers = 0 ∧
      ((s.modCtx 0 fun k => { k with peers := 2 }).ctx 0).peers ≠ 0 := by decide +kernel

/-- `equipped` with so many free pages of its context on die 0, slab 0x00010007 of so many pages moving or not, and a command
about it. -/
def slabbed (i : Instr) (s0 : Word) (free : BitVec 32) (y : Slab) (reached : Nat) : State :=
  ((working .gath { running i none with s0 := s0, reached := reached }).modCtx 0 fun c => { c with kvFree := c.kvFree.set 0 free }).modDie 0
    fun d => { d with kv := [(1, ⟨7, some y⟩)] }

/-- `SlabEvents`: pages that suffice and that do not, a slab of the context, one of another, and a stale handle. -/
theorem witness_SlabEvents :
    let y : Slab := ⟨0, 0, [], none⟩
    let s := slabbed (.kvalloc 1 2) 0 1 y 0
    s.engineRuns 0 = true ∧ s.granted 0 0 1 = true ∧ (slabbed (.kvalloc 1 2) 0 0 y 0).granted 0 0 1 = false ∧
      (s.slabFor 0 0x00010007).toOption = some y ∧ (s.slabFor 1 0x00010007).toOption = none ∧ (s.slabFor 0 0x00010008).toOption = none ∧
      y.move.isNone = true ∧ y.k ≠ 15 ∧ (slabbed (.kvgrow 1 2) 0x00010007 2 y 0).granted 0 0 (2 * y.pages) = true := by decide +kernel

/-- `SlabEvents`: a gather of one row of a slab, its position outside the slab and in it, and one with its row done. -/
theorem witness_SlabEvents_rows :
    let y : Slab := ⟨0, 0, [], none⟩
    let c : EngCmd := { running (.gath 20 6 8 false false) none with da := latents, s0 := 0x00010007, s1 := 0x100000000 }
    let s := (working .gath c).modDie 0 fun d => { d with kv := [(1, ⟨7, some y⟩)] }
    let r : KvRun := ⟨[], none, 0, 0, none, none⟩
    isRows c.instr = true ∧ s.t.started .gath = some c ∧ c.kv = none ∧ (s.positions 0 c).toOption.isSome = true ∧
      (s.slabFor c.ctx c.handle).toOption = some y ∧ y.valid 0 = true ∧ y.valid 0xFFFFFFFF = false ∧
      (s.slabFor 1 c.handle).toOption = none ∧ r.ps.length ≤ c.reached := by decide +kernel

/-- `SlabEvents`: a free slab descriptor, which only 16,384 slabs would leave none of. -/
theorem witness_SlabEvents_free : State.reset.t.run = none ∧ (0 : BitVec 14) ∈ ((base.die 0).freeSlabs) := by
  refine ⟨by decide, List.mem_filter.mpr ⟨List.mem_map.mpr ⟨0, by simp, rfl⟩, by decide +kernel⟩⟩

/-- `SlabEvents`: a growth that has begun, before its last chunk and at it. -/
theorem witness_SlabEvents_growth :
    let y : Slab := ⟨0, 0, [], some ⟨[], 0⟩⟩
    let s := slabbed (.kvgrow 1 2) 0x00010007 0 y 1
    s.slab 0x00010007 = some y ∧ 0 + 4 < y.oldRows ∧ y.oldRows ≤ (y.oldRows - 4) + 4 ∧
      ((working .cpy { running (.kvgrow 1 2) none with s0 := 0x00010007, reached := 1 }).t.started .cpy).any (fun c => c.reached != 0) =
        true := by decide +kernel

/-- A subcommand that opens a transaction on region 0. -/
def opening : MupdCmd := ⟨.mupdBegin 20 2, 0, 0, 20, 0, true, 0, false, 0, 0, false, none, false⟩

/-- A transaction on region 0 of context 0 that has staged one line of page 0 in pool page 6016. -/
def openTxn : Txn := ⟨0, 0, [(5, 7)], [(0, 6016)], [0]⟩

/-- `equipped` with Caddy write ready, that transaction, and one subcommand, which writes 64 bytes of the scratchpad. -/
def updating (m : MupdCmd) : State :=
  let s := equipped.modT fun x => { x with mupd := [m], caddy := { x.caddy with txn := some openTxn } }
  { s with port := { s.port with ready0 := 1#64 <<< 12 } }

/-- `SlabEvents`: an open transaction to commit or abort, without reads under way; a switch; a write inside the region, one
outside it, and one of a context whose transaction it is not. -/
theorem witness_SlabEvents_transaction :
    let m (i : Instr) : MupdCmd := { opening with instr := i }
    let w : MupdCmd := { m (.mupdWrite 20 2 2) with db := desc 0x400 0 6 false 16 4 1 64, s := 0x40 }
    let c := (updating w).t.caddy
    (updating (m (.mupdCommit 20 2))).t.caddy.txn = some openTxn ∧ openTxn.region = (m (.mupdCommit 20 2)).entry ∧
    (updating (m (.mupdCommit 20 2))).t.caddyReads = false ∧ (c.region 0).ownedBy 0 = true ∧ (openTxn.pages.map (·.1)).Nodup ∧
    Memory.wf c.bytes = true ∧ mupdBytes w.db = 64 ∧ w.reached = 0 ∧ w.remapped = 0 ∧
    65536 * (c.region 0).base.toNat ≤ 0x40 ∧ 0x40 + 64 ≤ 65536 * ((c.region 0).base.toNat + (c.region 0).len.toNat) ∧
    65536 * ((c.region 0).base.toNat + (c.region 0).len.toNat) < 0x1780000 + 64 ∧ newPages openTxn 0x40 64 = [] ∧
    ((updating w).mupdLine 0 w 0).toOption.isSome = true ∧ (c.stage openTxn 0x40 (leBytes 64 0)).isSome = true ∧
    (c.regionAt 0x40).isSome = true ∧ (c.regionAt 0x1780000).isNone = true ∧ openTxn.ctx ≠ 1 ∧ 0x40 % 64 = 0 := by decide +kernel

/-- `SlabEvents`: the Caddy not ready, and ready with the region of the context. -/
theorem witness_SlabEvents_updates :
    let s := equipped.modT fun x => { x with mupd := [opening] }
    let u : State := { s with port := { s.port with ready0 := 1#64 <<< 12 } }
    s.t.mupd = [opening] ∧ s.engineRuns 0 = true ∧ s.t.cmdLive opening.cmd = true ∧ s.port.ready0.getLsbD 12 = false ∧
      u.port.ready0.getLsbD 12 = true ∧ (u.t.caddy.region opening.entry).ownedBy 0 = true ∧
      (u.t.caddy.region opening.entry).ownedBy 1 = false ∧ u.t.caddy.txn.isNone = true := by decide +kernel

/-- A matrix instruction in flight. -/
def flight (k : MxKind) (ss : Word) (done : Nat) : MxOp := { equipped.newOp k (operand 0) ss with done := done }

/-- `equipped` with a matrix instruction in flight. -/
def flying (m : MxOp) : State := equipped.modT fun x => { x with mx := { x.mx with
  ops := [m], st := x.mx.st.set 3 { x.mx.st[3] with valid := true, src := 0x400 } } }

/-- `MatrixEvents`: a load, a drain whose row is written, and an image of a slot that can be read. -/
theorem witness_MatrixEvents :
    let l := flight (.mldw 1 false 0 0 0) 1 0
    let d := flight (.mdrain 7 false false .rne) 0x10000000000 1
    let e := flight (.steepld .i8 8) 0x400 0
    ((flying l).t.mx.ops = [l] ∧ (flying l).matrixRuns 0 = true ∧ l.parked = false ∧ (flying l).t.slotsReloading = false) ∧
      ((flying d).t.mx.ops = [d] ∧ (flying d).rowsRun 0 = true ∧ d.count ≤ d.done ∧ d.hnd = (flying d).t.banked.isSome) ∧
      (flying e).t.mx.ops = [e] ∧ (flying e).cdDamaged 0 0x400 (mfImageBytes (MFmt.code .i8)) = none ∧ (flying e).matrixRuns 0 = true ∧ e.nextSlot 8 = some 3 ∧
      ((flying e).t.slotNo 3).src.toNat = 0x400 := by decide +kernel

/-- `MatrixEvents`: the load and the drain stand behind nothing, a column can be read, and the drain has its epilogue block. -/
theorem witness_MatrixEvents_stands :
    let l : MxOp := { flight (.mldw 1 false 0 0 0) 1 0 with desc := desc 0x400 0 0 true 4 1 64 64 }
    let d := { flight (.mdrain 7 false false .rne) 0x10000000000 1 with epi := some [] }
    (flying l).mxStands 0 l = false ∧ (flying l).readBehind 0 l = false ∧ l.done < l.count ∧
      ((flying l).mxRow 0 l 0).toOption.isSome = true ∧ (flying d).mxStands 0 d = false ∧ d.isDrain = true ∧ d.epi ≠ none := by
  decide +kernel

theorem witness_MatrixEvents_image : (match (flying (flight (.steepld .i8 8) 0x400 0)).cdCheck 0 0 0x400 (mfImageBytes (MFmt.code .i8)) with
    | .ok => true
    | _ => false) = true := by decide +kernel

/-- `MatrixEvents`: a band that has been idle for 256 cycles outside `ASHAPE`, and one that wakes. -/
theorem witness_MatrixEvents_bands :
    let s := equipped.modT fun x => { x with cyc := 256, regs := { x.regs with ctl := { x.regs.ctl with ashape := 7 } } }
    s.phase = .up ∧ s.t.run.isSome = true ∧ s.regs.ctl.ashape.getLsbD 3 = false ∧ s.t.mmas = [] ∧ s.t.mx.idle[3] + 256 ≤ s.t.cyc ∧
      (equipped.modT fun x => { x with mx := { x.mx with waking := 8 } }).t.mx.waking.getLsbD 3 = true := by decide +kernel

/-- A parked access of the task of tile 0. -/
def parkedAccess : Parked := ⟨5, 0, 0, 0x7B000000, 0, false, false, 0, .access 0⟩

/-- `IsolationEvents`: a parked access not yet presented, whose time is up. -/
theorem witness_IsolationEvents_parked :
    let s := (State.waiting equipped (.ld .g 4 2 .d false 0) 0).modDie 0 fun d => { d with parked := [parkedAccess] }
    s.phase = .up ∧ (s.die 0).request 5 = some parkedAccess ∧ Die.unpresented (s.die 0) = some parkedAccess ∧ parkedAccess.leftNs = 0 ∧
      (s.tile 0).accs = [] ∧ (s.tile 0).wait = some (waitAt (.ld .g 4 2 .d false 0) 0) ∧ (waitAt (.ld .g 4 2 .d false 0) 0).begun = true ∧
      parkedAccess.kind = .access (waitAt (.ld .g 4 2 .d false 0) 0).order ∧
      ((s.modT fun x => { x with accs := x.wait.toList, wait := none }).tile 0).accs.find? (fun a => a.order == 0) =
        some (waitAt (.ld .g 4 2 .d false 0) 0) := by decide +kernel

/-- `IsolationEvents`: a segment that has an owner and is given to another, and one being zeroed. -/
theorem witness_IsolationEvents_segments :
    let s := equipped.modTile 9 fun x => { x with segs := x.segs.set 31 ⟨some 2, some 2, true⟩ }
    isSystemTile 9 = false ∧ ownerOf 0x85 = some 5 ∧ ((s.tile 9).seg 31).owner ≠ some 5 ∧ ((s.tile 9).seg 31).last = some 2 ∧
      ((s.tile 9).seg 31).zeroing = true ∧ Memory.wf (s.tile 9).sp = true := by decide +kernel

/-- `IsolationEvents`: an entry that overlaps a valid one, and one that begins behind it. -/
theorem witness_IsolationEvents_regions :
    let c := (equipped.t.caddy.modRegion 0 fun r => { r with len := 10 })
    let low : Region := { c.region 1 with valid := true, base := 9, len := 1 }
    c.refuses 1 low = true ∧ c.refuses 1 { low with base := 10 } = false ∧ (c.region 1).write 0 = c.region 1 := by decide +kernel

/-- `IsolationEvents`: a write on its way to device memory, an aperture that is not valid, one that is, with its page mapped and
not, and a context that is not the system's. -/
theorem witness_IsolationEvents_outside :
    let w : PendingWrite := ⟨false, false, 0x1000, [.full 1, .full 2], 0, none⟩
    let s := equipped.modT fun x => { x with wbuf := [w] }
    -- tables at 0x1000, 0x2000 and 0x10000, and a leaf for page 0
    let u : State := (({ base with gm := [(0x1000, 1), (0x1001, 0x20), (0x2000, 1), (0x2002, 1), (0x10000, 0x1F)] }).modCtx 3 fun c =>
      { c with root := 1 }).modAperture 2 fun a => { a with valid := true, ctx := 3, base := 0 }
    let v : PendingWrite := { w with ctl := true }
    s.fabricUp = true ∧ (s.ahead 0)[0]? = some w ∧ w.host = false ∧ Memory.wf s.gm = true ∧ Memory.wf s.host = true ∧
      ((s.modT fun x => { x with wbuf := [v, { w with host := true }] }).ahead 0)[1]? = some { w with host := true } ∧
      v.sameLine { w with host := true } = false ∧ v.ctl = true ∧ (base.aperture 63).valid = false ∧ (u.aperture 2).valid = true ∧
      (u.outsidePlan 3 .read 0 8).isSome = true ∧ (u.outsidePlan 3 .write 0 8).isSome = true ∧
      (u.outsidePlan 3 .write 0x10000 8).isNone = true ∧ (3 : CtxNo) ≠ 0 := by decide +kernel

/-- `IsolationEvents`: values that the context block takes and refuses, at the edges of the period. -/
theorem witness_IsolationEvents_block : 100000 ≤ ((100000#32 ++ 5#32 : Word).extractLsb' 32 32).toNat ∧
    ((99999#32 ++ 5#32 : Word).extractLsb' 32 32).toNat < 100000 ∧ ((1#32 ++ 0#32 : Word).extractLsb' 0 32 : BitVec 32) = 0 ∧
    ((1#32 ++ 1#32 : Word).extractLsb' 32 32 : BitVec 32) ≠ 0 ∧ (0x10005 : Word).getLsbD 16 = true ∧ (15 : Nat) < 16 ∧
    equipped.fabricUp = true := by decide +kernel

/-- A spawn of one record on its way. -/
def spawnMsg (st : SpawnSt) (h : Handle) : SpawnMsg := ⟨0, 0, h, 0, [placedRec], 0, [], st, false, 0⟩

/-- `JoinEvents`: a spawn at each of its places, with a join that counts it and a handle that names none. -/
theorem witness_JoinEvents_spawns :
    let s (st : SpawnSt) (h : Handle) : State := { joined emptyJoin with spawns := [(4, spawnMsg st h)] }
    assocGet (s .checking 0x00010007).spawns 4 = some (spawnMsg .checking 0x00010007) ∧ (s .checking 0).fabricUp = true ∧
      (s .checking 0x00010007).joinOf 0 0x00010007 = some emptyJoin ∧ emptyJoin.pending + [placedRec].length ≤ 65535 ∧
      ((s .checking 8).countSpawn 8 0 0 [placedRec]).isNone = true ∧
      ((s .refused 8).tile 0).run.any (fun r => r.record.task == 0) = true ∧ placedRec.gm = false ∧
      (s .accepted 8).accessesDone 0 0 = true ∧ (spawnMsg .accepted 8).returned = false := by decide +kernel

/-- The end of a task on its way to the join. -/
def endMsg : EndMsg := ⟨0x00010007, 0, .arrived, 0x3F800000, .tile 0, 0, none, ⟨[], []⟩, none, false, []⟩

/-- `JoinEvents`: an end that may arrive, a grace timer that has run out, a kill notice and a kill that is due. -/
theorem witness_JoinEvents_ends :
    let s : State := { joined { emptyJoin with pending := 1 } with ends := [(5, endMsg)] }
    let q := joined { emptyJoin with quorum := some { quorumBlock.quorum 0 with graceLeft := some 0 } }
    let k : State := { equipped with kills := [(6, ⟨0, 0⟩)] }
    let d := equipped.modT fun x => { x with run := x.run.map fun r => { r with killPending := true } }
    assocGet s.ends 5 = some endMsg ∧ s.fabricUp = true ∧ s.endReady endMsg = true ∧ s.ctlDue = [] ∧
      (s.joinOf 0 0x00010007).any (fun j => j.st == .open && j.quorum.isNone) = true ∧ endMsg.joins = [] ∧
      ((q.join 0x00010007).bind (·.quorum)).any (fun q => q.graceLeft == some 0) = true ∧ (assocGet k.kills 6).isSome = true ∧
      (k.tile 0).run.any (fun r => r.record.task == 0) = true ∧ (d.tile 0).killDue = true ∧ (d.tile 0).peat.held = false := by
  decide +kernel

/-- A queued record that has waited. -/
def waited (w1 : Word) (order ns : Nat) : Queued := ⟨Rec.plain (#v[0, w1, 0, 0, 0, 0, 0, 0]) 9 none, order, ns, 0⟩

/-- `SchedulerEvents`: a record that has waited an aging step, one that an idle tile may take, and a reservation without its gang. -/
theorem witness_SchedulerEvents_queues :
    let s := base.modCluster 1 fun k => { k with queue := [waited 0 7 1000000] }
    let t : State := s.modTile 1 fun x => { x with power := { x.power with st := .on } }
    let g := base.modCluster 2 fun k => { k with reserving := some 3, reserved := [0x10] }
    base.phase = .up ∧ (s.cluster 1).agingNs ≤ 1000000 ∧ (t.tile 1).idleAwake = true ∧
      ((t.cluster 0).queue.any fun q => q.record.eligible 1) = false ∧ (t.cluster 0).reserved.contains 1 = false ∧
      t.stealFor 1 = some (1, waited 0 7 1000000) ∧ (g.cluster 2).reserving = some 3 ∧
      (g.cluster 2).queue = [] := by decide +kernel

/-- A member of gang 0, which is of two, queued for so many ns. -/
def waitedMember (order ns : Nat) : Queued := ⟨Rec.plain (#v[0x2010000000000, 0, 0, 0, 0, 0, 0, 0]) 9 none, order, ns, 0⟩

/-- `SchedulerEvents`: a gang that has waited past the threshold, and one that holds a reservation and is queued. -/
theorem witness_SchedulerEvents_gangs :
    let s := base.modCluster 2 fun k => { k with queue := [waitedMember 5 20001] }
    let g := s.modCluster 2 fun k => { k with reserving := some (waitedMember 5 20001).record.gang }
    (s.cluster 2).reserving = none ∧ bestQueued ((s.cluster 2).overdueGangs.filter s.choosable) = some (waitedMember 5 20001) ∧
      ((g.cluster 2).queue.any fun q => q.record.gm && q.record.gang == (waitedMember 5 20001).record.gang) = true := by
  decide +kernel

/-- `SchedulerEvents`: a task at the end of its quantum with higher work, alone and first. -/
theorem witness_SchedulerEvents_quantum :
    let q := waited 0x700 5 0
    let s := (base.modCluster 0 fun k => { k with queue := [q] }).modT fun x => { x with
      run := x.run.map fun r => { r with ranNs := 200000 }, view := { x.view with quantum := 200000 } }
    s.t.run.isSome = true ∧ q ∈ s.higher 0 ∧ s.qualifies 0 q = true ∧ s.victimFor 0 q = true := by decide +kernel

/-- `SchedulerEvents`: no other tile runs a task. -/
theorem witness_SchedulerEvents_alone : (allTiles.all fun u => u == 0 || (base.tile u).run.isNone) = true := by decide +kernel

/-- `SchedulerEvents`: a pre-emption that is due while its task waits; a context out of quota; an idle tile and one that wakes. -/
theorem witness_SchedulerEvents_tiles :
    let d := (State.waiting outranked .barg 9).modT fun x => { x with
      run := x.run.map fun r => { r with deepDue := true, ranNs := 200000 }, view := { x.view with quantum := 200000 } }
    let i := base.modTile 1 fun x => { x with power := { x.power with st := .gated, idle := .off } }
    let w := base.modTile 1 fun x => { x with power := { x.power with waking := some 0 } }
    d.preemptDue 0 = true ∧ d.t.killDue = false ∧ d.t.power.st = .on ∧ d.t.peat.held = false ∧
      d.t.halted = none ∧ d.t.wait.isSome = true ∧ ((base.modCtx 4 fun c => { c with periodLeft := 0 }).ctx 4).periodLeft = 0 ∧
      (i.cluster 0).reserved.contains 1 = false ∧ (i.tile 1).idleReached i.settings = some .off ∧
      (w.tile 1).power.waking = some 0 ∧ base.chargeable 4 = false ∧
      (base.modCtx 4 fun c => { c with worked := true }).chargeable 4 = true := by decide +kernel

/-- `PowerEvents`: the last domain, a margin at its end, an edge not yet served, and a die with no context to end and with one. -/
theorem witness_PowerEvents : (55 : BitVec 6).toNat < 56 ∧ base.phase = .up ∧ (0 : BitVec 64).toNat % 10000 = 0 ∧
    (base.die 0).edge ≠ some (10000 : Word) ∧ base.powerVictim 0 = none ∧
    ((base.modCtl fun c => { c with ctxn := 6 }).modT fun x => { x with
      run := x.run.map fun r => { r with record := Rec.plain (#v[0, 6, 0, 0, 0, 0, 0, 0]) 0 none } }).powerVictim 0 = some 6 := by
  decide +kernel

/-- `PowerEvents`: the timers run; a cluster that claims and one that does not; and a margin within 30 mV and at it. -/
theorem witness_PowerEvents_edge :
    let s := base.modCluster 3 fun k => { k with power := { k.power with policy := .boost } }
    base.timersRun = true ∧ (s.claimOrder 0).length = 8 ∧ s.claims 3 = true ∧ s.claims 4 = false ∧ (base.cluster 0).power.margin ≤ 20 ∧
    20 < ((base.modCluster 0 fun k => { k with power := { k.power with margin := 30 } }).cluster 0).power.margin := by decide +kernel

/-- `base` with context 3 in a state, with so many records pending and fetched. -/
def launching (st : CtxSt) (pending refetches : Nat) : State := base.modCtx 3 fun c => { c with
  st := st, pendingTo := pending, refetches := refetches, sqlog := 4, cqlog := 4 }

/-- `ContextEvents`: a notify within the queue and past it, new and stale. -/
theorem witness_ContextEvents_notify : ((launching .active 2 0).ctx 3).st = .active ∧ ((launching .free 0 0).ctx 3).st ≠ .active ∧
    ((launching .free 2 0).ctx 3).sqSize < ((16 : BitVec 16) + 1 - 0).toNat ∧ ((15 : BitVec 16) + 1 - 0).toNat ≤ 16 ∧
    ((launching .active 2 0).ctx 3).pendingTo < ((2 : BitVec 16) + 1 - 0).toNat ∧
    ((1 : BitVec 16) + 1 - 0).toNat ≤ ((launching .active 2 0).ctx 3).pendingTo := by decide +kernel

/-- `ContextEvents`: a record that may be fetched, with a stamp that fits the head and one that does not, at the first fetch and at
the last. -/
theorem witness_ContextEvents_fetch : (launching .active 2 16).canFetch 3 = true ∧ (launching .ending 1 0).canFetch 3 = true ∧
    ((launching .active 2 16).ctx 3).refetches = 16 ∧
    (launching .active 2 0).stampOk 3 ((launching .active 2 0).launchRecord 3) = true ∧
    ((launching .active 2 0).modCtx 3 fun c => { c with sqhead := 1 }).stampOk 3
      (((launching .active 2 0).modCtx 3 fun c => { c with sqhead := 1 }).launchRecord 3) = false := by decide +kernel

/-- `ContextEvents`: an ASID of another context and one of none, a context at its end, and a machine that has started. -/
theorem witness_ContextEvents_state : (launching .free 0 0).asidUsed 3 0 = true ∧ (launching .free 0 0).asidUsed 3 9 = false ∧
    ((launching .ending 0 0).ctx 3).launches = [] ∧ ((launching .ending 0 0).ctx 3).pendingTo = 0 ∧ (launching .ending 0 0).ends = [] ∧
    (allTiles.all fun t => ((launching .ending 0 0).tile t).halted != some 3) = true ∧ (3 : CtxNo) ≠ 0 := by decide +kernel

/-- `base` in a phase of a loss of power, as one that has started. -/
def losing (p : PowerPhase) : State := { base with phase := p, port := { base.port with ready0 := 3, ready1 := BitVec.allOnes 64 } }

/-- `PersistenceEvents`: nothing in flight to save, a line of a region, a task to save after the warning, and nothing on its way. -/
theorem witness_PersistenceEvents_losing : (∀ m ∈ base.t.mx.ops, m.parked = true) ∧ base.phase = .up ∧
    equipped.t.caddy.logicalLine 1023 = some 1023 ∧ (equipped.t.caddy.regions[0]).valid = true ∧
    1024 * (equipped.t.caddy.regions[0]).base.toNat ≤ 1023 ∧
    1023 < 1024 * ((equipped.t.caddy.regions[0]).base.toNat + (equipped.t.caddy.regions[0]).len.toNat) ∧
    (losing .warned).phase = .warned ∧ (losing .warned).t.run.isSome = true ∧ (losing .warned).t.peat.saved = false ∧
    (losing .warned).t.power.st = .on ∧ (losing .warned).workBefore 0 = false ∧ (losing .warned).spawns = [] ∧
    (losing .warned).port.windows = [] ∧ (losing .warned).port.pwrcmd = none := by decide +kernel

theorem witness_PersistenceEvents_quiet : (allTiles.all fun z => !((losing .warned).tile z).ctlPending &&
    ((losing .warned).tile z).collectives.isEmpty) = true := by decide +kernel

/-- `PersistenceEvents`: a tile to save, one that has saved, a save that waits for nothing, and a die that is chilled. -/
theorem witness_PersistenceEvents_saving :
    let z := (losing .warned).modT fun x => { x with peat := { x.peat with saved := true } }
    (losing .warned).t.toSave = true ∧ z.t.toSave = false ∧ base.mxGoing 0 = false ∧ base.t.windowZeroing = false ∧
      (losing .warned).t.windowZeroing = false ∧ z.spawns = [] ∧ z.ends = [] ∧ z.kills = [] ∧ (losing .warned).quiesced = false ∧
      ((losing .up).die 2).chilled = false ∧ (((losing .up).modDie 2 fun d => { d with chilled := true }).die 2).chilled = true ∧
      (losing .warned).t.run.any (fun r => r.unstarted.isNone) = true := by decide +kernel

theorem witness_PersistenceEvents_saved : (allTiles.all fun z =>
    !(((losing .warned).modT fun x => { x with peat := { x.peat with saved := true } }).tile z).toSave) = true := by decide +kernel

/-- `PersistenceEvents`: both kinds of loss, the readiness events of a machine that has started, and a task to resume. -/
theorem witness_PersistenceEvents_starting :
    let h := (losing .up).modT fun x => { x with peat := { x.peat with held := true } }
    let l := h.modT fun x => { x with peat := { x.peat with dirty := true } }
    (losing (.down true)).phase = .down true ∧ (losing (.down false)).phase = .down false ∧ (losing .up).booted = true ∧
      (losing .up).channelUp 3 = true ∧ (losing .up).railsReach 31 ((losing .up).cluster 31).power.point = true ∧
      (losing .up).port.ready1.getLsbD (clusterOf 0).toNat = true ∧ h.t.peat.held = true ∧ h.resumable 0 = true ∧ h.grantsHold 0 = true ∧
      l.resumable 0 = false ∧ (losing .up).port.ready1.getLsbD (32 + 31) = true ∧ (losing .up).port.windows = [] ∧
      { losing .up with port := { (losing .up).port with windows := [31] } }.fabricUp = true := by decide +kernel

/-! Steps and encodings. -/

/-- The tile of `base` is about to fetch, and its line of code is there. -/
theorem witness_StepRunsDecoded_fetch : AtFetch base 0 ∧ ∃ p, base.codeAt 0 base.regs.pc = .ok p :=
  ⟨⟨_, rfl, by decide, by decide, by decide, by decide, by decide, by decide, by decide, by decide, by decide, by decide,
    by decide, by decide⟩, ok_of_isSome (by decide)⟩

/-- `StepRunsDecoded`: a page of the control region, which context 3 may not fetch from, and an accumulator that an `MMA` in
flight writes. -/
theorem witness_StepRunsDecoded_stops :
    let s := equipped.modT fun x => { x with
      ic := [], tlb := [⟨(base.ctx 3).asid, 0, true, 0x5F⟩], regs := { x.regs with ctl := { x.regs.ctl with ctxn := 3 } } }
    (match s.codeAt 0 s.regs.pc with
      | .error (.prot _) => true
      | _ => false) = true ∧ (flying (flight (.mma 3 0 false 0 0 false) 1 0)).t.blocked (.mzero 3) = true := by
  decide +kernel

/-- What an instruction leaves where it is the one slot of its bundle, from `base` with that bundle at the pc. -/
def issued (i : Instr) (f : State → Bool) (setup : State → State := id) : Bool :=
  match decodeBundle ((encode i).getD []) with
  | .ok (.slots stall 6 [si]) =>
    let s1 := (setup State.reset).place ((encode i).getD [])
    let c := s1.t.issueCycle (s1.t.nextIssue + stall.toNat) [si]
    (s1.earlyTrap 0 (s1.t.nextIssue + stall.toNat) [si]).isNone && !s1.t.blocked si.instr &&
    (match exec si.instr (issuing s1 c si) with
      | .next u => f u
      | _ => false)
  | _ => false

/-- `StepRunsDecoded`: the turn of the tile, a bundle refused, one with a trap before issue, a header, an instruction that
completes, one that waits, and one with an issue cause. -/
theorem witness_StepRunsDecoded : base.schedule = [.issue 0] ∧
    ((decodeBundle [0, 0]).toOption.isNone = true ∧ (decodeBundle [0, 5]).toOption = some (.header (.noOpBundle 5))) ∧
    issued (.add 3 1 2) (fun u => u.t.issue.mark == .done && u.t.issue.src.isSome && u.t.issue.pend.isNone && u.t.wait.isNone &&
      u.t.issue.flow.isNone) = true ∧
    issued (.brk 7) (fun u => u.t.issue.mark == .issueTrap && u.t.issue.pend.isSome) = true ∧
    issued .msync (fun u => u.t.issue.mark == .wait) (fun s => s.modT fun x => { x with mx := { x.mx with ops := [flight (.steepld .i8 1) 0 0] } }) = true ∧
    issued .endTask (fun u => u.t.issue.mark == .done && u.t.issue.src.isNone) = true := by decide +kernel

/-- `DecodeUndoesEncode` and `AcceptedWordsAreExact`: the first and the last value of operands, and a word of each kind of slot. -/
theorem witness_DecodeUndoesEncode : [Instr.add 0 0 0, .add 63 63 63, .vadd 31 31 31 .n32 7 .g1 true, .mupdAbort 63 63].all
      (fun i => i.wf && (encodeWord i).isSome) = true ∧ (Instr.noOpBundle 31).wf = true ∧ (encode (.noOpBundle 31)).isSome = true ∧
    (Instr.paddingHeader 0).wf = true ∧ isDeviceStep (.add 1 2 3) = false ∧ (decodeSlot .x 0x06440481).toOption.isSome = true := by
  decide

/-- `StepKeepsMemoriesCanonical`: the memories of `base` are in canonical form, and it has a step. -/
theorem witness_StepKeepsMemoriesCanonical : (allTiles.all fun t => Memory.wf (base.tile t).sp && Memory.wf (base.tile t).caddy.bytes) =
    true ∧ Memory.wf base.gm = true ∧ Memory.wf base.host = true ∧ (match step base with
      | .next _ => true
      | _ => false) = true := by decide +kernel

/-- `GrantsNeedSystemMode`: a task outside system mode executes an instruction. -/
theorem witness_GrantsNeedSystemMode : isDeviceStep (.add 1 2 3) = false ∧ user.src.ctl.sys = false ∧ user.ctxn ≠ 0 ∧
    after (.add 1 2 3) user (fun t => t.regs.getS 1) = some 0 := by decide

end Sys2Proof.Tests
end

section
/-! PROOFS. Sleep, wake and the invalidations (O38): what one wake does to a tile, what one step of an invalidation drops and
what it leaves alone, and the folds over the tiles and clusters that an instruction names. -/

namespace Sys2Proof.Machine

/-! ### Folds over the tiles and clusters of a scope -/

/-- What each element of a list establishes and no step undoes holds at the end for every element of the list. -/
theorem foldl_establishes {σ α : Type} {f : σ → α → σ} {P : α → σ → Prop} (sets : ∀ s a, P a (f s a))
    (keeps : ∀ s a b, P a s → P a (f s b)) (l : List α) : ∀ s, ∀ a ∈ l, P a (l.foldl f s) := by
  induction l with
  | nil => simp
  | cons b l ih =>
    intro s a ha
    rcases List.mem_cons.mp ha with rfl | h
    · exact List.foldlRecOn (motive := P a) l f (sets s a) fun t ht c _ => keeps t a c ht
    · exact ih (f s b) a h

/-! ### The wake of a tile (R15, R317, R410) -/

/-- The tile may start a wake: none is in progress, it is not held, and its cluster is ready. -/
def State.canWake (s : State) (t : TileIx) : Bool :=
  (s.tile t).power.waking.isNone && !(s.tile t).peat.held && s.port.ready1.getLsbD (clusterOf t).toNat

theorem State.canWake_iff {s : State} {t : TileIx} : s.canWake t = true ↔ (s.tile t).power.waking = none ∧
    (s.tile t).peat.held = false ∧ s.port.ready1.getLsbD (clusterOf t).toNat = true := by
  simp [State.canWake, and_assoc]

/-- A wake started: `n` ns are left of it. -/
def Tile.startWake (x : Tile) (n : Nat) (prewarm : Bool) : Tile :=
  { x with power := { x.power with waking := some n, prewarmed := prewarm } }

theorem State.tile_wake_of_ne (s : State) {t u : TileIx} (p : Bool) (h : u ≠ t) : (s.wake t p).tile u = s.tile u :=
  s.tile_setTile_ne _ h

theorem State.tile_wake_of_not_canWake {s : State} {t : TileIx} (p : Bool) (h : s.canWake t = false) :
    (s.wake t p).tile t = s.tile t := by
  rw [State.wake, State.tile_modTile_self]
  apply if_pos
  cases hw : (s.tile t).power.waking with
  | some n => simp
  | none =>
    cases hh : (s.tile t).peat.held with
    | true => simp
    | false =>
      rw [State.canWake, hw, hh] at h
      simp [show s.port.ready1.getLsbD (clusterOf t).toNat = false from h]

theorem State.tile_wake_of_retain {s : State} {t : TileIx} (p : Bool) (hup : s.phase = .up) (h : s.canWake t = true)
    (hst : (s.tile t).power.st = .retain) : (s.wake t p).tile t = (s.tile t).startWake 600 p := by
  obtain ⟨hw, hh, hr⟩ := State.canWake_iff.mp h
  simp [State.wake, Tile.startWake, hw, hh, hr, hup, hst]

theorem State.tile_wake_of_off {s : State} {t : TileIx} (p : Bool) (hup : s.phase = .up) (h : s.canWake t = true)
    (hst : (s.tile t).power.st = .off) : (s.wake t p).tile t = (s.tile t).startWake 2400 p := by
  obtain ⟨hw, hh, hr⟩ := State.canWake_iff.mp h
  simp [State.wake, Tile.startWake, hw, hh, hr, hup, hst]

/-- A wake leaves its tile as it was, or it starts the wake of a tile in RETAIN or OFF. -/
theorem State.tile_wake_cases (s : State) (t : TileIx) (p : Bool) : (s.wake t p).tile t = s.tile t ∨
    ((s.tile t).power.st = .retain ∨ (s.tile t).power.st = .off) ∧ ∃ n, (s.wake t p).tile t = (s.tile t).startWake n p := by
  rw [State.wake, State.tile_modTile_self]
  split
  · exact .inl rfl
  · cases (s.tile t).power.st with
    | on => exact .inl rfl
    | gated => exact .inl rfl
    | retain => exact .inr ⟨.inl rfl, 600, rfl⟩
    | off => exact .inr ⟨.inr rfl, 2400, rfl⟩

/-- A tile that does not sleep starts no wake. -/
theorem State.tile_wake_of_awake {s : State} {t : TileIx} (p : Bool) (hr : (s.tile t).power.st ≠ .retain)
    (ho : (s.tile t).power.st ≠ .off) : (s.wake t p).tile t = s.tile t :=
  (s.tile_wake_cases t p).resolve_right fun h => h.1.elim hr ho

/-- A wake changes nothing of a tile but its power. -/
theorem State.tile_wake_frame (s : State) (t u : TileIx) (p : Bool) :
    (s.wake t p).tile u = { s.tile u with power := ((s.wake t p).tile u).power } := by
  by_cases h : u = t
  · subst h
    rcases s.tile_wake_cases u p with e | ⟨-, n, e⟩ <;> rw [e]
    rfl
  · rw [s.tile_wake_of_ne p h]

/-- What a wake does to its tile rests on that tile, the phase and the port alone. -/
theorem State.tile_wake_congr {s s' : State} {t : TileIx} (p : Bool) (ht : s'.tile t = s.tile t)
    (hup : s'.phase = s.phase) (hp : s'.port = s.port) : (s'.wake t p).tile t = (s.wake t p).tile t := by
  simp [State.wake, ht, hup, hp]

/-- A wake in progress is not repeated. -/
theorem State.tile_wake_wake (s : State) (t : TileIx) (p : Bool) :
    ((s.wake t p).wake t p).tile t = (s.wake t p).tile t := by
  rcases s.tile_wake_cases t p with e | ⟨-, n, e⟩
  · exact State.tile_wake_congr p e rfl rfl
  · exact State.tile_wake_of_not_canWake p (by simp [State.canWake, e, Tile.startWake])

/-- After the wakes of some tiles each of them is as its own wake leaves it, and every other is as it was. -/
theorem State.tile_foldl_wake (p : Bool) (u : TileIx) (ts : List TileIx) : ∀ s : State,
    (ts.foldl (fun s t => s.wake t p) s).tile u = if u ∈ ts then (s.wake u p).tile u else s.tile u := by
  induction ts with
  | nil => simp
  | cons t ts ih =>
    intro s
    rw [List.foldl_cons, ih]
    by_cases h : u = t
    · subst h
      simp [State.tile_wake_wake]
    · have hu := s.tile_wake_of_ne p h
      simp [h, hu, State.tile_wake_congr (s' := s.wake t p) p hu rfl rfl]

/-- Wakes change no byte of any memory. -/
theorem State.sameBytes_foldl_wake (p : Bool) (ts : List TileIx) (s : State) :
    SameBytes s (ts.foldl (fun s t => s.wake t p) s) := by
  refine List.foldlRecOn (motive := SameBytes s) ts _ ⟨fun _ _ => rfl, fun _ _ => rfl, fun _ => rfl, fun _ => rfl⟩ ?_
  rintro y ⟨hsp, hcd, hgm, hhost⟩ t -
  refine ⟨fun x a => ?_, fun x a => ?_, hgm, hhost⟩
  · rw [y.tile_wake_frame t x p]
    exact hsp x a
  · rw [y.tile_wake_frame t x p]
    exact hcd x a

/-! ### The tiles that a `WAKE` names (R8, R9, R319) -/

theorem tileOf_toNat (c : ClusterIx) (i : BitVec 3) : (tileOf c i).toNat = c.toNat * 8 + i.toNat := by
  calc (tileOf c i).toNat = c.toNat <<< 3 ||| i.toNat := BitVec.toNat_append c i
    _ = c.toNat <<< 3 + i.toNat := (Nat.shiftLeft_add_eq_or_of_lt i.isLt _).symm
    _ = c.toNat * 8 + i.toNat := by rw [Nat.shiftLeft_eq]

theorem clusterOf_toNat (u : TileIx) : (clusterOf u).toNat = u.toNat / 8 := by
  have := u.isLt
  rw [clusterOf, BitVec.extractLsb'_toNat, Nat.shiftRight_eq_div_pow]
  omega

theorem clusterOf_tileOf (c : ClusterIx) (i : BitVec 3) : clusterOf (tileOf c i) = c := by
  apply BitVec.eq_of_toNat_eq
  rw [clusterOf_toNat, tileOf_toNat]
  omega

theorem tileOf_toNat_mod (c : ClusterIx) (i : BitVec 3) : (tileOf c i).toNat % 8 = i.toNat := by
  rw [tileOf_toNat]
  omega

theorem tileOf_clusterOf (u : TileIx) : tileOf (clusterOf u) (BitVec.ofNat 3 (u.toNat % 8)) = u := by
  apply BitVec.eq_of_toNat_eq
  rw [tileOf_toNat, clusterOf_toNat, BitVec.toNat_ofNat]
  omega

theorem mem_wakeTiles (c : CtxNo) (w : Word) (u : TileIx) : u ∈ wakeTiles c w ↔
    (clusterOf u == w.extractLsb' 8 5 && w.getLsbD (u.toNat % 8) && (c == 0 || !isSystemTile u)) = true := by
  simp only [wakeTiles, List.mem_filter, List.mem_map, List.mem_range, Bool.and_eq_true, beq_iff_eq]
  refine and_congr_left fun _ => ⟨?_, ?_⟩
  · rintro ⟨i, ⟨hi, hw⟩, rfl⟩
    rw [clusterOf_tileOf, tileOf_toNat_mod, BitVec.toNat_ofNat, Nat.mod_eq_of_lt hi]
    exact ⟨rfl, hw⟩
  · rintro ⟨hc, hw⟩
    exact ⟨u.toNat % 8, ⟨Nat.mod_lt _ (by decide), hw⟩, hc ▸ tileOf_clusterOf u⟩

/-! ### What invalidations leave alone -/

/-- No register of a task and no scratchpad differs. -/
def Quiet (s t : State) : Prop := ∀ x, (t.tile x).regs = (s.tile x).regs ∧ (t.tile x).sp = (s.tile x).sp

theorem Quiet.refl (s : State) : Quiet s s := fun _ => ⟨rfl, rfl⟩

theorem Quiet.trans {s t u : State} (h : Quiet s t) (k : Quiet t u) : Quiet s u := fun x =>
  ⟨(k x).1.trans (h x).1, (k x).2.trans (h x).2⟩

theorem Quiet.foldl {α : Type} {f : State → α → State} (h : ∀ s a, Quiet s (f s a)) (l : List α) (s : State) :
    Quiet s (l.foldl f s) :=
  List.foldlRecOn (motive := Quiet s) l f (Quiet.refl s) fun t ht a _ => ht.trans (h t a)

theorem Quiet.regs {s t : State} (h : Quiet s t) (x : TileIx) : (t.tile x).regs = (s.tile x).regs := (h x).1

theorem Quiet.sameScratch {s t : State} (h : Quiet s t) : SameScratch s t := fun x a => by rw [(h x).2]

/-- A change of a tile that keeps its registers and its scratchpad. -/
theorem Quiet.modTile (s : State) (t : TileIx) {f : Tile → Tile} (hr : ∀ x, (f x).regs = x.regs)
    (hs : ∀ x, (f x).sp = x.sp) : Quiet s (s.modTile t f) := by
  intro x
  rw [State.tile_modTile]
  split
  · next h => subst h; exact ⟨hr _, hs _⟩
  · exact ⟨rfl, rfl⟩

/-- Writes performed at their homes change no tile. -/
theorem State.tile_foldl_atHome (d : DieIx) (ws : List PendingWrite) (s : State) (x : TileIx) :
    (ws.foldl (fun s w => s.atHome d w) s).tile x = s.tile x :=
  List.foldlRecOn (motive := fun u : State => u.tile x = s.tile x) ws _ rfl fun u hu w _ => (State.tile_atHome u d w x).trans hu

/-- Performing the writes a tile sees takes them from the tile that sent them, and changes no tile in anything else (R108). -/
theorem State.tile_drain (s : State) (t x : TileIx) :
    (s.drain t).tile x = (s.modTile t fun y => { y with wbuf := y.wbuf.filter (·.ctl) }).tile x :=
  State.tile_foldl_atHome ..

theorem Quiet.drain (s : State) (t : TileIx) : Quiet s (s.drain t) := fun x => by
  rw [s.tile_drain t x]
  refine Quiet.modTile s t (fun _ => ?_) (fun _ => ?_) x <;> rfl

/-! ### TLBINV (R122, R359) -/

/-- No translation and no line of a tile is one that `k` names. -/
def Tile.Dropped (k : InvKind) (x : Tile) : Prop :=
  (∀ e ∈ x.tlb, k.hits e = false) ∧ ∀ l ∈ x.l1, k.hitsLine l.asid l.va = false

/-- No translation of a cluster is one that `k` names. -/
def Cluster.Dropped (k : InvKind) (c : Cluster) : Prop := ∀ e ∈ c.tlb, k.hits e = false

theorem Tile.dropped_invalidate (k : InvKind) (x : Tile) : (x.invalidate k).Dropped k := by
  simp +contextual [Tile.Dropped, Tile.invalidate]

/-- A `TLBINV` in one tile of its scope: the writes it sees are performed, then its entries and lines are dropped. -/
def State.invalidateTile (k : InvKind) (s : State) (t : TileIx) : State := (s.drain t).modTile t (·.invalidate k)

theorem State.dropped_invalidateTile_self (k : InvKind) (s : State) (t : TileIx) :
    ((s.invalidateTile k t).tile t).Dropped k := by
  rw [State.invalidateTile, State.tile_modTile_self]
  exact Tile.dropped_invalidate k _

theorem State.tile_invalidateTile_of_ne (k : InvKind) (s : State) {t x : TileIx} (h : x ≠ t) :
    (s.invalidateTile k t).tile x = s.tile x := by
  rw [State.invalidateTile, State.tile_modTile, if_neg h, State.tile_drain, State.tile_modTile, if_neg h]

theorem Quiet.invalidateTile (k : InvKind) (s : State) (t : TileIx) : Quiet s (s.invalidateTile k t) :=
  (Quiet.drain s t).trans (Quiet.modTile _ t (fun _ => rfl) (fun _ => rfl))

/-- Every tile of a list through which a `TLBINV` has gone keeps nothing of what it names. -/
theorem State.dropped_foldl_invalidateTile (k : InvKind) (ts : List TileIx) (s : State) :
    ∀ x ∈ ts, ((ts.foldl (State.invalidateTile k) s).tile x).Dropped k := by
  refine foldl_establishes (P := fun x u => (u.tile x).Dropped k) (State.dropped_invalidateTile_self k) (fun u x t hx => ?_) ts s
  by_cases h : x = t
  · exact h ▸ u.dropped_invalidateTile_self k t
  · rwa [u.tile_invalidateTile_of_ne k h]

theorem State.dropped_invalidateCluster_self (k : InvKind) (s : State) (c : ClusterIx) :
    ((s.invalidateCluster k c).cluster c).Dropped k := by
  simp +contextual [State.invalidateCluster, State.cluster_modCluster, Cluster.Dropped]

/-- Nor does any cluster of a list. -/
theorem State.dropped_foldl_invalidateCluster (k : InvKind) (cs : List ClusterIx) (s : State) :
    ∀ c ∈ cs, ((cs.foldl (fun s c => s.invalidateCluster k c) s).cluster c).Dropped k := by
  refine foldl_establishes (P := fun c u => (u.cluster c).Dropped k) (fun u c => u.dropped_invalidateCluster_self k c)
    (fun u c d hc => ?_) cs s
  by_cases h : c = d
  · exact h ▸ u.dropped_invalidateCluster_self k d
  · rwa [State.invalidateCluster, State.cluster_modCluster, if_neg h]

theorem State.tile_foldl_invalidateCluster (k : InvKind) (cs : List ClusterIx) (s : State) (x : TileIx) :
    (cs.foldl (fun s c => s.invalidateCluster k c) s).tile x = s.tile x :=
  List.foldlRecOn (motive := fun u : State => u.tile x = s.tile x) cs _ rfl fun _ hu _ _ => hu

/-- In system mode, with no control write of its scope on its way and no provisional store that used an old translation, a
`TLBINV` completes and drops what it names from its scope, and from the cluster of the tile (R122, R144, R359). -/
theorem State.tlbinv_completes {s : State} {k : InvKind} {sc : Scope} (hsys : s.src.ctl.sys = true)
    (hctl : ∀ x ∈ instanceTiles s.cur sc, (s.tile x).ctlPending = false) (hprov : s.provisionalIn s.cur sc k = false) :
    ∃ t, s.tlbinv k sc = .next t ∧ Quiet s t ∧ (∀ x ∈ instanceTiles s.cur sc, (t.tile x).Dropped k) ∧
      ∀ c ∈ clusterOf s.cur :: instanceClusters s.cur sc, (t.cluster c).Dropped k := by
  have hany : ((instanceTiles s.cur sc).any fun t => (s.tile t).ctlPending) = false :=
    List.any_eq_false.mpr fun x hx => by simp [hctl x hx]
  have hdone : s.tlbinv k sc = .next ((clusterOf s.cur :: instanceClusters s.cur sc).foldl
      (fun s c => s.invalidateCluster k c) ((instanceTiles s.cur sc).foldl (State.invalidateTile k) s)) := by
    simp only [State.tlbinv, systemOnly_of_sys hsys, hany, hprov]
    rfl
  refine ⟨_, hdone, fun x => ?_, fun x hx => ?_, State.dropped_foldl_invalidateCluster k _ _⟩
  · rw [State.tile_foldl_invalidateCluster]
    exact Quiet.foldl (Quiet.invalidateTile k) _ s x
  · rw [State.tile_foldl_invalidateCluster]
    exact State.dropped_foldl_invalidateTile k _ s x hx

/-! ### ICINV (R121, R360) -/

/-- An `ICINV` in one tile of its scope: the die's cache gives up its lines, and the instruction cache those of the context. -/
def State.dropCode (asid : BitVec 7) (s : State) (t : TileIx) : State :=
  (s.dropDie (dieOf t)).modTile t fun x => { x with ic := x.ic.filter fun l => l.asid != asid }

theorem State.tile_dropCode (asid : BitVec 7) (s : State) (t x : TileIx) : (s.dropCode asid t).tile x =
    if x = t then { s.tile t with ic := (s.tile t).ic.filter fun l => l.asid != asid } else s.tile x :=
  State.tile_modTile ..

theorem Quiet.dropCode (asid : BitVec 7) (s : State) (t : TileIx) : Quiet s (s.dropCode asid t) :=
  Quiet.modTile (s.dropDie (dieOf t)) t (fun _ => rfl) (fun _ => rfl)

/-- No instruction cache of a list of tiles through which an `ICINV` has gone keeps a line of the context. -/
theorem State.ic_foldl_dropCode (asid : BitVec 7) (ts : List TileIx) (s : State) :
    ∀ x ∈ ts, ∀ l ∈ ((ts.foldl (State.dropCode asid) s).tile x).ic, l.asid ≠ asid := by
  refine foldl_establishes (P := fun x u => ∀ l ∈ (u.tile x).ic, l.asid ≠ asid) (fun u t => ?_) (fun u x t hx => ?_) ts s
  · simp [State.tile_dropCode]
  · rw [State.tile_dropCode]
    split
    · simp
    · exact hx

/-- With no control write of the tile on its way, an `ICINV` completes (R121, R360). -/
theorem execIcinv_completes {s : State} (sc : Scope) (h : s.t.ctlPending = false) :
    ∃ t, execIcinv sc s = .next t ∧ Quiet s t ∧
      ∀ x ∈ instanceTiles s.cur sc, ∀ l ∈ (t.tile x).ic, l.asid ≠ (s.ctx s.ctxn).asid := by
  have hdone : execIcinv sc s =
      .next ((instanceTiles s.cur sc).foldl (State.dropCode (s.ctx s.ctxn).asid) (s.drain s.cur)) := by
    simp only [execIcinv, h]
    rfl
  exact ⟨_, hdone, (Quiet.drain s s.cur).trans (Quiet.foldl (Quiet.dropCode _) _ _), State.ic_foldl_dropCode _ _ _⟩

/-! ### The obligation -/

/-- `SLEEP` sets the idle target of its tile (R318). -/
theorem exec_sleep (s : State) : exec .sleepCg s = .next (s.setIdle .none) ∧ exec .sleepRetain s = .next (s.setIdle .retain) ∧
    (s.src.ctl.sys = true → exec .sleepOff s = .next (s.setIdle .off)) :=
  ⟨rfl, rfl, fun h => systemOnly_of_sys h⟩

/-- The wakes of some tiles start the wake of each of these that sleeps and may be woken, and leave every other tile (R319). -/
theorem State.foldl_wake_starts {s : State} (p : Bool) (hup : s.phase = .up) (ts : List TileIx) (u : TileIx) :
    let t := ts.foldl (fun s t => s.wake t p) s
    (u ∈ ts → s.canWake u = true → (s.tile u).power.st = .retain → (t.tile u).power.waking = some 600) ∧
    (u ∈ ts → s.canWake u = true → (s.tile u).power.st = .off → (t.tile u).power.waking = some 2400) ∧
    (u ∉ ts ∨ s.canWake u = false ∨ ((s.tile u).power.st ≠ .retain ∧ (s.tile u).power.st ≠ .off) → t.tile u = s.tile u) := by
  simp only [State.tile_foldl_wake]
  refine ⟨fun hu hc hst => ?_, fun hu hc hst => ?_, fun h => ?_⟩
  · rw [if_pos hu, State.tile_wake_of_retain p hup hc hst, Tile.startWake]
  · rw [if_pos hu, State.tile_wake_of_off p hup hc hst, Tile.startWake]
  · split
    · next hu =>
      rcases h with h | h | ⟨hr, ho⟩
      · exact absurd hu h
      · exact State.tile_wake_of_not_canWake p h
      · exact State.tile_wake_of_awake p hr ho
    · rfl

/-- Settles O38: a `WAKE` is the wakes of the tiles it names, each of which rests on its tile alone, and an invalidation goes
through the tiles and clusters of its scope, each of which keeps nothing of what it names. -/
theorem sleepWakeInvalidation : Obligations.SleepWakeInvalidation := by
  unfold Obligations.SleepWakeInvalidation
  refine ⟨fun s a => ?_, fun s a b sc => ?_⟩
  · obtain ⟨hcg, hretain, hoff⟩ := exec_sleep s
    refine ⟨hcg, hretain, hoff, fun hup => ⟨_, rfl, State.sameBytes_foldl_wake true _ s, fun u => ?_⟩⟩
    obtain ⟨from_retain, from_off, rest⟩ := State.foldl_wake_starts true hup (wakeTiles s.ctxn (s.rdS a)) u
    intro w named x can
    have hnamed : named = true ↔ u ∈ wakeTiles s.ctxn w := (mem_wakeTiles ..).symm
    have hcan : can = (named && s.canWake u) := by simp only [can, State.canWake, Bool.and_assoc, x]
    rw [hcan, Bool.and_eq_true, hnamed, Bool.and_eq_false_iff, ← Bool.not_eq_true, hnamed, or_assoc]
    exact ⟨fun h => from_retain h.1 h.2, fun h => from_off h.1 h.2, rest⟩
  · intro ts quiet gone
    have hquiet : ∀ t, Quiet s t → quiet t := fun t h => ⟨h.regs, h.sameScratch⟩
    refine ⟨fun hsys hctl => ?_, fun hctl => ?_⟩
    · have hgone : ∀ i k, exec i s = s.tlbinv k sc → gone i k := fun i k hi hprov => by
        obtain ⟨t, ht, hq, htiles, hclusters⟩ := State.tlbinv_completes hsys hctl hprov
        exact ⟨t, hi.trans ht, hquiet t hq, htiles, hclusters⟩
      exact ⟨hgone _ _ rfl, hgone _ _ rfl, hgone _ _ rfl⟩
    · obtain ⟨t, ht, hq, hic⟩ := execIcinv_completes sc hctl
      exact ⟨t, ht, hquiet t hq, hic⟩

end Sys2Proof.Machine
end

section
/-! PROOFS. Accepted words (O58): the checks a decoder makes leave no field of a word open. -/

namespace Sys2Proof

/-! ### Codes read back (R40 to R44) -/

/-- A code table read back: when every code that stands for a value is that value's, a code stands for `x` exactly when it is
the code of `x`. -/
theorem ofCode_eq_some_iff {α : Type} {n : Nat} {ofCode : BitVec n → Option α} {code : α → BitVec n}
    (there : ∀ x, ofCode (code x) = some x) (back : ∀ c, ∀ x ∈ ofCode c, c = code x) {c : BitVec n} {x : α} :
    ofCode c = some x ↔ c = code x :=
  ⟨back c x, fun h => h ▸ there x⟩

@[simp] theorem AmoOp.ofCode_eq_some {c : BitVec 4} {x : AmoOp} : AmoOp.ofCode c = some x ↔ c = x.code :=
  ofCode_eq_some_iff AmoOp.ofCode_code (by decide)

@[simp] theorem ClrVal.ofCode_eq_some {c : BitVec 2} {x : ClrVal} : ClrVal.ofCode c = some x ↔ c = x.code :=
  ofCode_eq_some_iff ClrVal.ofCode_code (by decide)

@[simp] theorem CollOp.ofCode_eq_some {c : BitVec 3} {x : CollOp} : CollOp.ofCode c = some x ↔ c = x.code :=
  ofCode_eq_some_iff CollOp.ofCode_code (by decide)

@[simp] theorem Cond.ofCode_eq_some {c : BitVec 4} {x : Cond} : Cond.ofCode c = some x ↔ c = x.code :=
  ofCode_eq_some_iff Cond.ofCode_code (by decide)

@[simp] theorem ETy.ofCode_eq_some {c : BitVec 4} {x : ETy} : ETy.ofCode c = some x ↔ c = x.code :=
  ofCode_eq_some_iff ETy.ofCode_code (by decide)

@[simp] theorem FAmo.ofCode_eq_some {c : BitVec 4} {x : FAmo} : FAmo.ofCode c = some x ↔ c = x.code :=
  ofCode_eq_some_iff FAmo.ofCode_code (by decide)

@[simp] theorem Grp.ofCode_eq_some {c : BitVec 2} {x : Grp} : Grp.ofCode c = some x ↔ c = x.code :=
  ofCode_eq_some_iff Grp.ofCode_code (by decide)

@[simp] theorem MFmt.ofCode_eq_some {c : BitVec 4} {x : MFmt} : MFmt.ofCode c = some x ↔ c = x.code :=
  ofCode_eq_some_iff MFmt.ofCode_code (by decide)

@[simp] theorem Order.ofCode_eq_some {c : BitVec 2} {x : Order} : Order.ofCode c = some x ↔ c = x.code :=
  ofCode_eq_some_iff Order.ofCode_code (by decide)

@[simp] theorem QueueId.ofCode_eq_some {c : BitVec 2} {x : QueueId} : QueueId.ofCode c = some x ↔ c = x.code :=
  ofCode_eq_some_iff QueueId.ofCode_code (by decide)

@[simp] theorem RM.ofCode_eq_some {c : BitVec 3} {x : RM} : RM.ofCode c = some x ↔ c = x.code :=
  ofCode_eq_some_iff RM.ofCode_code (by decide)

@[simp] theorem Scope.ofCode_eq_some {c : BitVec 3} {x : Scope} : Scope.ofCode c = some x ↔ c = x.code :=
  ofCode_eq_some_iff Scope.ofCode_code (by decide)

@[simp] theorem SgnOp.ofCode_eq_some {c : BitVec 2} {x : SgnOp} : SgnOp.ofCode c = some x ↔ c = x.code :=
  ofCode_eq_some_iff SgnOp.ofCode_code (by decide)

@[simp] theorem Size.ofCode_eq_some {c : BitVec 2} {x : Size} : Size.ofCode c = some x ↔ c = x.code :=
  ofCode_eq_some_iff Size.ofCode_code (by decide)

@[simp] theorem Space.ofCode_eq_some {c : BitVec 2} {x : Space} : Space.ofCode c = some x ↔ c = x.code :=
  ofCode_eq_some_iff Space.ofCode_code (by decide)

@[simp] theorem SxFmt.ofCode_eq_some {c : BitVec 2} {x : SxFmt} : SxFmt.ofCode c = some x ↔ c = x.code :=
  ofCode_eq_some_iff SxFmt.ofCode_code (by decide)

@[simp] theorem VamoOp.ofCode_eq_some {c : BitVec 4} {x : VamoOp} : VamoOp.ofCode c = some x ↔ c = x.code :=
  ofCode_eq_some_iff VamoOp.ofCode_code (by decide)

@[simp] theorem XFac.ofCode_eq_some {c : BitVec 2} {x : XFac} : XFac.ofCode c = some x ↔ c = x.code :=
  ofCode_eq_some_iff XFac.ofCode_code (by decide)

/-- The code of a condition in the two fields of a compare (R201). -/
@[simp] theorem Cond.append_eq_code {c : Cond} {hi : BitVec 1} {lo : BitVec 3} :
    hi ++ lo = c.code ↔ hi = c.code.extractLsb' 3 1 ∧ lo = c.code.extractLsb' 0 3 := by
  constructor
  · intro h
    rw [← h, BitVec.extractLsb'_append_eq_left, bitsLo]
    exact ⟨rfl, rfl⟩
  · rintro ⟨rfl, rfl⟩
    exact condJoin c

/-- An element index, in the two fields of `VEXTR` and `VINS` (R204). -/
theorem extract_index {hi lo : BitVec 5} :
    (hi ++ lo : BitVec 10).extractLsb' 5 5 = hi ∧ (hi ++ lo : BitVec 10).extractLsb' 0 5 = lo :=
  ⟨BitVec.extractLsb'_append_eq_left, bitsLo⟩

/-! ### Fields of a word (R40) -/

/-- The bits of a word from bit `lo` up are `x`. -/
def Field (w : BitVec 32) (lo : Nat) {n : Nat} (x : BitVec n) : Prop := fld w lo n = x

theorem field_iff_toNat {w : BitVec 32} {lo n : Nat} {x : BitVec n} : Field w lo x ↔ (fld w lo n).toNat = x.toNat :=
  BitVec.toNat_inj.symm

/-- Two parts stand side by side in a word when the lower one stands at the place of both, and the upper one right above. -/
theorem field_append {w : BitVec 32} {lo m n : Nat} {x : BitVec m} {y : BitVec n} :
    @Field w lo no_index _ (@HAppend.hAppend _ _ no_index _ _ x y) ↔ Field w (lo + n) x ∧ Field w lo y := by
  have cut : fld w lo (m + n) = fld w (lo + n) m ++ fld w lo n :=
    (BitVec.extractLsb'_append_extractLsb'_eq_extractLsb' (Nat.add_comm lo n ▸ rfl)).symm
  simp only [Field, cut]
  constructor
  · intro h
    have upper := congrArg (·.extractLsb' n m) h
    have lower := congrArg (·.extractLsb' 0 n) h
    simp only [BitVec.extractLsb'_append_eq_left, bitsLo] at upper lower
    exact ⟨upper, lower⟩
  · rintro ⟨rfl, rfl⟩
    rfl

/-- The field that is all of a word. -/
theorem field_whole {w x : BitVec 32} : Field w 0 x ↔ x = w := by
  rw [Field, fld, bitsAll, eq_comm]

@[simp] theorem field_fld {w : BitVec 32} {lo n : Nat} : Field w lo (fld w lo n) := rfl

/-- A one-bit field that a decoder reads as a truth value. -/
@[simp] theorem field_ofBool {w : BitVec 32} {lo : Nat} : Field w lo (BitVec.ofBool (fld w lo 1 == 1#1)) := by
  unfold Field
  generalize fld w lo 1 = b
  revert b
  decide

/-! ### What a decoder accepts (R46, R47) -/

/-- What a decoder answers to the word `w` of opcode space `ln` is a refusal, or a well-formed instruction whose word is
`w`. -/
def Exact (ln : Lane) (w : BitVec 32) (r : Except Reject Instr) : Prop :=
  ∀ i, r = .ok i → i.wf = true ∧ encodeWord i = some (ln, w)

section
variable {ln : Lane} {w : BitVec 32} {r : Except Reject Instr} {ok : Bool}

@[simp] theorem exact_error {e : Reject} : Exact ln w (.error e) := fun _ h => nomatch h

@[simp] theorem exact_ok {i : Instr} :
    Exact ln w (.ok i) ↔ i.wf = true ∧ ∃ x, encodeWord i = some (ln, x) ∧ Field w 0 x := by
  simp [Exact, field_whole]

/-- Behind a check of reserved bits, a decoder knows that they are zero. -/
@[simp] theorem exact_rsv : Exact ln w (rsv ok r) ↔ (ok = true → Exact ln w r) := by
  cases ok <;> simp [rsv]

/-- Behind a condition on code values, a decoder knows that it holds. -/
@[simp] theorem exact_gate : Exact ln w (gate ok r) ↔ (ok = true → Exact ln w r) := by
  cases ok <;> simp [gate]

/-- Behind a code, a decoder knows the value the code stands for. -/
@[simp] theorem exact_withCode {α : Type} {c : Option α} {k : α → Except Reject Instr} :
    Exact ln w (withCode c k) ↔ ∀ x, c = some x → Exact ln w (k x) := by
  cases c <;> simp [withCode]

end

/-! ### The six opcode spaces (R45)

Each proof splits a space's decoder by opcode and by subcode. In each case the checks that were passed say that the operands
are well formed, and every field of the instruction's word is the field read, the code read, or bits that were checked. -/

theorem scalarWord_exact {s1 : Bool} {w : BitVec 32} {op : Nat} (h : (fld w 25 7).toNat = op) :
    Exact .scalar w (scalarWord s1 w op) := by
  unfold scalarWord
  repeat' split
  all_goals simp +contextual [Instr.wf, encodeWord, field_append, -BitVec.reduceAppend]
  all_goals simp +contextual [field_iff_toNat, *]

theorem controlWord_exact {w : BitVec 32} {op : Nat} (h : (fld w 25 7).toNat = op) :
    Exact .control w (controlWord w op) := by
  unfold controlWord
  repeat' split
  all_goals simp +contextual [Instr.wf, encodeWord, field_append, -BitVec.reduceAppend]
  all_goals simp +contextual [field_iff_toNat, *]

theorem memoryWord_exact {w : BitVec 32} {op : Nat} (h : (fld w 25 7).toNat = op) :
    Exact .memory w (memoryWord w op) := by
  unfold memoryWord
  repeat' split
  all_goals simp +contextual [Instr.wf, encodeWord, field_append, -BitVec.reduceAppend]
  all_goals simp +contextual [field_iff_toNat, *]

theorem vectorWord_exact {v1 : Bool} {w : BitVec 32} {op : Nat} (h : (fld w 25 7).toNat = op) :
    Exact .vector w (vectorWord v1 w op) := by
  unfold vectorWord
  repeat' split
  all_goals simp +contextual [Instr.wf, encodeWord, field_append, extract_index, -BitVec.reduceAppend]
  all_goals simp +contextual [field_iff_toNat, *]

theorem matrixWord_exact {w : BitVec 32} {op : Nat} (h : (fld w 25 7).toNat = op) :
    Exact .matrix w (matrixWord w op) := by
  unfold matrixWord
  repeat' split
  all_goals simp +contextual [Instr.wf, encodeWord, field_append, -BitVec.reduceAppend]
  all_goals simp +contextual [field_iff_toNat, *]

theorem engineWord_exact {w : BitVec 32} {op : Nat} (h : (fld w 25 7).toNat = op) :
    Exact .engine w (engineWord w op) := by
  unfold engineWord
  repeat' split
  all_goals simp +contextual [Instr.wf, encodeWord, field_append, -BitVec.reduceAppend]
  all_goals simp +contextual [field_iff_toNat, *]

/-! ### The obligation -/

theorem decodeSlot_exact (sl : Slot) (w : BitVec 32) : Exact sl.lane w (decodeSlot sl w) := by
  cases sl with
  | s0 => exact scalarWord_exact rfl
  | s1 => exact scalarWord_exact rfl
  | c => exact controlWord_exact rfl
  | m => exact memoryWord_exact rfl
  | v0 => exact vectorWord_exact rfl
  | v1 => exact vectorWord_exact rfl
  | x => exact matrixWord_exact rfl
  | e => exact engineWord_exact rfl

/-- Settles O58: the decoder of every slot is exact, its checks being all that its words leave open. -/
theorem acceptedWordsAreExact : Obligations.AcceptedWordsAreExact := by
  unfold Obligations.AcceptedWordsAreExact
  exact decodeSlot_exact

end Sys2Proof
end

section
/-! PROOFS. Words and bundles read back (O55, O57): the per-instruction lemmas gathered, and a bundle taken apart into its
header and its one slot word. -/

namespace Sys2Proof.Laws.Roundtrip

/-- The word of any well-formed instruction, in the slot that takes every opcode of its space, decodes to the instruction. -/
theorem statement_of_instr (i : Instr) : Statement i := by
  cases i with
  | add => apply add | addi => apply addi | sub => apply sub | and => apply and | andi => apply andi
  | or => apply or | ori => apply ori | xor => apply xor | xori => apply xori | shl => apply shl
  | shli => apply shli | shr => apply shr | shri => apply shri | sra => apply sra | srai => apply srai
  | min => apply min | max => apply max | minn => apply minn | maxn => apply maxn | addx => apply addx
  | movi => apply movi | movhi => apply movhi | bfx => apply bfx | bfxs => apply bfxs | bfi => apply bfi
  | clz => apply clz | ctz => apply ctz | popc => apply popc | cmp => apply cmp | cmpi => apply cmpi
  | sel => apply sel | plog => apply plog | movp => apply movp | movpSet => apply movpSet | mul => apply mul
  | mulh => apply mulh | mulhn => apply mulhn | div => apply div | divn => apply divn | rem => apply rem
  | remn => apply remn | sfadd => apply sfadd | sfsub => apply sfsub | sfmul => apply sfmul | sfma => apply sfma
  | sfmin => apply sfmin | sfmax => apply sfmax | sfcmp => apply sfcmp | sfcvt => apply sfcvt | br => apply br
  | brp => apply brp | jr => apply jr | call => apply call | callr => apply callr | ret => apply ret
  | loop => apply loop | loopi => apply loopi | brk => apply brk | movc => apply movc | movcw => apply movcw
  | spawn => apply spawn | spawng => apply spawng | jinit => apply jinit | qinit => apply qinit
  | jwait => apply jwait | jwaitHere => apply jwaitHere | yield => apply yield | endTask => apply endTask
  | hold => apply hold | unhold => apply unhold | waitt => apply waitt | barg => apply barg | sysc => apply sysc
  | trap => apply trap | rett => apply rett | rettSkip => apply rettSkip | sleepCg => apply sleepCg
  | sleepRetain => apply sleepRetain | sleepOff => apply sleepOff | wake => apply wake | ckpt => apply ckpt
  | savex => apply savex | restx => apply restx | restxKeep => apply restxKeep | restxDrop => apply restxDrop
  | tlbinvPage => apply tlbinvPage | tlbinvAsid => apply tlbinvAsid | tlbinvAll => apply tlbinvAll
  | icinv => apply icinv | abort => apply abort | ld => apply ld | st => apply st | ldx => apply ldx
  | stx => apply stx | vld => apply vld | vst => apply vst | vlds => apply vlds | vsts => apply vsts
  | vldx => apply vldx | vstx => apply vstx | vldd => apply vldd | vstd => apply vstd | ldfe => apply ldfe
  | ldfeV => apply ldfeV | ldfec => apply ldfec | ldfecV => apply ldfecV | stfe => apply stfe | stfeV => apply stfeV
  | feset => apply feset | feclr => apply feclr | amo => apply amo | amof => apply amof | cas => apply cas
  | vamo => apply vamo | fence => apply fence | stp => apply stp | vstp => apply vstp | contrib => apply contrib
  | pipep => apply pipep | pipeg => apply pipeg | pref => apply pref | vpark => apply vpark
  | vunpark => apply vunpark | dset => apply dset | dsetImg => apply dsetImg | dget => apply dget
  | dgetImg => apply dgetImg | vadd => apply vadd | vsub => apply vsub | vadds => apply vadds | vsubs => apply vsubs
  | vmul => apply vmul | vmulh => apply vmulh | vmulw => apply vmulw | vmac => apply vmac | vmacw => apply vmacw
  | vabsd => apply vabsd | vavg => apply vavg | vmin => apply vmin | vmax => apply vmax | vand => apply vand
  | vor => apply vor | vxor => apply vxor | vandn => apply vandn | vshl => apply vshl | vshr => apply vshr
  | vsra => apply vsra | vclz => apply vclz | vpopc => apply vpopc | vcmp => apply vcmp | vsel => apply vsel
  | vfadd => apply vfadd | vfsub => apply vfsub | vfmul => apply vfmul | vfma => apply vfma | vfmin => apply vfmin
  | vfmax => apply vfmax | vfsgn => apply vfsgn | vfcmp => apply vfcmp | vfclass => apply vfclass
  | vcvt => apply vcvt | vcvtRes => apply vcvtRes | vpack => apply vpack | vunpack => apply vunpack
  | vperm => apply vperm | vperm2 => apply vperm2 | vslide => apply vslide | vrot => apply vrot
  | vbcast => apply vbcast | vbcastEl => apply vbcastEl | vextr => apply vextr | vins => apply vins
  | viota => apply viota | viotaIdx => apply viotaIdx | vcompress => apply vcompress | vexpand => apply vexpand
  | vmov => apply vmov | vzip => apply vzip | vunzip => apply vunzip | mlog => apply mlog | mpopc => apply mpopc
  | mfirst => apply mfirst | mfromNz => apply mfromNz | mfromPre => apply mfromPre | mfromSuf => apply mfromSuf
  | vexp2 => apply vexp2 | vlog2 => apply vlog2 | vrcp => apply vrcp | vrsqrt => apply vrsqrt | vsqrt => apply vsqrt
  | vsincos => apply vsincos | vtanh => apply vtanh | redSum => apply redSum | redMax => apply redMax
  | redmvGet => apply redmvGet | redmvIdx => apply redmvIdx | redmvAdd => apply redmvAdd
  | redmvSet => apply redmvSet | redclr => apply redclr | vcvtsxTo => apply vcvtsxTo
  | vcvtsxFrom => apply vcvtsxFrom | vmatch => apply vmatch | mshape => apply mshape | mldw => apply mldw
  | mldwExpand => apply mldwExpand | mma => apply mma | mmaAbsorb => apply mmaAbsorb | mzero => apply mzero
  | mdrain => apply mdrain | msync => apply msync | cpy => apply cpy | cpyPeer => apply cpyPeer | cpym => apply cpym
  | gath => apply gath | gathList => apply gathList | kvput => apply kvput | kvalloc => apply kvalloc
  | kvgrow => apply kvgrow | kvfree => apply kvfree | coll => apply coll | strm => apply strm
  | strmTag => apply strmTag | steepld => apply steepld | mupdBegin => apply mupdBegin
  | mupdWrite => apply mupdWrite | mupdCommit => apply mupdCommit | mupdAbort => apply mupdAbort
  | engqStat => apply engqStat | engqVmask => apply engqVmask | engqDepth => apply engqDepth
  | engqLast => apply engqLast
  | _ => exact fun _ _ _ e => noWord e

end Sys2Proof.Laws.Roundtrip

namespace Sys2Proof

/-! ### Bundles (R32, R33, R35) -/

/-- The first two bytes of a bundle are its header. -/
theorem header_bytesOf16 (h : BitVec 16) (l : List Byte) :
    byteAt (bytesOf16 h ++ l) 1 ++ byteAt (bytesOf16 h ++ l) 0 = h := by
  change h.extractLsb' 8 8 ++ h.extractLsb' 0 8 = h
  rw [BitVec.extractLsb'_append_extractLsb'_eq_extractLsb' (by rfl), BitVec.extractLsb'_eq_self]

/-- The four bytes behind a header of 16 bits are the first slot word. -/
theorem word32At_bytesOf32 (h : BitVec 16) (w : BitVec 32) (l : List Byte) :
    word32At (bytesOf16 h ++ bytesOf32 w ++ l) 2 = w := by
  change w.extractLsb' 24 8 ++ w.extractLsb' 16 8 ++ w.extractLsb' 8 8 ++ w.extractLsb' 0 8 = w
  iterate 3 rw [BitVec.extractLsb'_append_extractLsb'_eq_extractLsb' (by rfl)]
  exact BitVec.extractLsb'_eq_self

theorem decodeHeader_headerOf (sl : Slot) : decodeHeader (headerOf sl) = .ok ⟨false, 0, 1#8 <<< sl.index⟩ := by
  cases sl <;> rfl

theorem presentSlots_one (sl : Slot) : presentSlots (1#8 <<< sl.index) = [sl] := by
  cases sl <;> rfl

theorem pres_headerOf (sl : Slot) : (headerOf sl).extractLsb' 0 8 = 1#8 <<< sl.index := by
  cases sl <;> rfl

theorem pres_ne_zero (sl : Slot) : (1#8 <<< sl.index == 0) = false := by
  cases sl <;> rfl

/-- A slot word that its slot accepts, alone in a bundle, is what the bundle decodes to (R33, R47). -/
theorem decodeBundle_bundleBytes {sl : Slot} {w : BitVec 32} {i : Instr} (h : decodeSlot sl w = .ok i) (rest : List Byte) :
    decodeBundle (bundleBytes sl w ++ rest) = .ok (.slots 0 6 [⟨sl, w, i⟩]) := by
  have hlen : ¬ (bundleBytes sl w ++ rest).length < 6 := by
    simp [bundleBytes, bytesOf16, bytesOf32]
  have hhead : byteAt (bundleBytes sl w ++ rest) 1 ++ byteAt (bundleBytes sl w ++ rest) 0 = headerOf sl := by
    rw [bundleBytes, List.append_assoc, header_bytesOf16]
  have hword : word32At (bundleBytes sl w ++ rest) 2 = w := word32At_bytesOf32 (headerOf sl) w rest
  simp only [decodeBundle, hhead, pres_headerOf, bundleSize, presentSlots_one, decodeHeader_headerOf, decodeSlots, hword, h,
    pres_ne_zero, List.length_singleton, if_neg hlen, Bool.false_eq_true, if_false]

/-- The header of a no-op bundle or of a padding header, with its stall count (R35). -/
def slotlessHeader (pad : Bool) (stall : BitVec 5) : BitVec 16 := (if pad then 1#3 else 0#3) ++ stall ++ 0#8

/-- A header without slots has its fields, and only the no-op bundle must stall (R35). -/
theorem decodeHeader_slotless {pad : Bool} {stall : BitVec 5} (h : pad = true ∨ stall ≠ 0) :
    decodeHeader (slotlessHeader pad stall) = .ok ⟨pad, stall, 0⟩ := by
  have top : (slotlessHeader pad stall).extractLsb' 14 2 = 0 := by decide +revert
  have bit13 : (slotlessHeader pad stall).getLsbD 13 = pad := by decide +revert
  have middle : (slotlessHeader pad stall).extractLsb' 8 5 = stall := bitsHi bitsLo
  have low : (slotlessHeader pad stall).extractLsb' 0 8 = 0 := bitsLo
  have nonzero : (slotlessHeader pad stall == 0) = false := by decide +revert
  simp only [decodeHeader, top, bit13, middle, low, nonzero, bne_self_eq_false, Bool.and_false, Bool.false_eq_true, if_false]

/-- The bundle of a header without slots (R35). -/
theorem decodeBundle_slotless {pad : Bool} {stall : BitVec 5} (h : pad = true ∨ stall ≠ 0) (l : List Byte) :
    decodeBundle (bytesOf16 (slotlessHeader pad stall) ++ l) =
      .ok (.header (if pad then .paddingHeader stall else .noOpBundle stall)) := by
  have low : (slotlessHeader pad stall).extractLsb' 0 8 = 0 := bitsLo
  have hlen : ¬ (bytesOf16 (slotlessHeader pad stall) ++ l).length < bundleSize 0 :=
    Nat.not_lt.2 (Nat.le_add_left 2 l.length)
  simp only [decodeBundle, header_bytesOf16, low, decodeHeader_slotless h, if_neg hlen, BEq.rfl, if_true]

/-- Every instruction but a step of the device has an encoding. -/
theorem encode_isSome (i : Instr) : (encode i).isSome = !Machine.isDeviceStep i := by
  cases i <;> rfl

/-- Settles O57: each instruction's word is read back in its slot, and a bundle of one slot and a header are read back from
their bytes. -/
theorem decodeUndoesEncode : Obligations.DecodeUndoesEncode := by
  unfold Obligations.DecodeUndoesEncode
  refine ⟨fun i ln w rest hwf henc => ?_, fun stall i rest bs hi hwf henc => ?_, fun i hi => ?_⟩
  · have hslot := Laws.Roundtrip.statement_of_instr i hwf ln w henc
    exact ⟨hslot, decodeBundle_bundleBytes hslot rest⟩
  · obtain rfl | rfl := hi <;> obtain rfl := Option.some.inj henc
    · exact decodeBundle_slotless (pad := false) (.inr (by simpa [Instr.wf] using hwf)) rest
    · exact decodeBundle_slotless (pad := true) (.inl rfl) rest
  · exact Option.isSome_iff_exists.1 (by rw [encode_isSome, hi]; rfl)

/-- Settles O55: the decoder, run on the words. -/
theorem decodingWords : Obligations.DecodingWords := by
  unfold Obligations.DecodingWords
  exact ⟨rfl, rfl, rfl, rfl, rfl, rfl, rfl, rfl, rfl, rfl, rfl, rfl⟩

end Sys2Proof
end

section
/-! PROOFS. Transfers (O28): their targets, the link, and the one update of the task that each of them is. -/

namespace Sys2Proof.Machine

/-! ### One update of the task on the current tile -/

/-- A change of a tile that keeps its memories changes no byte. -/
theorem SameBytes.modT {s : State} {f : Tile → Tile} (hsp : (f s.t).sp = s.t.sp) (hcd : (f s.t).caddy = s.t.caddy) :
    SameBytes s (s.modT f) := by
  have htile : ∀ x, ((s.modT f).tile x).sp = (s.tile x).sp ∧ ((s.modT f).tile x).caddy = (s.tile x).caddy := by
    intro x
    rw [State.modT, State.tile_modTile]
    split
    · next h => subst h; exact ⟨hsp, hcd⟩
    · exact ⟨rfl, rfl⟩
  exact ⟨fun x a => by rw [(htile x).1], fun x a => by rw [(htile x).2], fun _ => rfl, fun _ => rfl⟩

/-- A change of the current tile that leaves it with the registers `r` and the issue record `i`, and else as it was. -/
theorem Became.modT {s : State} {f : Tile → Tile} {r : Regs} {i : Issue}
    (h : f s.t = { s.t with regs := r, issue := i }) : Became s (s.modT f) r i := by
  have ht : (s.modT f).t = { s.t with regs := r, issue := i } := by rw [State.t_modT, h]
  have hr : (s.modT f).regs = r := congrArg Tile.regs ht
  refine ⟨hr, congrArg Tile.issue ht, State.modT_congr s ?_, SameBytes.modT (by rw [h]) (by rw [h])⟩
  rw [h, ht, hr]

theorem State.modRegs_modIssue (s : State) (f : Regs → Regs) (g : Issue → Issue) :
    (s.modRegs f).modIssue g = s.modT fun x => { x with regs := f x.regs, issue := g x.issue } :=
  State.modT_modT ..

/-- A taken transfer after an update of the registers that leaves them `r`. -/
theorem Became.modRegs_jump {s : State} {f : Regs → Regs} {r : Regs} (h : (s.modRegs f).regs = r) (l : Addr48) :
    Became s ((s.modRegs f).jump l) r { s.t.issue with npc := some l } := by
  rw [State.regs_modRegs] at h
  rw [State.jump, State.modRegs_modIssue]
  exact Became.modT (congrArg (fun r => { s.t with regs := r, issue := { s.t.issue with npc := some l } }) h)

theorem Became.jump (s : State) (l : Addr48) : Became s (s.jump l) s.regs { s.t.issue with npc := some l } :=
  Became.modT rfl

/-! ### Transfers (R36, R78, R79) -/

/-- The target of a relative transfer is the bundle's address and twice the offset (R36). -/
theorem State.target_eq (s : State) (o : BitVec 21) :
    s.target o = BitVec.ofInt 48 ((s.src.pc.toNat : Int) + 2 * o.toInt) := by
  have hshift : o.signExtend 48 <<< (1 : Nat) = BitVec.ofInt 48 (2 * o.toInt) := by
    rw [BitVec.shiftLeft_eq_mul_twoPow, BitVec.mul_comm, BitVec.ofInt_mul]
    rfl
  rw [State.target, hshift, BitVec.ofInt_add]
  congr 1
  simp [State.pc]

theorem State.returnAddr_eq (s : State) :
    s.returnAddr = BitVec.ofNat 64 ((s.src.pc.toNat + s.t.issue.size) % 2 ^ 48) := by
  apply BitVec.eq_of_toNat_eq
  simp [State.returnAddr, State.pc]

/-- `BRP` ends the inner loop where it is active, and the outer one otherwise (R78, R82). -/
theorem State.regs_endLoop (s : State) : s.endLoop.regs = { s.regs with ctl :=
    if s.src.ctl.loop1.lc ≠ 0 then { s.regs.ctl with loop1 := { s.regs.ctl.loop1 with lc := 0 } }
    else { s.regs.ctl with loop0 := { s.regs.ctl.loop0 with lc := 0 } } } := by
  simp only [State.endLoop, State.regs_modCtl, bne_iff_ne]

/-- `CALL` and `CALLR` write the address after the bundle to `s63` (R79). -/
theorem State.regs_link (s : State) : (s.wrS 63 s.returnAddr).regs =
    { s.regs with s := s.regs.s.set 63 (BitVec.ofNat 64 ((s.src.pc.toNat + s.t.issue.size) % 2 ^ 48)) } := by
  rw [State.returnAddr_eq]
  exact State.regs_modRegs ..

theorem State.cond_eq_false {s : State} {q : PReg} {neg : Bool} : s.cond q neg = false ↔ s.rdP q = neg := by
  simp [State.cond]

/-- A transfer whose condition fails changes nothing (R78, R79). -/
theorem exec_transfer_not_taken {s : State} {q : PReg} {neg : Bool} (h : s.cond q neg = false) (o : BitVec 21) (a : SReg) :
    ∀ i ∈ [Instr.br q neg o, .brp q neg o, .call q neg o, .jr a neg q, .callr a neg q, .ret a neg q],
      exec i s = .next s := by
  have hif : ∀ {α : Type} {x y : α}, (if s.cond q neg then x else y) = y := by simp [h]
  simp only [List.forall_mem_cons, List.not_mem_nil, false_implies, implies_true, and_true]
  exact ⟨congrArg _ hif, congrArg _ hif, congrArg _ hif, hif, hif, hif⟩

/-- A transfer to the address in a register, which is even (R36, R79). -/
theorem State.jumpReg_even {s : State} {ra : Word} (h : ra.getLsbD 0 = false) (k : State → State) :
    s.jumpReg ra k = .next ((k s).jump (ra.extractLsb' 0 48)) :=
  if_neg (ne_true_of_eq_false h)

/-- A transfer to the address in a register, which is odd, raises MISALIGN (R36, R79). -/
theorem State.jumpReg_odd {s : State} {ra : Word} (h : ra.getLsbD 0 = true) (k : State → State) :
    s.jumpReg ra k = s.issueTrap causeMisalign ra :=
  if_pos h

/-- A transfer to the address in a register is taken when its condition holds (R79). -/
theorem exec_register_transfer {s : State} {q : PReg} {neg : Bool} (h : s.cond q neg = true) (a : SReg) :
    exec (.jr a neg q) s = s.jumpReg (s.rdS a) id ∧
    exec (.callr a neg q) s = s.jumpReg (s.rdS a) (fun s => s.wrS 63 s.returnAddr) ∧
    exec (.ret a neg q) s = s.jumpReg (s.rdS a) id :=
  ⟨if_pos h, if_pos h, if_pos h⟩

/-- A transfer to an offset is taken when its condition holds (R78, R79). -/
theorem exec_relative_transfer {s : State} {q : PReg} {neg : Bool} (h : s.cond q neg = true) (o : BitVec 21) :
    exec (.br q neg o) s = .next (s.jump (s.target o)) ∧
    exec (.brp q neg o) s = .next (s.endLoop.jump (s.target o)) ∧
    exec (.call q neg o) s = .next ((s.wrS 63 s.returnAddr).jump (s.target o)) :=
  ⟨congrArg _ (if_pos h), congrArg _ (if_pos h), congrArg _ (if_pos h)⟩

/-- Settles O28: by whether the condition of the transfer holds, and for an address in a register by its bit 0. -/
theorem transferResults : Obligations.TransferResults := by
  unfold Obligations.TransferResults
  intro s q neg o a dest reg back goes linked c ended
  refine ⟨fun h => exec_transfer_not_taken (State.cond_eq_false.2 h) o a, fun h => ?_⟩
  have taken : s.cond q neg = true := eq_true_of_ne_false fun e => h (State.cond_eq_false.1 e)
  have link : ∀ l, Became s ((s.wrS 63 s.returnAddr).jump l) linked { s.t.issue with npc := some l } :=
    Became.modRegs_jump s.regs_link
  obtain ⟨hbr, hbrp, hcall⟩ := exec_relative_transfer taken o
  obtain ⟨hjr, hcallr, hret⟩ := exec_register_transfer taken a
  rw [State.target_eq] at hbr hbrp hcall
  refine ⟨⟨_, hbr, Became.jump s dest⟩, ⟨_, hbrp, Became.modRegs_jump s.regs_endLoop dest⟩, ⟨_, hcall, link dest⟩,
    fun even => ?_, fun odd => ?_⟩
  · rw [State.jumpReg_even even] at hjr hcallr hret
    exact ⟨⟨_, hjr, Became.jump s reg⟩, ⟨_, hcallr, link reg⟩, ⟨_, hret, Became.jump s reg⟩⟩
  · rw [State.jumpReg_odd odd] at hjr hcallr hret
    simp only [List.forall_mem_cons, List.not_mem_nil, false_implies, implies_true, and_true]
    exact ⟨hjr, hcallr, hret⟩

end Sys2Proof.Machine
end

section
/-! PROOFS. Loops and headers (O29): what a fetch leaves alone, the programming of a loop, its step, and the headers without
slots. -/

namespace Sys2Proof.Machine

/-! ### What a fetch leaves alone (R34, R81, R95, R356) -/

/-- From `s` to `t` no register of a task and no scratchpad differs, and the current tile is the same. -/
def Undisturbed (s t : State) : Prop := t.cur = s.cur ∧ Quiet s t

theorem Undisturbed.refl (s : State) : Undisturbed s s := ⟨rfl, Quiet.refl s⟩

theorem Undisturbed.trans {s t u : State} (h : Undisturbed s t) (k : Undisturbed t u) : Undisturbed s u :=
  ⟨k.1.trans h.1, h.2.trans k.2⟩

theorem Undisturbed.regs {s t : State} (h : Undisturbed s t) : t.regs = s.regs := by
  rw [State.regs, State.t, h.1]
  exact h.2.regs s.cur

/-- A change of a tile that keeps its registers and its scratchpad. -/
theorem Undisturbed.modTile (s : State) (t : TileIx) {f : Tile → Tile} (hr : ∀ x, (f x).regs = x.regs)
    (hs : ∀ x, (f x).sp = x.sp) : Undisturbed s (s.modTile t f) := ⟨rfl, Quiet.modTile s t hr hs⟩

theorem Undisturbed.fillDie (s : State) (d : DieIx) (pa : Nat) : Undisturbed s (s.fillDie d pa) := by
  unfold State.fillDie
  split
  · exact Undisturbed.refl s
  · exact Undisturbed.refl s

/-- A translation fills translation buffers alone (R356). -/
theorem Undisturbed.translate {s s' : State} {t : TileIx} {c : CtxNo} {acc : Acc} {va : BitVec 48} {pa : Nat} {e : Word}
    (h : s.translate t c acc va = .ok pa e s') : Undisturbed s s' := by
  have put : ∀ te, Undisturbed s (s.modTile t fun x => { x with tlb := addCapped 64 x.tlb te }) := fun te =>
    Undisturbed.modTile s t (fun _ => rfl) (fun _ => rfl)
  have use : ∀ {a large s1},
      (if leafAllows a acc then TransR.ok (leafPa a large va) a s1 else .fail false) = .ok pa e s' → s1 = s' := by
    intro a large s1 h
    split at h
    · exact (TransR.ok.inj h).2.2
    · cases h
  simp only [State.translate] at h
  split at h
  · exact use h ▸ Undisturbed.refl s
  · split at h
    · exact use h ▸ put _
    · split at h
      · cases h
      · cases h
      · exact use h ▸ put _

/-- The plan of a piece and of those behind it: the piece lies in the L1 or is translated, and then the others are planned. -/
theorem State.gPlan_cons {s s' : State} {t : TileIx} {c : CtxNo} {acc : Acc} {l1 : Bool} {va : BitVec 48} {n : Nat}
    {ps : List (BitVec 48 × Nat)} {l : List (BitVec 48 × Nat × GSrc)}
    (h : State.gPlan t c acc l1 s ((va, n) :: ps) = .ok (s', l)) :
    ∃ s1 l', (s1 = s ∨ ∃ pa e, s.translate t c acc va = .ok pa e s1) ∧ State.gPlan t c acc l1 s1 ps = .ok (s', l') := by
  simp only [State.gPlan] at h
  repeat' split at h
  all_goals cases h
  · exact ⟨_, _, .inl rfl, ‹_›⟩
  all_goals exact ⟨_, _, .inr ⟨_, _, ‹_›⟩, ‹_›⟩

/-- The plan of an access changes what its translations change. -/
theorem Undisturbed.gPlan {t : TileIx} {c : CtxNo} {acc : Acc} {l1 : Bool} (ps : List (BitVec 48 × Nat)) :
    ∀ {s s' : State} {l}, State.gPlan t c acc l1 s ps = .ok (s', l) → Undisturbed s s' := by
  induction ps with
  | nil =>
    intro s s' l h
    cases h
    exact Undisturbed.refl s
  | cons p ps ih =>
    intro s s' l h
    obtain ⟨s1, l', rfl | ⟨pa, e, htrans⟩, hrest⟩ := State.gPlan_cons h
    · exact ih hrest
    · exact (Undisturbed.translate htrans).trans (ih hrest)

/-- What a fetch reads it takes into the cache of the die, and out of the L1 (R95, R109). -/
theorem Undisturbed.gFetch {t : TileIx} {c : CtxNo} {l1 own : Bool} {ctl : State → Nat → Nat → List Byte}
    (ps : List (BitVec 48 × Nat × GSrc)) : ∀ s, Undisturbed s (State.gFetch t c l1 own ctl s ps).1 := by
  induction ps with
  | nil => exact Undisturbed.refl
  | cons p ps ih =>
    intro s
    obtain ⟨va, n, src⟩ := p
    refine Undisturbed.trans ?_ (ih _)
    cases src with
    | line bytes pa => exact Undisturbed.refl s
    | mem pa =>
      refine (Undisturbed.fillDie s (dieOf t) pa).trans (Undisturbed.modTile _ t (fun x => ?_) fun x => ?_)
      · split <;> rfl
      · split <;> rfl
    | host pa => exact Undisturbed.refl s
    | ctl off => exact Undisturbed.refl s

theorem Undisturbed.codeAt {s s' : State} {t : TileIx} {a : Addr48} {bs : List Byte} (h : s.codeAt t a = .ok (s', bs)) :
    Undisturbed s s' := by
  simp only [State.codeAt] at h
  split at h
  · cases h
    exact Undisturbed.refl s
  · split at h
    · cases h
    · next s1 l hplan =>
      cases h
      exact (Undisturbed.gPlan _ hplan).trans ((Undisturbed.gFetch l s1).trans
        (Undisturbed.modTile _ t (fun _ => rfl) (fun _ => rfl)))

/-! ### Hardware loops (R81, R82) -/

/-- The registers with loop 1 or loop 0 programmed. -/
def Regs.withLoop (r : Regs) (l : Bool) (x : LoopRegs) : Regs :=
  { r with ctl := if l = true then { r.ctl with loop1 := x } else { r.ctl with loop0 := x } }

theorem State.regs_setLoop (s : State) (l : Bool) (x : LoopRegs) : (s.setLoop l x).regs = s.regs.withLoop l x := by
  rw [State.setLoop, State.regs_modIssue, State.regs_modCtl, Regs.withLoop]

/-- A loop that is programmed: its registers, and a mark that its count does not step in this bundle (R81, R82). -/
theorem Became.setLoop (s : State) (l : Bool) (x : LoopRegs) : Became s (s.setLoop l x) (s.regs.withLoop l x)
    (if l = true then { s.t.issue with wroteLc1 := true } else { s.t.issue with wroteLc0 := true }) := by
  rw [State.setLoop, State.modCtl, State.modRegs_modIssue]
  exact Became.modT rfl

/-- An end inside the bundle is ILLEGAL_OP (R81). -/
theorem State.loop_end_inside {s : State} {off : Nat} (h : 2 * off < s.t.issue.size) (i : Instr) (l : Bool)
    (count : BitVec 32) : s.loop i l count off = s.illegal :=
  if_pos h

/-- The registers of a loop of `count` passes whose end field is `off`, programmed by the bundle being issued (R81). -/
def State.loopRegs (s : State) (count : BitVec 32) (off : Nat) : LoopRegs :=
  ⟨count, s.src.pc + BitVec.ofNat 48 s.t.issue.size, s.src.pc + BitVec.ofNat 48 (2 * off)⟩

/-- With a count, the loop is programmed (R81). -/
theorem State.loop_counted {s : State} {off : Nat} {count : BitVec 32} (h : s.t.issue.size ≤ 2 * off) (hc : count ≠ 0)
    (i : Instr) (l : Bool) : s.loop i l count off = .next (s.setLoop l (s.loopRegs count off)) :=
  (if_neg (Nat.not_lt.2 h)).trans (if_neg (by simpa using hc))

/-- With a count of 0, the loop is programmed and control passes the bundle at its end (R81). -/
theorem State.loop_zero {s s1 : State} {off : Nat} {bs : List Byte} (h : s.t.issue.size ≤ 2 * off)
    (hcode : s.codeAt s.cur (s.loopRegs 0 off).le = .ok (s1, bs)) (i : Instr) (l : Bool) :
    s.loop i l 0 off = .next ((s1.setLoop l (s.loopRegs 0 off)).jump
      (followHeader (s.loopRegs 0 off).le (bs.getD 1 0 ++ bs.getD 0 0))) := by
  have hread : s.codeAt s.cur (s.pc + BitVec.ofNat 48 (2 * off)) = .ok (s1, bs) := hcode
  simp only [State.loop, if_neg (Nat.not_lt.2 h), State.bundleAfter, hread]
  rfl

/-- The bundle at `a` is the end of an active loop (R82). -/
abbrev LoopRegs.EndsAt (l : LoopRegs) (a : Addr48) : Prop := l.lc ≠ 0 ∧ a = l.le

theorem LoopRegs.endsAt_iff {l : LoopRegs} {a : Addr48} : (l.lc != 0 && a == l.le) = true ↔ l.EndsAt a := by
  simp [LoopRegs.EndsAt]

theorem count_left_iff {c : BitVec 32} : (c - 1 != 0) = true ↔ c ≠ 1 := by
  rw [bne_iff_ne]
  exact not_congr (by bv_omega)

/-- At the end of the inner loop with a count left, the inner loop starts again (R82). -/
theorem loopStep_inner {a : Addr48} {l1 : LoopRegs} (h : l1.EndsAt a) (hc : l1.lc ≠ 1) (next : Addr48) (l0 : LoopRegs) :
    loopStep a next l0 l1 = (l1.ls, l0.lc, l1.lc - 1) :=
  (if_pos (LoopRegs.endsAt_iff.2 h)).trans (if_pos (count_left_iff.2 hc))

/-- Where the inner loop does not start again, the outer loop steps its count at its own end (R82). -/
theorem loopStep_outer {a : Addr48} {l1 : LoopRegs} (h : ¬ l1.EndsAt a ∨ l1.lc = 1) (next : Addr48) (l0 : LoopRegs) :
    let c1 := if l1.EndsAt a then 0 else l1.lc
    loopStep a next l0 l1 =
      if l0.EndsAt a then (if l0.lc = 1 then next else l0.ls, l0.lc - 1, c1) else (next, l0.lc, c1) := by
  have outer : ∀ c1 : BitVec 32, (if l0.lc ≠ 1 then (l0.ls, l0.lc - 1, c1) else (next, 0, c1)) =
      (if l0.lc = 1 then next else l0.ls, l0.lc - 1, c1) := by
    intro c1
    by_cases hc : l0.lc = 1
    · rw [if_neg (Classical.not_not.2 hc), if_pos hc, hc]
      rfl
    · rw [if_pos hc, if_neg hc]
  simp only [loopStep, LoopRegs.endsAt_iff, count_left_iff, outer]
  by_cases h1 : l1.EndsAt a
  · have hc : ¬ l1.lc ≠ 1 := Classical.not_not.2 (h.resolve_left (Classical.not_not.2 h1))
    simp only [if_pos h1, if_neg hc]
  · simp only [if_neg h1]

/-! ### Headers without slots (R35) -/

theorem State.modT_passTo {s : State} {f : Tile → Tile} (h : (f s.t).regs = s.regs) (next : Addr48) :
    (s.modT f).passTo next = s.modT fun x => { f x with regs := s.regs.passed next } := by
  have hr : (s.modT f).regs = s.regs := by rw [State.regs, State.t_modT, h]
  simp only [State.passTo, hr, State.modRegs, State.modT_modT]
  refine State.modT_congr s ?_
  rw [h]
  rfl

/-- The start of the next line is the next multiple of 64 (R35). -/
theorem nextLine_eq (a : Addr48) : nextLine a = BitVec.ofNat 48 (64 * (a.toNat / 64 + 1)) := by
  have mask : ∀ i < 48, (0xFFFFFFFFFFC0#48).getLsbD i = !decide (i < 6) := by decide
  have cut : a &&& 0xFFFFFFFFFFC0#48 = a >>> 6 <<< 6 := by
    refine BitVec.eq_of_getLsbD_eq fun i hi => ?_
    rw [BitVec.getLsbD_and, mask i hi, BitVec.getLsbD_shiftLeft, BitVec.getLsbD_ushiftRight]
    by_cases h : i < 6
    · simp [h]
    · simp [h, hi, show 6 + (i - 6) = i by omega]
  apply BitVec.eq_of_toNat_eq
  rw [nextLine, cut]
  simp only [BitVec.toNat_add, BitVec.toNat_shiftLeft, BitVec.toNat_ushiftRight, BitVec.toNat_ofNat, BitVec.ofNat_eq_ofNat,
    Nat.shiftLeft_eq, Nat.shiftRight_eq_div_pow]
  omega

/-- A tile at a cycle, where a task passes a header to the bundle at `next`. -/
def State.passHeader (s : State) (next : Addr48) (cyc issue : Nat) : State :=
  s.modT fun x => { x with cyc := cyc, nextIssue := issue, regs := s.regs.passed next }

/-- A no-op bundle that stalls waits, takes a cycle, and the next bundle begins 2 bytes on (R35). -/
theorem exec_noOpBundle {s : State} {stall : BitVec 5} (h : stall ≠ 0) : exec (.noOpBundle stall) s =
    .next (s.passHeader (s.regs.pc + 2) (s.t.waitStall stall + 1) (s.t.waitStall stall + 1)) := by
  have hwf : (Instr.noOpBundle stall).wf = true := bne_iff_ne.2 h
  have pass := State.modT_passTo (s := s) (f := fun x => { x with
    cyc := x.waitStall stall + 1, nextIssue := x.waitStall stall + 1 }) rfl (s.regs.pc + 2)
  exact (if_pos hwf).trans (congrArg _ (pass.trans (State.modT_congr s rfl)))

/-- A no-op bundle that does not stall is ILLEGAL_OP (R35). -/
theorem exec_noOpBundle_zero (s : State) : exec (.noOpBundle 0) s = s.illegal := rfl

/-- A padding header goes on at the next line; one that does not stall takes no cycle (R35). -/
theorem exec_paddingHeader (s : State) (stall : BitVec 5) : exec (.paddingHeader stall) s =
    .next (s.passHeader (nextLine s.regs.pc)
      (if stall = 0 then s.t.cyc else s.t.waitStall stall + 1)
      (if stall = 0 then s.t.nextIssue else s.t.waitStall stall + 1)) := by
  have kept : (if stall == 0 then s.t else
      { s.t with cyc := s.t.waitStall stall + 1, nextIssue := s.t.waitStall stall + 1 }).regs = s.regs := by
    split <;> rfl
  refine congrArg _ ((State.modT_passTo kept _).trans (State.modT_congr s ?_))
  by_cases h : stall = 0
  · simp only [h, BEq.rfl, if_true]
  · simp only [beq_iff_eq, if_neg h]

/-- Settles O29: the loop a bundle programs, the step of the loops behind a bundle, and the two headers. -/
theorem loopAndHeaderResults : Obligations.LoopAndHeaderResults := by
  unfold Obligations.LoopAndHeaderResults
  refine ⟨fun s l a e n e' => ?_, fun a next l0 l1 => ?_, fun s stall => ?_⟩
  · intro programs
    have hloop : ∀ i count off, exec i s = s.loop i l count off → programs i count off := by
      intro i count off hi
      refine ⟨fun h => hi.trans (State.loop_end_inside h i l count), fun h => ⟨fun hc => ?_, fun hc s1 bs hcode => ?_⟩⟩
      · exact ⟨_, hi.trans (State.loop_counted h hc i l), Became.setLoop ..⟩
      · subst hc
        refine ⟨_, hi.trans (State.loop_zero h hcode i l), ?_, ?_⟩
        · rw [State.jump, State.regs_modIssue, State.regs_setLoop, (Undisturbed.codeAt hcode).regs]
          rfl
        · rw [State.jump, State.t_modIssue]
          rfl
    exact ⟨hloop _ _ _ rfl, hloop _ _ _ rfl⟩
  · intro at0 at1
    refine ⟨fun h1 hc => loopStep_inner h1 hc next l0, fun h1 hc h0 => ?_, fun h1 h0 => ?_, fun h0 h => ?_⟩
    · exact (loopStep_outer (.inr hc) next l0).trans ((if_neg h0).trans (by rw [if_pos h1]))
    · exact (loopStep_outer (.inl h1) next l0).trans ((if_neg h0).trans (by rw [if_neg h1]))
    · exact (loopStep_outer h next l0).trans (if_pos h0)
  · intro at' passes line
    have passed : ∀ i next cyc issue, exec i s = .next (s.passHeader next cyc issue) → passes i next cyc issue :=
      fun i next cyc issue h => ⟨_, h, SameBytes.modT rfl rfl, rfl⟩
    have padding : exec (.paddingHeader stall) s = .next (s.passHeader line _ _) :=
      nextLine_eq s.regs.pc ▸ exec_paddingHeader s stall
    refine ⟨fun h => passed _ _ _ _ (exec_noOpBundle h), fun h => h ▸ exec_noOpBundle_zero s, fun h => passed _ _ _ _ ?_,
      fun h => passed _ _ _ _ ?_⟩
    · rwa [if_neg h, if_neg h] at padding
    · rwa [if_pos h, if_pos h] at padding

end Sys2Proof.Machine
end

section
/-! PROOFS. What completes with one scalar register or one predicate: a write, alone or with flags, meets the frame of the
statements about the scalar space (R18, R19, R21, R188). -/

namespace Sys2Proof.Machine

/-- A write of a scalar register changes the scalar registers alone. -/
theorem Regs.setS_frame (r : Regs) (d : SReg) (v : Word) : r.setS d v = { r with s := (r.setS d v).s } := by
  unfold Regs.setS
  split <;> rfl

/-- A write of a predicate changes the predicates alone. -/
theorem Regs.setP_frame (r : Regs) (d : PReg) (v : Bool) : r.setP d v = { r with p := (r.setP d v).p } := by
  unfold Regs.setP
  split <;> rfl

/-- The registers with the flags `f` joined to `FPFLAGS`. -/
def Regs.raised (r : Regs) (f : Flags) : Regs := { r with ctl := { r.ctl with fpflags := r.ctl.fpflags ||| f } }

theorem Regs.raised_zero (r : Regs) : r.raised 0 = r := by
  simp [Regs.raised]

theorem Became.wrS (s : State) (d : SReg) (v : Word) : Became s (s.wrS d v) (s.regs.setS d v) s.t.issue :=
  Became.modT rfl

/-- An update of the registers, and then flags raised. -/
theorem Became.modRegs_raise (s : State) (g : Regs → Regs) (f : Flags) : Became s ((s.modRegs g).raise f)
    ((g s.regs).raised f) { s.t.issue with raised := (s.t.issue.slot, f) :: s.t.issue.raised } := by
  rw [State.raise, State.modCtl, State.modRegs_modIssue, State.modRegs, State.modT_modT]
  exact Became.modT rfl

/-- A task that became one with `d` written and flags raised differs in nothing else. -/
theorem Became.scalarOnly {s t : State} {i : Issue} {d : SReg} {v : Word} {f : Flags}
    (h : Became s t ((s.regs.setS d v).raised f) i) : ScalarOnly s t d v f := by
  obtain ⟨hregs, -, hframe⟩ := h
  have hget : ∀ a, t.regs.getS a = (s.regs.setS d v).getS a := fun a => by rw [hregs]; rfl
  refine ⟨?_, fun a ha => ?_, ?_, hframe⟩
  · rw [hget, Regs.getS_setS, if_pos rfl]
  · rw [hget, Regs.getS_setS, if_neg ha]
    split
    · next h0 => rw [h0, Regs.getS, if_pos rfl]
    · rfl
  · rw [hregs, Regs.setS_frame]
    rfl

theorem ScalarOnly.wrS (s : State) (d : SReg) (v : Word) : ScalarOnly s (s.wrS d v) d v 0 :=
  Became.scalarOnly (by rw [Regs.raised_zero]; exact Became.wrS s d v)

theorem ScalarOnly.wrS_raise (s : State) (d : SReg) (v : Word) (f : Flags) : ScalarOnly s ((s.wrS d v).raise f) d v f :=
  (Became.modRegs_raise s (·.setS d v) f).scalarOnly

section
variable {i : Instr} {s : State} {f : Flags}

/-- An instruction whose meaning writes a scalar register. -/
theorem WritesS.of_wrS {d : SReg} {v : Word} (h : exec i s = .next (s.wrS d v)) : WritesS i s d v 0 :=
  ⟨_, h, ScalarOnly.wrS s d v⟩

/-- An instruction whose meaning writes a scalar register and raises flags. -/
theorem WritesS.of_raise {d : SReg} {v : Word} (h : exec i s = .next ((s.wrS d v).raise f)) : WritesS i s d v f :=
  ⟨_, h, ScalarOnly.wrS_raise s d v f⟩

/-- An instruction whose meaning writes a predicate and raises flags. -/
theorem WritesP.of_raise {d : PReg} {v : Bool} (h : exec i s = .next ((s.wrP d v).raise f)) : WritesP i s d v f := by
  obtain ⟨hregs, -, hframe⟩ := Became.modRegs_raise s (·.setP d v) f
  have hget : ∀ a, ((s.wrP d v).raise f).regs.getP a = (s.regs.setP d v).getP a := fun a => by rw [State.wrP, hregs]; rfl
  refine ⟨_, h, ?_, fun a ha => ?_, ?_, hframe⟩
  · rw [hget, Regs.getP_setP, if_pos rfl]
    split
    · next h0 => rw [h0]; rfl
    · next h0 => rw [beq_false_of_ne h0, Bool.false_or]
  · rw [hget, Regs.getP_setP, if_neg ha]
    split
    · next h0 => simp [h0, Regs.getP]
    · rfl
  · refine hregs.trans ?_
    rw [Regs.setP_frame]
    exact congrArg (fun p => ({ s.regs with p := p } : Regs).raised f) (congrArg Regs.p hregs).symm

end

end Sys2Proof.Machine
end

section
/-! PROOFS. Bitfields and counts (O2): the bits of a field moved and masked, and the zeros from either end of a number. -/

namespace Sys2Proof.Machine

/-! ### Fields (R66) -/

theorem getLsbD_lowOnes {n : Nat} (h : n ≤ 64) (j : Nat) : (lowOnes n).getLsbD j = decide (j < n) := by
  rw [lowOnes, BitVec.getLsbD_ofNat, Nat.testBit_two_pow_sub_one]
  by_cases hj : j < n
  · simp [hj, Nat.lt_of_lt_of_le hj h]
  · simp [hj]

section
variable {pos len j : Nat} (A : Word)

/-- A field moved to the low end, with zeros above it. -/
theorem getLsbD_field (h : pos + len < 64) :
    (A >>> pos &&& lowOnes (len + 1)).getLsbD j = (decide (j ≤ len) && A.getLsbD (pos + j)) := by
  rw [BitVec.getLsbD_and, BitVec.getLsbD_ushiftRight, getLsbD_lowOnes (by omega), Bool.and_comm]
  simp only [Nat.lt_succ_iff]

/-- A field moved to the low end, with copies of its top bit above it. -/
theorem getLsbD_signed_field (h : pos + len < 64) (hj : j < 64) :
    ((A <<< (63 - pos - len)).sshiftRight (63 - len)).getLsbD j = A.getLsbD (pos + min j len) := by
  rw [BitVec.getLsbD_sshiftRight, BitVec.msb_eq_getLsbD_last]
  simp only [BitVec.getLsbD_shiftLeft]
  by_cases hl : j ≤ len
  · have hin : 63 - len + j < 64 := by omega
    have hat : 63 - len + j - (63 - pos - len) = pos + min j len := by omega
    have hbelow : ¬ 63 - len + j < 63 - pos - len := by omega
    simp [hin, hat, hbelow, show ¬ 64 ≤ j by omega]
  · have hout : ¬ 63 - len + j < 64 := by omega
    have hat : 63 - (63 - pos - len) = pos + min j len := by omega
    have hbelow : ¬ 63 < 63 - pos - len := by omega
    simp [hout, hat, hbelow, show ¬ 64 ≤ j by omega]

/-- A field of one word replaced by the low bits of another. -/
theorem getLsbD_insert_field (D : Word) (h : pos + len < 64) (hj : j < 64) :
    (D &&& ~~~(lowOnes (len + 1) <<< pos) ||| A <<< pos &&& lowOnes (len + 1) <<< pos).getLsbD j =
      if pos ≤ j ∧ j ≤ pos + len then A.getLsbD (j - pos) else D.getLsbD j := by
  have hmask : (lowOnes (len + 1) <<< pos).getLsbD j = decide (pos ≤ j ∧ j ≤ pos + len) := by
    rw [BitVec.getLsbD_shiftLeft, getLsbD_lowOnes (by omega), Bool.eq_iff_iff]
    simp only [Bool.and_eq_true, Bool.not_eq_true', decide_eq_true_eq, decide_eq_false_iff_not]
    omega
  rw [BitVec.getLsbD_or, BitVec.getLsbD_and, BitVec.getLsbD_and, BitVec.getLsbD_not, hmask]
  by_cases hf : pos ≤ j ∧ j ≤ pos + len
  · rw [decide_eq_true hf, if_pos hf, BitVec.getLsbD_shiftLeft]
    simp [hj, Nat.not_lt.2 hf.1]
  · simp [hf, hj]

end

/-! ### Counts (R67) -/

/-- The zeros above the highest set bit. -/
theorem clzNat_spec {w x : Nat} (hx : x < 2 ^ w) : clzNat w x ≤ w ∧
    (∀ j, w - clzNat w x ≤ j → x.testBit j = false) ∧
    (clzNat w x < w → x.testBit (w - 1 - clzNat w x) = true) := by
  unfold clzNat
  split
  · next h0 => simp [h0]
  · next h0 =>
    have hlog : x.log2 < w := (Nat.log2_lt h0).2 hx
    refine ⟨by omega, fun j hj => ?_, fun _ => ?_⟩
    · have hle : x.log2 + 1 ≤ j := by omega
      exact Nat.testBit_lt_two_pow (Nat.lt_of_lt_of_le Nat.lt_log2_self (Nat.pow_le_pow_right (by decide) hle))
    · rw [show w - 1 - (w - 1 - x.log2) = x.log2 by omega]
      exact Nat.testBit_log2 h0

/-- An odd number and its complement to a power of two share bit 0 alone. -/
theorem odd_and_two_pow_sub {q n : Nat} (h : 2 * q + 1 < 2 ^ n) : (2 * q + 1) &&& (2 ^ n - (2 * q + 1)) = 1 := by
  obtain ⟨p, rfl⟩ : ∃ p, n = p + 1 := ⟨n - 1, by cases n <;> omega⟩
  rw [Nat.pow_succ] at h ⊢
  have hq : q < 2 ^ p := by omega
  refine Nat.eq_of_testBit_eq fun j => ?_
  cases j with
  | zero =>
    have hodd : (2 ^ p * 2 - (2 * q + 1)) % 2 = 1 := by omega
    simp [Nat.testBit_zero, hodd]
  | succ j =>
    have hhalf : (2 ^ p * 2 - (2 * q + 1)) / 2 = 2 ^ p - (q + 1) := by omega
    have hhalf' : (2 * q + 1) / 2 = q := by omega
    rw [Nat.testBit_and, Nat.testBit_succ, Nat.testBit_succ, Nat.testBit_succ, hhalf, hhalf',
      Nat.testBit_two_pow_sub_succ hq]
    cases q.testBit j <;> simp

/-- A positive number is its lowest set bit times its odd part. -/
theorem exists_two_pow_mul_odd {x : Nat} (h : 0 < x) : ∃ k q, x = 2 ^ k * (2 * q + 1) := by
  induction x using Nat.strongRecOn with
  | ind x ih =>
    rcases Nat.mod_two_eq_zero_or_one x with heven | hodd
    · obtain ⟨k, q, hhalf⟩ := ih (x / 2) (by omega) (by omega)
      refine ⟨k + 1, q, ?_⟩
      rw [Nat.pow_succ, Nat.mul_comm (2 ^ k), Nat.mul_assoc, ← hhalf]
      omega
    · refine ⟨0, x / 2, ?_⟩
      rw [Nat.pow_zero]
      omega

/-- The lowest set bit of a number of `w` bits lies below bit `w`. -/
theorem lt_of_two_pow_mul_lt {w k m : Nat} (hm : 0 < m) (h : 2 ^ k * m < 2 ^ w) : k < w :=
  (Nat.pow_lt_pow_iff_right (by decide)).1 (Nat.lt_of_le_of_lt (Nat.le_mul_of_pos_right _ hm) h)

/-- The count of zeros of a number given by its lowest set bit and its odd part. -/
theorem ctzNat_two_pow_mul_odd {w k q : Nat} (h : 2 ^ k * (2 * q + 1) < 2 ^ w) : ctzNat w (2 ^ k * (2 * q + 1)) = k := by
  have hpos : 0 < 2 ^ k * (2 * q + 1) := Nat.mul_pos (Nat.two_pow_pos k) (Nat.succ_pos _)
  obtain ⟨n, rfl⟩ := Nat.exists_eq_add_of_le (Nat.le_of_lt (lt_of_two_pow_mul_lt (Nat.succ_pos _) h))
  rw [Nat.pow_add] at h
  have lowest : 2 ^ k * (2 * q + 1) &&& (2 ^ (k + n) - 2 ^ k * (2 * q + 1)) = 2 ^ k := by
    calc 2 ^ k * (2 * q + 1) &&& (2 ^ (k + n) - 2 ^ k * (2 * q + 1))
        = (2 * q + 1) <<< k &&& (2 ^ n - (2 * q + 1)) <<< k := by
          rw [Nat.shiftLeft_eq, Nat.shiftLeft_eq, Nat.mul_comm _ (2 ^ k), Nat.mul_comm _ (2 ^ k), Nat.pow_add, Nat.mul_sub]
      _ = ((2 * q + 1) &&& (2 ^ n - (2 * q + 1))) <<< k := Nat.shiftLeft_and_distrib.symm
      _ = 2 ^ k := by rw [odd_and_two_pow_sub (Nat.lt_of_mul_lt_mul_left h), Nat.shiftLeft_eq, Nat.one_mul]
  rw [ctzNat, if_neg (Nat.ne_of_gt hpos), lowest, Nat.log2_two_pow]

/-- The zeros below the lowest set bit. -/
theorem ctzNat_spec {w x : Nat} (hx : x < 2 ^ w) : ctzNat w x ≤ w ∧ (∀ j, j < ctzNat w x → x.testBit j = false) ∧
    (ctzNat w x < w → x.testBit (ctzNat w x) = true) := by
  rcases Nat.eq_zero_or_pos x with rfl | h0
  · simp [ctzNat]
  · obtain ⟨k, q, rfl⟩ := exists_two_pow_mul_odd h0
    rw [ctzNat_two_pow_mul_odd hx]
    refine ⟨Nat.le_of_lt (lt_of_two_pow_mul_lt (Nat.succ_pos _) hx), fun j hj => ?_, fun _ => ?_⟩
    · rw [Nat.testBit_two_pow_mul, decide_eq_false (Nat.not_le.2 hj), Bool.false_and]
    · simp [Nat.testBit_two_pow_mul, Nat.testBit_zero]

/-- The number of set bits among the low `n`. -/
theorem popNat_eq_countP (n x : Nat) : popNat n x = (List.range n).countP fun j => x.testBit j := by
  induction n with
  | zero => rfl
  | succ n ih => simp [popNat, ih, List.range_succ, List.countP_append, List.countP_cons]

/-! ### The obligation -/

/-- Settles O2: the bits of the three fields, and the counts of zeros and of set bits of the word as a number. -/
theorem scalarBitfieldResults : Obligations.ScalarBitfieldResults := by
  unfold Obligations.ScalarBitfieldResults
  intro s d a pos len1 A
  refine ⟨fun hfit => ?_, ?_, ?_, ?_⟩
  · have hwf : decide (pos.toNat + len1.toNat < 64) = true := decide_eq_true hfit
    exact ⟨⟨_, .of_wrS (checked_of_wf hwf), fun j _ => getLsbD_field A hfit⟩,
      ⟨_, .of_wrS (checked_of_wf hwf), fun j hj => getLsbD_signed_field A hfit hj⟩,
      ⟨_, .of_wrS (checked_of_wf hwf), fun j hj => getLsbD_insert_field A _ hfit hj⟩⟩
  · obtain ⟨hle, hzeros, hone⟩ := clzNat_spec A.isLt
    exact ⟨_, hle, .of_wrS rfl, hzeros, hone⟩
  · obtain ⟨hle, hzeros, hone⟩ := ctzNat_spec A.isLt
    exact ⟨_, hle, .of_wrS rfl, hzeros, hone⟩
  · exact .of_wrS (congrArg (fun n => Host.Outcome.next (s.wrS d (BitVec.ofNat 64 n))) (popNat_eq_countP 64 A.toNat))

end Sys2Proof.Machine
end

section
/-! PROOFS. Products and quotients (O3): the words of the model as the exact numbers of the statement. -/

namespace Sys2Proof.Machine

/-- The flag of a division is DZ exactly where the divisor is 0 (R73). -/
theorem divFlag_eq (b : Word) : divFlag b = if b = 0 then flDZ else 0 := by
  simp [divFlag, flIf]

/-- The signed quotient truncates toward zero, and wraps for the most negative dividend by -1 (R73). -/
theorem sdiv_eq_ofInt (x y : Word) : x.sdiv y = BitVec.ofInt 64 (x.toInt.tdiv y.toInt) :=
  BitVec.eq_of_toInt_eq (by rw [BitVec.toInt_sdiv, BitVec.toInt_ofInt])

/-- The signed remainder has the sign of the dividend (R72). -/
theorem srem_eq_ofInt (x y : Word) : x.srem y = BitVec.ofInt 64 (x.toInt.tmod y.toInt) := by
  rw [← BitVec.toInt_srem, BitVec.ofInt_toInt]

theorem udiv_eq_ofNat (x y : Word) : x.udiv y = BitVec.ofNat 64 (x.toNat / y.toNat) := by
  rw [← BitVec.toNat_udiv, BitVec.ofNat_toNat, BitVec.setWidth_eq]
  rfl

theorem umod_eq_ofNat (x y : Word) : x.umod y = BitVec.ofNat 64 (x.toNat % y.toNat) := by
  rw [← BitVec.toNat_umod, BitVec.ofNat_toNat, BitVec.setWidth_eq]
  rfl

/-- A division that answers `z` for a divisor of 0 and `v` for any other, with the flag of a division by zero (R73). -/
theorem WritesS.of_division {i : Instr} {s : State} {d : SReg} {b z v w : Word}
    (h : exec i s = .next ((s.wrS d (if b = 0 then z else v)).raise (divFlag b))) (hv : v = w) :
    WritesS i s d (if b = 0 then z else w) (if b = 0 then flDZ else 0) :=
  .of_raise (by rw [← hv, ← divFlag_eq, h])

/-- Settles O3: the three products, and the four divisions as one shape with their quotients and remainders. -/
theorem scalarMulDivResults : Obligations.ScalarMulDivResults := by
  unfold Obligations.ScalarMulDivResults
  intro s d a b A B f
  have hmul : A * B = BitVec.ofNat 64 (A.toNat * B.toNat) := BitVec.eq_of_toNat_eq (by simp)
  exact ⟨hmul ▸ .of_wrS rfl, .of_wrS rfl, .of_wrS rfl,
    .of_division rfl (sdiv_eq_ofInt A B), .of_division rfl (udiv_eq_ofNat A B),
    .of_division rfl (srem_eq_ofInt A B), .of_division rfl (umod_eq_ofNat A B)⟩

end Sys2Proof.Machine
end

section
/-! PROOFS. Scalar floating instructions (O5): arithmetic, minimum and maximum and comparison past their guard, and the
conversion behind the step of its seed. -/

namespace Sys2Proof.Machine

/-- A checked scalar floating instruction whose operands are well formed writes its rounded result and sets its flags. -/
theorem WritesS.of_wrFloat {i : Instr} {s : State} {d : SReg} {t : ETy} {x : Nat × Flags} (hwf : i.wf = true)
    (h : exec i s = checked i s (.next (s.wrFloat d t x))) : WritesS i s d (scalarOf t x.1) x.2 :=
  .of_raise (h.trans (checked_of_wf hwf))

/-- Settles O5: by the guards on type, rounding and condition, and with the seed that the conversion leaves. -/
theorem scalarFloatResults : Obligations.ScalarFloatResults := by
  unfold Obligations.ScalarFloatResults
  intro s d a b pd t dt st r c A B D low w
  refine ⟨fun ht => ⟨fun hr => ?_, .of_wrFloat ht rfl, .of_wrFloat ht rfl, fun hc => ?_⟩, ?_⟩
  · have hwf : (t.isScalarFloat && r.isArith) = true := Bool.and_eq_true_iff.2 ⟨ht, hr⟩
    exact ⟨.of_wrFloat hwf rfl, .of_wrFloat hwf rfl, .of_wrFloat hwf rfl, .of_wrFloat hwf rfl⟩
  · have hwf : (c.isFloat && t.isScalarFloat) = true := Bool.and_eq_true_iff.2 ⟨hc, ht⟩
    exact .of_raise (checked_of_wf (i := .sfcmp pd c a b t) hwf)
  · have only := ScalarOnly.wrS_raise (s.setSeed (nextSeed (s.isSR r) s.regs.ctl.srseed)) d
    refine ⟨_, _, _, rfl, rfl, rfl, ?_, only _ _⟩
    exact (congrArg (·.ctl.srseed) (only _ _).rest).trans (congrArg (·.ctl.srseed) (State.regs_modCtl s _))

end Sys2Proof.Machine
end

section
/-! PROOFS. Privilege and software traps (O31): the guards on the mode, and the causes of `BRK` and `TRAP`. -/

namespace Sys2Proof.Machine

/-- Outside system mode a write of a system register raises PRIV (R26, R351). -/
theorem exec_movcw_priv {s : State} {a : SReg} {cr : BitVec 10} (hwf : (Instr.movcw a cr).wf = true)
    (hcr : crSystemWrite cr = true) (hsys : s.src.ctl.sys = false) :
    exec (.movcw a cr) s = s.issueTrap causePriv s.whereWord :=
  (checked_of_wf hwf).trans (if_pos (by simp [hcr, State.system, hsys]))

/-- Outside a handler and outside system mode a read of a fault register raises PRIV (R26, R382). -/
theorem exec_movc_priv {s : State} {d : SReg} {cr : BitVec 10} (hwf : (Instr.movc d cr).wf = true)
    (hcr : crFault cr = true) (hsys : s.src.ctl.sys = false) (hhnd : s.src.ctl.hnd = false) :
    exec (.movc d cr) s = s.issueTrap causePriv s.whereWord :=
  (checked_of_wf hwf).trans (if_pos (by simp [hcr, State.system, hsys, hhnd]))

/-- Outside a handler the check of a return raises PRIV (R382). -/
theorem State.rettGuard_of_task {s : State} (h : s.src.ctl.hnd = false) (a w : Word) (bad : Bool) (k : Out) :
    s.rettGuard a w bad k = s.issueTrap causePriv s.whereWord :=
  if_pos (by simp [h])

/-- The first cause that `TRAP` raises in a bundle is kept until the other slots have taken effect (R384). -/
theorem exec_trap_inBundle {s : State} (h : s.inBundle = true) (hp : s.t.issue.pend = none) (i : BitVec 19) :
    exec (.trap i) s = .next (s.modIssue fun x =>
      { x with pend := some { s.fault causeTrapi (i.zeroExtend 64) 0 false with step := true } }) := by
  refine congrArg Host.Outcome.next ((if_pos h).trans (State.modT_congr s ?_))
  simp only [hp]
  rfl

/-- Outside a bundle `TRAP` is taken at once (R384). -/
theorem exec_trap_alone {s : State} (h : s.inBundle = false) (i : BitVec 19) :
    exec (.trap i) s = .next (s.takeTrap s.cur { s.fault causeTrapi (i.zeroExtend 64) 0 false with step := true }) :=
  congrArg Host.Outcome.next (if_neg (ne_true_of_eq_false h))

/-- Settles O31: the guards on system mode and on the handler, and the two software traps inside a bundle and alone. -/
theorem privilegeAndSoftwareTraps : Obligations.PrivilegeAndSoftwareTraps := by
  unfold Obligations.PrivilegeAndSoftwareTraps
  refine ⟨fun s a b d sc cr => ?_, fun s i => ?_⟩
  · intro priv
    refine ⟨fun hsys => ?_, fun hhnd => ?_⟩
    · have guarded : ∀ k, systemOnly s k = s.issueTrap causePriv s.whereWord := fun k => systemOnly_of_user hsys
      exact ⟨guarded _, guarded _, guarded _, guarded _, fun hwf hcr => exec_movcw_priv hwf hcr hsys,
        fun hwf hcr hhnd => exec_movc_priv hwf hcr hsys hhnd⟩
    · exact ⟨State.rettGuard_of_task hhnd .., State.rettGuard_of_task hhnd ..⟩
  · intro f
    refine ⟨fun hin => ⟨?_, fun hp => ?_⟩, fun hout => ?_⟩
    · exact ⟨_, State.issueTrap_inBundle hin .., Became.modT rfl⟩
    · exact ⟨_, exec_trap_inBundle hin hp i, Became.modT rfl⟩
    · have halone : s.inBundle = false := by rw [State.inBundle, hout]; rfl
      exact ⟨State.issueTrap_alone halone .., exec_trap_alone halone i⟩

end Sys2Proof.Machine
end

section
/-! PROOFS. Fences (O24): what a release and an acquire of a tile leave on its way and in its caches, and what they leave alone. -/

namespace Sys2Proof.Machine

/-! ### Writes performed at their homes (R95, R109) -/

@[simp] theorem State.cluster_modDie (s : State) (d : DieIx) (f : Die → Die) (c : ClusterIx) :
    (s.modDie d f).cluster c = s.cluster c := rfl

@[simp] theorem State.die_modCluster (s : State) (c : ClusterIx) (f : Cluster → Cluster) (d : DieIx) :
    (s.modCluster c f).die d = s.die d := rfl

theorem State.memPut_frame (s : State) (host : Bool) (pa : Nat) (ps : List Patch) : (s.memPut host pa ps).cur = s.cur ∧
    (s.memPut host pa ps).clusters = s.clusters ∧ (s.memPut host pa ps).ctxs = s.ctxs ∧ (s.memPut host pa ps).dies = s.dies := by
  cases host <;> exact ⟨rfl, rfl, rfl, rfl⟩

/-- Neither the clusters nor the contexts differ, nor the writes on their way at any die. -/
structure HomesOnly (s t : State) : Prop where
  cur : t.cur = s.cur
  clusters : t.clusters = s.clusters
  ctxs : t.ctxs = s.ctxs
  wbuf : ∀ d, (t.die d).wbuf = (s.die d).wbuf

/-- A write performed at its home changes of a die only the bytes of its cache. -/
theorem HomesOnly.atHome (s : State) (d : DieIx) (w : PendingWrite) : HomesOnly s (s.atHome d w) := by
  obtain ⟨hcur, hclusters, hctxs, hdies⟩ := s.memPut_frame w.host w.addr w.bytes
  have hdie : ∀ x, (s.memPut w.host w.addr w.bytes).die x = s.die x := fun x => by simp only [State.die, hdies]
  rw [State.atHome]
  split
  · exact ⟨hcur, hclusters, hctxs, fun x => by rw [hdie]⟩
  · refine ⟨hcur, hclusters, hctxs, fun x => ?_⟩
    rw [State.die_modDie]
    split
    · next h => rw [h, hdie]
    · rw [hdie]

theorem HomesOnly.foldl_atHome (d : DieIx) (ws : List PendingWrite) (s : State) :
    HomesOnly s (ws.foldl (fun s w => s.atHome d w) s) :=
  List.foldlRecOn (motive := HomesOnly s) ws _ ⟨rfl, rfl, rfl, fun _ => rfl⟩ fun u hu w _ =>
    have hw := HomesOnly.atHome u d w
    ⟨hw.cur.trans hu.cur, hw.clusters.trans hu.clusters, hw.ctxs.trans hu.ctxs, fun x => (hw.wbuf x).trans (hu.wbuf x)⟩

theorem HomesOnly.cluster {s t : State} (h : HomesOnly s t) (c : ClusterIx) : t.cluster c = s.cluster c := by
  simp only [State.cluster, h.clusters]

/-- Writes performed at their homes change no register and no scratchpad. -/
theorem Quiet.foldl_atHome (d : DieIx) (ws : List PendingWrite) (s : State) :
    Quiet s (ws.foldl (fun s w => s.atHome d w) s) := fun x => by
  rw [State.tile_foldl_atHome]
  exact ⟨rfl, rfl⟩

/-! ### Releases (R107, R112, R113) -/

/-- A scope whose point is the homes (R107). -/
def Scope.far (sc : Scope) : Bool := sc == .device || sc == .system

/-- No write that a tile sees is on its way short of the point of a scope: its cluster, the cache of its die, or the homes. -/
def State.Released (s : State) (t : TileIx) (sc : Scope) : Prop :=
  (s.tile t).wbuf = [] ∧ (sc ≠ .cluster → (s.cluster (clusterOf t)).wbuf = []) ∧
    (Scope.far sc = true → (s.die (dieOf t)).wbuf = [])

/-- A release takes from its own tile every write but those to the control region, and changes no tile in anything else. -/
theorem State.tile_releaseAt (s : State) (t : TileIx) {sc : Scope} (hsc : sc ≠ .tile) (x : TileIx) :
    (s.releaseAt t sc).tile x = (s.modTile t fun y => { y with wbuf := y.wbuf.filter (·.ctl) }).tile x := by
  cases sc with
  | tile => exact absurd rfl hsc
  | cluster | die | device | system => exact State.tile_foldl_atHome ..

theorem Quiet.releaseAt (s : State) (t : TileIx) (sc : Scope) : Quiet s (s.releaseAt t sc) := fun x => by
  by_cases hsc : sc = .tile
  · subst hsc
    exact ⟨rfl, rfl⟩
  · rw [s.tile_releaseAt t hsc x]
    refine Quiet.modTile s t (fun _ => ?_) (fun _ => ?_) x <;> rfl

/-- A release changes no context, and not the tile being executed. -/
theorem State.releaseAt_frame (s : State) (t : TileIx) (sc : Scope) :
    (s.releaseAt t sc).cur = s.cur ∧ (s.releaseAt t sc).ctxs = s.ctxs := by
  cases sc with
  | tile => exact ⟨rfl, rfl⟩
  | cluster | die | device | system =>
    have h := HomesOnly.foldl_atHome (dieOf t)
    exact ⟨(h _ _).cur, (h _ _).ctxs⟩

/-- With no control write on its way, a release wider than its tile performs every write the tile sees at the scope's point. -/
theorem State.released_releaseAt {s : State} {t : TileIx} {sc : Scope} (hsc : sc ≠ .tile) (hctl : (s.tile t).ctlPending = false) :
    (s.releaseAt t sc).Released t sc := by
  have hown : (s.tile t).wbuf.filter (·.ctl) = [] := List.filter_eq_nil_iff.mpr (List.any_eq_false.mp hctl)
  have hcluster := fun ws u => (HomesOnly.foldl_atHome (dieOf t) ws u).cluster (clusterOf t)
  have hdie := fun ws u => (HomesOnly.foldl_atHome (dieOf t) ws u).wbuf (dieOf t)
  refine ⟨by rw [s.tile_releaseAt t hsc, State.tile_modTile_self]; exact hown, fun hne => ?_, fun hfar => ?_⟩
  · cases sc with
    | tile => exact absurd rfl hsc
    | cluster => exact absurd rfl hne
    | die | device | system =>
      refine (congrArg Cluster.wbuf (hcluster _ _)).trans ?_
      simp [State.cluster_modCluster]
  · cases sc with
    | tile | cluster | die => cases hfar
    | device | system =>
      refine (hdie _ _).trans ?_
      simp [State.die_modDie]

/-! ### Acquires (R109, R115) -/

/-- No line of a context is in the L1 of a tile, nor, where the point of the scope is the homes, any line in the cache of its
die. -/
def State.Fresh (s : State) (t : TileIx) (asid : BitVec 7) (sc : Scope) : Prop :=
  (sc ≠ .tile → ∀ l ∈ (s.tile t).l1, l.asid ≠ asid) ∧ (Scope.far sc = true → (s.die (dieOf t)).cache = [])

theorem Quiet.dropL1 (s : State) (t : TileIx) (asid : BitVec 7) : Quiet s (s.dropL1 t asid) :=
  Quiet.modTile s t (fun _ => rfl) (fun _ => rfl)

theorem State.l1_dropL1 (s : State) (t : TileIx) (asid : BitVec 7) : ∀ l ∈ ((s.dropL1 t asid).tile t).l1, l.asid ≠ asid := by
  simp [State.dropL1]

theorem State.die_dropDie (s : State) (d : DieIx) : (s.dropDie d).die d = { s.die d with cache := [] } := by
  simp [State.dropDie, State.die_modDie]

theorem Quiet.acquireAt (s : State) (t : TileIx) (asid : BitVec 7) (sc : Scope) : Quiet s (s.acquireAt t asid sc) := by
  cases sc with
  | tile => exact Quiet.refl s
  | cluster => exact Quiet.dropL1 s t asid
  | die => exact Quiet.dropL1 _ t asid
  | device | system =>
    refine Quiet.trans ?_ (Quiet.dropL1 _ t asid)
    refine Quiet.trans ?_ (Quiet.foldl_atHome (dieOf t) _ _)
    exact Quiet.modTile _ t (fun _ => rfl) (fun _ => rfl)

theorem State.acquireAt_cur (s : State) (t : TileIx) (asid : BitVec 7) (sc : Scope) : (s.acquireAt t asid sc).cur = s.cur := by
  cases sc with
  | tile | cluster | die => rfl
  | device | system => exact (HomesOnly.foldl_atHome (dieOf t) _ _).cur

theorem State.fresh_acquireAt (s : State) (t : TileIx) (asid : BitVec 7) (sc : Scope) :
    (s.acquireAt t asid sc).Fresh t asid sc := by
  cases sc with
  | tile => exact ⟨fun h => absurd rfl h, fun h => nomatch h⟩
  | cluster | die => exact ⟨fun _ => State.l1_dropL1 _ t asid, fun h => nomatch h⟩
  | device | system => exact ⟨fun _ => State.l1_dropL1 _ t asid, fun _ => congrArg Die.cache (State.die_dropDie _ _)⟩

/-- An acquire sends no write on its way: after a release at its scope none is there still. -/
theorem State.Released.acquireAt {s : State} {t : TileIx} {sc : Scope} (h : s.Released t sc) (asid : BitVec 7) :
    (s.acquireAt t asid sc).Released t sc := by
  obtain ⟨htile, hcluster, hdie⟩ := h
  cases sc with
  | tile => exact ⟨htile, hcluster, hdie⟩
  | cluster => exact ⟨by simpa [State.acquireAt, State.dropL1] using htile, hcluster, hdie⟩
  | die =>
    refine ⟨by simpa [State.acquireAt, State.dropL1] using htile, fun _ => ?_, fun hfar => nomatch hfar⟩
    simp [State.acquireAt, State.dropL1, State.cluster_modCluster]
  | device | system =>
    refine ⟨?_, fun _ => ?_, fun _ => ?_⟩
    · simp [State.acquireAt, State.dropL1, State.dropDie, State.tile_foldl_atHome, htile]
    · simp [State.acquireAt, State.dropL1, State.dropDie, (HomesOnly.foldl_atHome _ _ _).cluster, State.cluster_modCluster]
    · simp [State.acquireAt, State.dropL1, State.die_dropDie, (HomesOnly.foldl_atHome _ _ _).wbuf, State.die_modDie]

/-! ### The obligation -/

/-- The state after a fence: a release, then an acquire, as its order asks (R143). -/
def State.fenced (s : State) (sc : Scope) (o : Order) : State :=
  let s1 := if Order.rel o then s.releaseAt s.cur sc else s
  if Order.acq o then s1.acquireAt s.cur (s.ctx s.regs.ctl.ctxn).asid sc else s1

/-- An acquire behind a release drops the lines of the context that the task had before it. -/
theorem State.acquireEdge_releaseEdge (s : State) (sc : Scope) : (s.releaseEdge sc).acquireEdge (s.releaseEdge sc).cur sc =
    (s.releaseAt s.cur sc).acquireAt s.cur (s.ctx s.regs.ctl.ctxn).asid sc := by
  obtain ⟨hcur, hctxs⟩ := s.releaseAt_frame s.cur sc
  have hregs := (Quiet.releaseAt s s.cur sc).regs s.cur
  rw [State.acquireEdge, State.releaseEdge, hcur, State.ctx, hctxs, hregs]
  rfl

/-- The edges of a fence, which touches no memory of its own (R143). -/
def fenceMem (o : Order) : MemAcc := ⟨[], false, false, Order.acq o, Order.rel o⟩

/-- A fence that no access and no control write holds back is performed at once (R143). -/
theorem exec_fence_of_free {s : State} {o : Order} (hwf : o.isFence = true) (sc : Scope) (hm : s.mustWait (fenceMem o) = false)
    (hctl : Order.rel o = true → s.t.ctlPending = false) : exec (.fence sc o) s = .next (s.fenced sc o) := by
  have hfree : exec (.fence sc o) s = if Order.rel o && s.t.ctlPending then s.aside (.fence sc o) (fenceMem o)
      else .next (let s1 := if Order.rel o then s.releaseEdge sc else s
        if Order.acq o then s1.acquireEdge s1.cur sc else s1) :=
    (checked_of_wf (i := .fence sc o) hwf).trans (State.orderGuard_of_free hm ..)
  refine hfree.trans ?_
  cases o with
  | relaxed => cases hwf
  | acq => rfl
  | rel => exact if_neg (by simp [hctl rfl])
  | acqrel => exact (if_neg (by simp [hctl rfl])).trans (congrArg Host.Outcome.next (s.acquireEdge_releaseEdge sc))

theorem Quiet.fenced (s : State) (sc : Scope) (o : Order) : Quiet s (s.fenced sc o) := by
  have hrel : Quiet s (if Order.rel o then s.releaseAt s.cur sc else s) := by
    split
    · exact Quiet.releaseAt s s.cur sc
    · exact Quiet.refl s
  rw [State.fenced]
  split
  · exact hrel.trans (Quiet.acquireAt _ _ _ _)
  · exact hrel

theorem State.fenced_cur (s : State) (sc : Scope) (o : Order) : (s.fenced sc o).cur = s.cur := by
  have hrel : (if Order.rel o then s.releaseAt s.cur sc else s).cur = s.cur := by
    split
    · exact (s.releaseAt_frame s.cur sc).1
    · rfl
  rw [State.fenced]
  split
  · exact (State.acquireAt_cur ..).trans hrel
  · exact hrel

/-- After a fence with a release wider than the tile no write is on its way, whether an acquire followed or not. -/
theorem State.released_fenced {s : State} {sc : Scope} {o : Order} (hsc : sc ≠ .tile) (hrel : Order.rel o = true)
    (hctl : s.t.ctlPending = false) : (s.fenced sc o).Released s.cur sc := by
  have h := State.released_releaseAt hsc hctl
  rw [State.fenced, if_pos hrel]
  split
  · exact h.acquireAt _
  · exact h

theorem State.fresh_fenced (s : State) (sc : Scope) {o : Order} (hacq : Order.acq o = true) :
    (s.fenced sc o).Fresh s.cur (s.ctx s.regs.ctl.ctxn).asid sc := by
  rw [State.fenced, if_pos hacq]
  exact State.fresh_acquireAt ..

/-- Settles O24: the fence is performed as its release and its acquire, whose points hold what each of them establishes. -/
theorem fenceResults : Obligations.FenceResults := by
  unfold Obligations.FenceResults
  intro s sc o hwf hm hctl far
  have hquiet := Quiet.fenced s sc o
  refine ⟨s.fenced sc o, exec_fence_of_free hwf sc hm hctl, hquiet.sameScratch, hquiet.regs, fun hrel hsc => ?_, fun hacq => ?_⟩
  · rw [State.t, State.fenced_cur]
    exact State.released_fenced hsc hrel (hctl hrel)
  · rw [State.t, State.fenced_cur]
    exact State.fresh_fenced s sc hacq

end Sys2Proof.Machine
end
